-- ==== Sys2Proof/Word.lean ====
section
/-! DEFINITION. The word types of the Plerum D9 and the sparse maps its state is made of. -/

namespace Sys2Proof

/-- A byte of memory. -/
abbrev Byte := BitVec 8

/-- A 32-bit register or instruction word (14 R338, R340). -/
abbrev Word := BitVec 32

/-- A 64-bit pair, address, name or latch lane (14 R341, R346). -/
abbrev Dword := BitVec 64

/-- A set of lanes: bit L stands for lane L (00 R9, 13 R328). -/
abbrev Mask := BitVec 32

/-- A timestamp of the package protocol, compared modulo 2^48 (04 R97 to R99). -/
abbrev Stamp := BitVec 48

/-- A SHA-384 digest or measurement register (05 R133). -/
abbrev Digest := BitVec 384

/-- A sparse map: strictly rising keys, each with its value. -/
abbrev Map (V : Type) := List (Nat × V)

end Sys2Proof
end

