-- ==== Sys2Proof/Syntax.lean ====
section
/-! DEFINITION. The syntax of the machine's steps: operands, messages and one constructor for each row of the
opcode table, the 186 instruction words of R353 first and then the 151 events. -/

namespace Sys2Proof

/-- A source code of R343. -/
inductive Src where
  /-- 0x00 to 0x7F: v0 to v127. -/
  | v (n : Fin 128)
  /-- 0x80 to 0x83: the latches. -/
  | q (k : Fin 4)
  /-- 0x84. -/
  | zero
  /-- 0x85. -/
  | lane
  /-- 0x86. -/
  | plane
  /-- 0x87. -/
  | crew
  /-- 0x88 to 0x8F. -/
  | p (k : Fin 8)
  /-- 0x90 to 0x93. -/
  | gp (k : Fin 4)
  /-- 0xC0 to 0xFF: g0 to g63. -/
  | g (n : Fin 64)
  /-- 0x94 to 0xBF: reserved. -/
  | reserved (c : BitVec 8)
  deriving DecidableEq, Repr

/-- A destination code of R343. -/
inductive Dst where
  /-- 0x00 to 0x7F: v0 to v127. -/
  | v (n : Fin 128)
  /-- 0x80: the result enters the latches and is written nowhere else. -/
  | none
  /-- 0x88 to 0x8F. -/
  | p (k : Fin 8)
  /-- 0x90 to 0x93. -/
  | gp (k : Fin 4)
  /-- 0xA0 to 0xA7: an accumulator tile. -/
  | acc (k : Fin 8)
  /-- 0xC0 to 0xFF: g0 to g63. -/
  | g (n : Fin 64)
  /-- Every other code: reserved. -/
  | reserved (c : BitVec 8)
  deriving DecidableEq, Repr

/-- The P field of a J-format word (R338). -/
inductive PredField where
  /-- 0 to 7. -/
  | p (k : Fin 8)
  /-- 8 to 11. -/
  | gp (k : Fin 4)
  /-- 12 to 15: reserved. -/
  | reserved (c : BitVec 4)
  deriving DecidableEq, Repr

/-- The causes of R321. -/
inductive Cause where
  | illegal | addrNoncanon | page | perm | poison | cellLost | peerLost | timeout | firewall
  | haloWrite | planeAlign | stackOverflow
  | lnSecondUse | lnStale | lnForeign | lnWidth | lnFull
  | abft | nv | dz | ovf | unf | nx | trap | bkpt
  deriving DecidableEq, Repr

/-- What ECC finds in a line that is read (01 R17, R18). -/
inductive EccResult where
  | clean | corrected | uncorrectable
  deriving DecidableEq, Repr

/-- Names one access in flight: its context, unit (coded as R324 codes UNIT) and number. -/
structure AccRef where
  ctx : Nat
  unit : Nat
  acc : Nat
  deriving DecidableEq, Repr

/-- A message of the cross-cell protocol (03 R64). Endpoints are named by number. -/
structure XMsg where
  /-- Line number: the domain physical address divided by 128. -/
  line : Nat
  /-- The endpoint that sends the message. -/
  src : Nat
  /-- The endpoint the line's data goes to. -/
  req : Nat
  /-- Line data, where the message carries it. -/
  data : Option (List Byte)
  /-- Marked M (ownership) rather than S. -/
  own : Bool
  /-- The poison flag (R68). -/
  poison : Bool
  /-- A Refuse for the offset (PAGE) rather than for the firewall. -/
  page : Bool
  /-- The compute die of the requester (or, in WrBk and Cmp, of the owner) for which its package asks
  (04 R96; notes/assumptions/15.md). -/
  die : Nat := 0
  deriving DecidableEq, Repr

/-- The party of a package message: a compute die, or another endpoint of the home's cell (04 R94). -/
inductive Party where
  | die (d : Nat)
  | mate (ep : Nat)
  deriving DecidableEq, Repr

/-- How DData marks the line it carries (04 R106). -/
inductive Grant where
  | s | e | m
  deriving DecidableEq, Repr

/-- A message of the package protocol (04 R106). -/
structure DMsg where
  line : Nat
  src : Party
  /-- The requester named in the message. -/
  req : Party
  /-- The home itself is the requester (04 R109). -/
  toHome : Bool
  pts : Stamp
  wts : Stamp
  rts : Stamp
  grant : Grant
  /-- Omitted on a matching renewal (04 R101). -/
  data : Option (List Byte)
  poison : Bool
  /-- When the line's last lease was granted (04 R101): its cycle plus one; 0 for never. -/
  lastGrant : Nat
  /-- The compute die of the requester (or, in DWrBk and DCmp, of the owner) for which its package asks
  (04 R96; notes/assumptions/15.md). -/
  die : Nat := 0
  deriving DecidableEq, Repr

/-- Where the outcome of a landing store goes. -/
inductive LandFrom where
  /-- An LSTO or LREQ of a unit of this endpoint: the access and the lane. -/
  | unit (r : AccRef) (lane : Nat)
  /-- An engine of this endpoint on behalf of a unit: its context, unit and command word (11 R295). -/
  | engine (ctx unit : Nat) (word : Word)
  /-- A storer at another endpoint. -/
  | peer (ep : Nat) (tid : Nat)
  deriving DecidableEq, Repr

/-- A landing store on its way to the core that its name names (11 R286). -/
structure LandMsg where
  name : Dword
  data : List Byte
  /-- The width code stored. -/
  width : Nat
  /-- The storer's tenant class. -/
  cls : Nat
  /-- The storer's clock, when the storer lies in the same cell (10 R272). -/
  clock : Option Stamp
  /-- The storer. -/
  origin : LandFrom
  deriving DecidableEq, Repr

/-- A landing request at the home of its address (11 R288). -/
structure LreqMsg where
  /-- Domain physical address. -/
  pa : Nat
  size : Nat
  name : Dword
  cls : Nat
  origin : LandFrom
  deriving DecidableEq, Repr

/-- What a transaction timer runs for (02 R54). -/
inductive TxRef where
  /-- The items of a unit's access. -/
  | access (r : AccRef)
  /-- A landing store that an engine sent to a peer: its transaction. -/
  | landing (tid : Nat)
  /-- A request of a die for a line, and the count at which it was made. -/
  | line (die line : Nat) (own : Bool) (asked : Nat)
  /-- A message of this home about a line that a holder has not answered. -/
  | holder (line ep : Nat)
  /-- A write-back that its home has not accepted. -/
  | back (die line : Nat)
  deriving DecidableEq, Repr

/-- The eight atomics of 19 R449. -/
inductive AtOp where
  | add | min | max | and | or | xor | xch | cas
  deriving DecidableEq, Repr

/-- An atomic performed at a home for another cell, or its answer (19 R451). -/
structure AtomicMsg where
  pa : Nat
  op : AtOp
  /-- The TYPE code in force at the issuer. -/
  ty : Nat
  operand : Dword
  compare : Dword
  /-- The requesting endpoint. -/
  src : Nat
  tid : Nat
  deriving DecidableEq, Repr

/-- The six levels of HBAR (07 R193, R200). -/
inductive Level where
  | ferry | quad | die | pkg | cell | domain
  deriving DecidableEq, Repr

/-- What an arrival message says: an arrival, the standing arrival of a ferry that has exited, or its end (07 R195); or that a
cox or a carter waits for the instance (07 R194). -/
inductive ArrKind where
  | now | standing | discard | waiter
  deriving DecidableEq, Repr

/-- A ferry's arrival at a hierarchical barrier instance (07 R193, R194). -/
structure HArrival where
  asid : Nat
  level : Level
  /-- The quad, die, package, cell or domain that contains the core. -/
  scope : Nat
  id : Nat
  /-- N of the instance's first arrival. -/
  count : Nat
  /-- The home endpoint H. -/
  home : Nat
  /-- The endpoint and cell of the arriving ferry. -/
  ep : Nat
  cell : Nat
  /-- The arriving core, and its context and ferry slot when it lies in this package; for a waiter, the code of its unit. -/
  core : Nat
  ctx : Nat
  ferry : Nat
  clock : Stamp
  kind : ArrKind
  /-- The ferry's span and index, which name it among all ferries of its endpoint (07 R195). -/
  span : Nat := 0
  index : Nat := 0
  deriving DecidableEq, Repr

/-- An SPDM message of stream 6, as far as this spec gives one a meaning (02 R46, R47). -/
inductive Spdm where
  /-- A peer asks for a session with a tag of its choice and sends its cell number. -/
  | request (tag cell : Nat)
  /-- The peer accepts: the session becomes live with the peer's cell. -/
  | accept (tag cell : Nat)
  /-- The peer finds the tag in use or retired. -/
  | tagRefused (tag : Nat)
  /-- The SPDM ERROR response Busy. -/
  | busy
  /-- This endpoint's supervisor asks its root of trust to set a session up with the peer. -/
  | start
  deriving DecidableEq, Repr

/-- What a packet of streams 0 to 3 and 7 carries to the protocol engines (02 R42). -/
inductive Msg where
  | rds (m : XMsg) | rdown (m : XMsg) | wrbk (m : XMsg) | data (m : XMsg) | refuse (m : XMsg)
  | cmp (m : XMsg) | cmpack (m : XMsg) | inv (m : XMsg) | fwds (m : XMsg) | fwdown (m : XMsg)
  | fwdrec (m : XMsg) | binv (m : XMsg) | ack (m : XMsg)
  | drds (m : DMsg) | drdown (m : DMsg) | ddata (m : DMsg) | dfwds (m : DMsg) | dfwdown (m : DMsg)
  | dack (m : DMsg) | drecall (m : DMsg) | dwrbk (m : DMsg) | dcmp (m : DMsg)
  | land (m : LandMsg) | landResult (tid : Nat) (res : Option Cause)
  | lreq (m : LreqMsg) | lreqResult (tid : Nat) (res : Option Cause)
  | atomic (m : AtomicMsg) | atomicResult (tid : Nat) (old : Option Dword) (res : Option Cause)
  | harrive (a : HArrival) | hdone (a : HArrival)
  | selack (stream base : Nat) (bitmap : BitVec 64)
  | heartbeat (time cell plan : Nat) (leaving : Bool) (clock : Stamp)
  | channelNotice (plane : Nat)
  | sessionEnd
  | spdm (m : Spdm)
  deriving DecidableEq, Repr

/-- The encryption of a packet's data flits (02 R48): under which key, with which IV. -/
structure Sealed where
  key : Nat
  iv : BitVec 96
  deriving DecidableEq, Repr

/-- A packet of the fabric (02 R41). The tag is the AES-GCM tag of the header and the payload (02 R48). Encrypted data
flits are the message sealed under a key and an IV: only a holder of the key has the message (notes/assumptions/125.md). -/
structure Packet where
  pseq : Nat
  pctr : Nat
  src : Nat
  dst : Nat
  ndata : Nat
  stream : Nat
  kslot : Bool
  stag : Nat
  tag : BitVec 128
  payload : Msg
  /-- None where the data flits are in the clear. -/
  crypt : Option Sealed := none
  deriving DecidableEq, Repr

/-- One row of spec/opcode_table.json each. -/
inductive Instr where
  /-- R391: Opcode 0x00 with any low bits; always faults ILLEGAL (instruction). -/
  | ill (x : BitVec 24)
  /-- R391: Advances the offset by 4 and changes no state. -/
  | nop
  /-- R183: Uniform unconditional branch of the whole slot by a word displacement. -/
  | bra (t : BitVec 20)
  /-- R183: Uniform branch taken when the predicate is true in some lane of Exec(slot), or on a gp bit. -/
  | bany (p : PredField) (t : BitVec 20)
  /-- R183: Uniform branch taken when the predicate is true in every lane of Exec(slot), or on a gp bit. -/
  | ball (p : PredField) (t : BitVec 20)
  /-- R183: Uniform branch taken when the predicate is false in every lane of Exec(slot), or on a gp bit. -/
  | bnone (p : PredField) (t : BitVec 20)
  /-- R186: Moves the lanes where the predicate holds into the other slot at the target, pushing that slot if occupied. -/
  | split (p : PredField) (t : BitVec 20)
  /-- R187: Merges or holds slots at a join point under the join rules. -/
  | join
  /-- R392: Writes the return offset to g63 and branches. -/
  | call (t : BitVec 20)
  /-- R393: Sets the slot's offset from a g register. -/
  | ret (a : Src)
  /-- R393: Computed jump or indirect call through a g register, optionally writing the return offset. -/
  | jmpg (d : Dst) (a : Src)
  /-- R188: Removes every lane of the issuing slot, or ends the cox or carter. -/
  | exit
  /-- R394: Sends the crew to the back of its pipe's round-robin order. -/
  | yield
  /-- R191: Arrives at a ferry barrier and holds the slot until the instance completes. -/
  | bar (n : BitVec 4)
  /-- R191: Arrives at a ferry barrier without waiting. -/
  | bara (n : BitVec 4)
  /-- R191: Waits for the instance at which the crew last arrived on the barrier. -/
  | barw (n : BitVec 4)
  /-- R193: Arrives at a hierarchical barrier of a level and id and holds the slot until it completes. -/
  | hbar (a : Src) (l : BitVec 4) (i : BitVec 4)
  /-- R395: Holds the issuing slot for a number of cycles. -/
  | sleep (a : Src)
  /-- R190: Writes BEXP from a g register. -/
  | exset (a : Src)
  /-- R190: Reads BEXP into a g register. -/
  | exget (d : Dst)
  /-- R396: Writes the low half of the mode register from the immediate. -/
  | modea (i : BitVec 16)
  /-- R396: Writes the high half of the mode register from the immediate. -/
  | modeb (i : BitVec 16)
  /-- R396: Reads the whole mode register into a g register. -/
  | modeg (d : Dst)
  /-- R199: Holds the slot until a path's in-flight counter is at or below a value. -/
  | waitc (a : Src) (i : BitVec 8)
  /-- R225: Sets each executing lane's plane from the low three bits of a source. -/
  | plset (a : Src)
  /-- R226: Sets the plane to an immediate in lanes where a predicate is true. -/
  | plsetp (a : Src) (k : BitVec 3)
  /-- R227: Writes the slot's plane occupancy into a g register. -/
  | plocc (d : Dst)
  /-- R228: Arrives at a repack barrier instance that regroups lanes by plane across crews. -/
  | repack (n : BitVec 4)
  /-- R397: Predicate AND. -/
  | pand (d : Dst) (a : Src) (b : Src)
  /-- R397: Predicate OR. -/
  | por (d : Dst) (a : Src) (b : Src)
  /-- R397: Predicate XOR. -/
  | pxor (d : Dst) (a : Src) (b : Src)
  /-- R397: Predicate NOT. -/
  | pnot (d : Dst) (a : Src)
  /-- R397: Predicate move. -/
  | pmov (d : Dst) (a : Src)
  /-- R398: Sets a gp predicate from whether a g register is non-zero. -/
  | psetg (d : Dst) (a : Src)
  /-- R398: Gathers gp0-gp3 into a g register. -/
  | pgetg (d : Dst)
  /-- R400: Integer add, fitted to the type. -/
  | add (d : Dst) (a : Src) (b : Src)
  /-- R400: Integer add of a sign-extended immediate. -/
  | addi (d : Dst) (a : Src) (i : BitVec 8)
  /-- R400: Integer subtract. -/
  | subw (d : Dst) (a : Src) (b : Src)
  /-- R400: Integer multiply, fitted. -/
  | mul (d : Dst) (a : Src) (b : Src)
  /-- R400: High half of an integer product. -/
  | mulh (d : Dst) (a : Src) (b : Src)
  /-- R401: Integer multiply-add into the destination. -/
  | mad (d : Dst) (a : Src) (b : Src)
  /-- R402: Integer divide truncating toward zero, no fault. -/
  | div (d : Dst) (a : Src) (b : Src)
  /-- R402: Integer remainder with the sign of A. -/
  | rem (d : Dst) (a : Src) (b : Src)
  /-- R400: Integer minimum. -/
  | minw (d : Dst) (a : Src) (b : Src)
  /-- R400: Integer maximum. -/
  | maxw (d : Dst) (a : Src) (b : Src)
  /-- R403: Integer absolute value, fitted. -/
  | abs (d : Dst) (a : Src)
  /-- R403: Integer negation, fitted. -/
  | neg (d : Dst) (a : Src)
  /-- R404: Bitwise AND. -/
  | andw (d : Dst) (a : Src) (b : Src)
  /-- R404: Bitwise AND with a zero-extended immediate. -/
  | andi (d : Dst) (a : Src) (i : BitVec 8)
  /-- R404: Bitwise OR. -/
  | orw (d : Dst) (a : Src) (b : Src)
  /-- R404: Bitwise OR with an immediate. -/
  | ori (d : Dst) (a : Src) (i : BitVec 8)
  /-- R404: Bitwise XOR. -/
  | xorw (d : Dst) (a : Src) (b : Src)
  /-- R404: Bitwise XOR with an immediate. -/
  | xori (d : Dst) (a : Src) (i : BitVec 8)
  /-- R404: A AND NOT B. -/
  | andn (d : Dst) (a : Src) (b : Src)
  /-- R403: Bitwise complement. -/
  | notw (d : Dst) (a : Src)
  /-- R404: Shift left by a register count. -/
  | shl (d : Dst) (a : Src) (b : Src)
  /-- R404: Shift left by an immediate. -/
  | shli (d : Dst) (a : Src) (i : BitVec 8)
  /-- R404: Logical shift right by a register count. -/
  | shr (d : Dst) (a : Src) (b : Src)
  /-- R404: Logical shift right by an immediate. -/
  | shri (d : Dst) (a : Src) (i : BitVec 8)
  /-- R404: Arithmetic shift right by a register count. -/
  | sra (d : Dst) (a : Src) (b : Src)
  /-- R404: Arithmetic shift right by an immediate. -/
  | srai (d : Dst) (a : Src) (i : BitVec 8)
  /-- R404: Rotate left. -/
  | rol (d : Dst) (a : Src) (b : Src)
  /-- R403: Count leading zeros. -/
  | clz (d : Dst) (a : Src)
  /-- R403: Population count. -/
  | popc (d : Dst) (a : Src)
  /-- R403: Bit reverse. -/
  | brev (d : Dst) (a : Src)
  /-- R405: Bit-field extract. -/
  | bfx (d : Dst) (a : Src) (b : Src)
  /-- R405: Bit-field insert into the destination. -/
  | bfi (d : Dst) (a : Src) (b : Src)
  /-- R406: Writes A where a predicate is true, else keeps the destination. -/
  | sel (d : Dst) (a : Src) (b : Src)
  /-- R403: Register move. -/
  | mov (d : Dst) (a : Src)
  /-- R407: Loads a sign-extended 16-bit immediate. -/
  | li (d : Dst) (i : BitVec 16)
  /-- R407: Writes the high 16 bits of a 32-bit register. -/
  | lih (d : Dst) (i : BitVec 16)
  /-- R408: Forms an address from a pair plus a scaled index. -/
  | lea (d : Dst) (a : Src) (b : Src)
  /-- R400: Carry out of an unsigned add. -/
  | addc (d : Dst) (a : Src) (b : Src)
  /-- R406: Clamps the destination between A and B. -/
  | clamp (d : Dst) (a : Src) (b : Src)
  /-- R409: Integer compare equal into a predicate. -/
  | cmpeq (d : Dst) (a : Src) (b : Src)
  /-- R409: Integer compare not-equal into a predicate. -/
  | cmpne (d : Dst) (a : Src) (b : Src)
  /-- R409: Integer compare less-than into a predicate. -/
  | cmplt (d : Dst) (a : Src) (b : Src)
  /-- R409: Integer compare less-or-equal into a predicate. -/
  | cmple (d : Dst) (a : Src) (b : Src)
  /-- R409: Integer compare equal with an immediate. -/
  | cmpeqi (d : Dst) (a : Src) (i : BitVec 8)
  /-- R409: Integer compare less-than with an immediate. -/
  | cmplti (d : Dst) (a : Src) (i : BitVec 8)
  /-- R411: Reads one chosen lane of a v register into a g register. -/
  | vget (d : Dst) (a : Src) (b : Src)
  /-- R411: Writes a value into one chosen lane of a v register. -/
  | vput (d : Dst) (a : Src) (b : Src)
  /-- R415: Reads the source from an indexed lane. -/
  | shfl (d : Dst) (a : Src) (b : Src)
  /-- R415: Reads the source from lane L XOR b. -/
  | shflx (d : Dst) (a : Src) (b : Src)
  /-- R415: Reads the source from lane L minus b. -/
  | shflup (d : Dst) (a : Src) (b : Src)
  /-- R415: Reads the source from lane L plus b. -/
  | shfldn (d : Dst) (a : Src) (b : Src)
  /-- R415: Broadcasts one lane's value to every executing lane. -/
  | bcast (d : Dst) (a : Src) (b : Src)
  /-- R412: Gathers a lane predicate over Exec(slot) into a g mask. -/
  | vote (d : Dst) (a : Src)
  /-- R413: Reduces a source over Exec(slot) into a g register. -/
  | cred (d : Dst) (a : Src) (o : BitVec 3)
  /-- R421: Floating add, rounded once. -/
  | fadd (d : Dst) (a : Src) (b : Src)
  /-- R421: Floating subtract. -/
  | fsub (d : Dst) (a : Src) (b : Src)
  /-- R421: Floating multiply. -/
  | fmul (d : Dst) (a : Src) (b : Src)
  /-- R422: Fused A times B plus destination. -/
  | fma (d : Dst) (a : Src) (b : Src)
  /-- R422: Fused A times B minus destination. -/
  | fms (d : Dst) (a : Src) (b : Src)
  /-- R422: Fused negated product plus destination. -/
  | fnma (d : Dst) (a : Src) (b : Src)
  /-- R423: Floating minimum. -/
  | fmin (d : Dst) (a : Src) (b : Src)
  /-- R423: Floating maximum. -/
  | fmax (d : Dst) (a : Src) (b : Src)
  /-- R424: Clears the sign. -/
  | fabs (d : Dst) (a : Src)
  /-- R424: Inverts the sign. -/
  | fneg (d : Dst) (a : Src)
  /-- R424: Magnitude of A with the sign of B. -/
  | fcps (d : Dst) (a : Src) (b : Src)
  /-- R425: Floating compare equal into a predicate. -/
  | fcmpeq (d : Dst) (a : Src) (b : Src)
  /-- R425: Floating compare less-than. -/
  | fcmplt (d : Dst) (a : Src) (b : Src)
  /-- R425: Floating compare less-or-equal. -/
  | fcmple (d : Dst) (a : Src) (b : Src)
  /-- R425: Floating compare unordered. -/
  | fcmpun (d : Dst) (a : Src) (b : Src)
  /-- R426: Writes a one-hot class mask of the operand. -/
  | fclass (d : Dst) (a : Src)
  /-- R427: Rounds to an integral value of the same type. -/
  | frnd (d : Dst) (a : Src)
  /-- R427: Multiplies by a power of two. -/
  | fscale (d : Dst) (a : Src) (b : Src)
  /-- R427: Writes the exponent of the operand. -/
  | fgete (d : Dst) (a : Src)
  /-- R429: Converts between floating, binary8pP and e8m0 types. -/
  | fcvt (d : Dst) (a : Src) (t : BitVec 5) (r : BitVec 3)
  /-- R429: Converts floating to integer. -/
  | fcvti (d : Dst) (a : Src) (t : BitVec 5) (r : BitVec 3)
  /-- R429: Converts integer to floating. -/
  | icvtf (d : Dst) (a : Src) (t : BitVec 5) (r : BitVec 3)
  /-- R421: Correctly rounded floating divide. -/
  | fdiv (d : Dst) (a : Src) (b : Src)
  /-- R421: Correctly rounded square root. -/
  | fsqrt (d : Dst) (a : Src)
  /-- R428: Approximate reciprocal. -/
  | frcp (d : Dst) (a : Src)
  /-- R428: Approximate reciprocal square root. -/
  | frsq (d : Dst) (a : Src)
  /-- R428: Approximate base-2 exponential. -/
  | fexp2 (d : Dst) (a : Src)
  /-- R428: Approximate base-2 logarithm. -/
  | flog2 (d : Dst) (a : Src)
  /-- R428: Approximate sine. -/
  | fsin (d : Dst) (a : Src)
  /-- R428: Approximate cosine. -/
  | fcos (d : Dst) (a : Src)
  /-- R428: Approximate hyperbolic tangent. -/
  | ftanh (d : Dst) (a : Src)
  /-- R430: Two-element f16/bf16 dot product plus f32 addend, rounded once. -/
  | fdot2 (d : Dst) (a : Src) (b : Src)
  /-- R430: Four-element binary8pP dot product plus f32 addend. -/
  | fdot4 (d : Dst) (a : Src) (b : Src)
  /-- R431: Converts an f32 into one narrow element of the destination. -/
  | packn (d : Dst) (a : Src) (p : BitVec 2) (c : BitVec 3)
  /-- R431: Unpacks one narrow element to f32. -/
  | unpkn (d : Dst) (a : Src) (p : BitVec 2)
  /-- R432: Writes one trit into a tern byte. -/
  | ternp (d : Dst) (a : Src) (b : Src)
  /-- R432: Reads one trit of a tern byte as a value. -/
  | ternu (d : Dst) (a : Src) (b : Src)
  /-- R433: Exchanges stochastic-rounding generator states. -/
  | srseed (d : Dst) (a : Src)
  /-- R434: Reads and clears the unit's sticky flags. -/
  | fflags (d : Dst) (a : Src)
  /-- R442: Loads global memory at each lane's address. -/
  | ld (d : Dst) (a : Src) (o : BitVec 8)
  /-- R443: Stores to global memory at each lane's address. -/
  | st (d : Src) (a : Src) (o : BitVec 8)
  /-- R445: Acquire load read at the home, advancing the clock. -/
  | ldacq (d : Dst) (a : Src) (o : BitVec 8)
  /-- R446: Release store, starting halo pushes. -/
  | strel (d : Src) (a : Src) (o : BitVec 8)
  /-- R447: Loads the context's own local-store bank. -/
  | ldl (d : Dst) (a : Src) (o : BitVec 8)
  /-- R447: Stores to the own local-store bank, performing at issue. -/
  | stl (d : Src) (a : Src) (o : BitVec 8)
  /-- R448: Loads another core's local-store bank by cluster address. -/
  | ldx (d : Dst) (a : Src) (o : BitVec 8)
  /-- R448: Stores to another core's local-store bank. -/
  | stx (d : Src) (a : Src) (o : BitVec 8)
  /-- R450: Atomic add returning the old value. -/
  | atadd (d : Dst) (a : Src) (b : Src)
  /-- R450: Atomic minimum. -/
  | atmin (d : Dst) (a : Src) (b : Src)
  /-- R450: Atomic maximum. -/
  | atmax (d : Dst) (a : Src) (b : Src)
  /-- R450: Atomic AND. -/
  | atand (d : Dst) (a : Src) (b : Src)
  /-- R450: Atomic OR. -/
  | ator (d : Dst) (a : Src) (b : Src)
  /-- R450: Atomic XOR. -/
  | atxor (d : Dst) (a : Src) (b : Src)
  /-- R450: Atomic exchange. -/
  | atxch (d : Dst) (a : Src) (b : Src)
  /-- R450: Atomic compare-and-swap. -/
  | atcas (d : Dst) (a : Src) (b : Src)
  /-- R452: Waits for earlier accesses, then releases and acquires with a mask. -/
  | fence (m : BitVec 5)
  /-- R453: Prefetch hint that never faults. -/
  | pref (a : Src) (o : BitVec 8)
  /-- R453: Residency hint that may write an access-counter record. -/
  | resid (a : Src) (o : BitVec 8)
  /-- R283: Mints a landing name per executing lane bound to a lane register. -/
  | lmint (d : Dst) (a : Src) (b : Src)
  /-- R283: Mints one name bound to a crew-vector register. -/
  | lmintc (d : Dst) (a : Src) (b : Src)
  /-- R283: Mints one name bound to a g register. -/
  | lmintg (d : Dst) (a : Src) (b : Src)
  /-- R285: Release followed by a landing store to a name. -/
  | lsto (a : Src) (b : Src)
  /-- R288: Requests memory to be delivered through a name. -/
  | lreq (a : Src) (b : Src)
  /-- R292: Reclaims an own name with reason 0. -/
  | ldrop (a : Src)
  /-- R291: Writes the pending and reclaimed status of a register. -/
  | lstat (d : Dst) (a : Src)
  /-- R289: Holds the slot while a register is pending. -/
  | lwait (a : Src)
  /-- R462: Starts a linear copy from a global descriptor. -/
  | cpy (a : Src) (b : Src)
  /-- R460: Starts a strided multi-dimensional copy from a local-store descriptor. -/
  | cpyt (a : Src) (b : Src)
  /-- R466: Opens a shadow window. -/
  | shopen (d : Dst) (a : Src)
  /-- R467: Publishes a window's shadow. -/
  | publ (a : Src) (b : Src)
  /-- R466: Discards an open shadow and ends suspended copies. -/
  | shdisc (d : Dst) (a : Src)
  /-- R465: Resumes or abandons a suspended copy. -/
  | cpyres (a : Src) (b : Src)
  /-- R468: Declares or removes halo tiles and fills the frame. -/
  | halo (d : Dst) (a : Src)
  /-- R468: Starts the push of the core's tiles for every live declaration. -/
  | halop
  /-- R469: Asks the supervisor to replicate a page via an access-counter record. -/
  | replh (a : Src)
  /-- R303: Loads the format block in force for the cox. -/
  | fmtb (a : Src)
  /-- R306: Dense tile multiply-accumulate in four K groups. -/
  | mma (d : Dst) (a : Src) (b : Src)
  /-- R310: Sparse tile multiply-accumulate with a zero map. -/
  | mmas (d : Dst) (a : Src) (b : Src)
  /-- R309: Zeroes an accumulator tile and its checksum state. -/
  | acz (d : Dst)
  /-- R309: Loads an accumulator tile from local store. -/
  | acld (d : Dst) (a : Src)
  /-- R309: Checks and drains a tile to local store in its own type. -/
  | acst (d : Dst) (a : Src) (b : Src)
  /-- R309: Checks and drains a tile converted to a narrow type. -/
  | accvt (d : Dst) (a : Src) (b : Src)
  /-- R315: Reads and sets the checksum policy and sticky engine flags. -/
  | acchk (d : Dst) (a : Src)
  /-- R317: Starts a GEMV on a mill of the cox's die. -/
  | mill (a : Src)
  /-- R471: Starts the ferry's cox and/or carter at entry offsets. -/
  | fork (a : Src) (b : Src)
  /-- R472: Cox or carter arrives at a ferry barrier and waits. -/
  | rdv (n : BitVec 4)
  /-- R473: Fences, reads a ticket and enqueues it with a status code. -/
  | spawn (d : Dst) (a : Src)
  /-- R474: Reads a special register into g. -/
  | srd (d : Dst) (a : BitVec 8)
  /-- R474: Writes a special register from g. -/
  | swr (a : Src) (b : BitVec 8)
  /-- R475: Raises a user trap with cause 24. -/
  | trap (i : BitVec 5)
  /-- R331: Ends the handler, restoring mask and offset and entering any pending trap. -/
  | tret
  /-- R476: Raises a held supervisor breakpoint fault. -/
  | bkpt (i : BitVec 8)
  /-- R477: Reads FAB_TIME into a g pair. -/
  | rdtim (d : Dst)
  /-- R477: Waits for earlier accesses then reads the logical clock. -/
  | rdlc (d : Dst)
  /-- R244: Clears every lane's last-page register of the crew. -/
  | lpinv
  /-- R478: Zeroes a local-store range and counts poisoned words. -/
  | scrub (d : Dst) (a : Src)
  /-- R470: Injects an XOR error into one accumulator element. -/
  | finj (d : Dst) (a : Src) (b : Src)
  /-- R140: Power is applied; the audit log is cleared. -/
  | powerOn
  /-- R136: Package reset sets reset values and starts the boot sequence. -/
  | packageReset
  /-- R136: A fetched supervisor image is checked, measured and started or discarded. -/
  | bootImageFetched (img : List Byte)
  /-- R136: The 4 s retry interval of a failed boot fetch expires. -/
  | bootFetchRetryTimer
  /-- R145: RTB checks a new supervisor image, extends MR2 and logs the update. -/
  | firmwareUpdateCheck (img : List Byte)
  /-- R16: A die-to-die transfer fails its CRC and is replayed. -/
  | linkTransferError (link : Nat)
  /-- R18: Patrol reads and corrects a line, poisoning it if uncorrectable. -/
  | patrolScrubRead (line : Nat) (err : EccResult)
  /-- R23: A 100 µs power window ends and throttling is applied or lifted. -/
  | powerWindow (watts : Nat)
  /-- R24: A junction sensor reaches 95 °C and throttling starts. -/
  | thermalThrottleStart (tmax : Nat)
  /-- R24: All sensors fall below 90 °C and thermal throttling stops. -/
  | thermalThrottleStop (tmax : Nat)
  /-- R24: A sensor reaches 105 °C; cores stop, the event is logged, sessions end. -/
  | thermalTrip (tmax : Nat)
  /-- R4: A write to a register with no behaviour of its own, by its access codes. -/
  | registerWrite (off : Nat) (val : Dword)
  /-- R38: LOAD reads and checks a plan image, making it pending or reporting PERR. -/
  | fabPlanLoad
  /-- R40: SWITCH arms a switch to the pending plan at FAB_SWITCH. -/
  | fabPlanSwitch
  /-- R40: Reading FAB_TIME_LO latches the high half. -/
  | fabTimeLoRead
  /-- R39: Fabric time reaches T; changed transmitters retune. -/
  | planSwitchTime
  /-- R39: At T plus 50 ns changed receivers retune. -/
  | planSwitchRxRetune
  /-- R41: A packet arrives on a channel; it is checked, authenticated, acknowledged or dropped. -/
  | fabPacketReceive (plane chanPeer : Nat) (pkt : Packet)
  /-- R43: A waiting packet is admitted and sprayed onto a channel. -/
  | fabPacketTransmit (peer stream : Nat)
  /-- R43: A selective acknowledgement arrives and may trigger replays. -/
  | selectiveAck (peer stream base : Nat) (bitmap : BitVec 64)
  /-- R43: 500 ns after an unacknowledged arrival an acknowledgement is sent. -/
  | ackTimer (peer stream : Nat)
  /-- R43: 2 µs without acknowledgement causes a replay. -/
  | replayTimeout (peer stream pseq : Nat)
  /-- R44: A 1 ms error window ends and a weak channel may be removed. -/
  | channelErrorWindow (peer plane symbols corrected uncorrectable : Nat)
  /-- R44: A channel notice arrives and the sender stops spraying that channel. -/
  | channelNotice (peer plane : Nat)
  /-- R46: An SPDM message arrives at the root of trust and advances session setup. -/
  | spdmMessage (peer : Nat) (m : Spdm)
  /-- R139: The RTB answers a measurement request signed with Alias. -/
  | spdmGetMeasurements (requester : Nat) (nonce : BitVec 256)
  /-- R49: A new key is installed in the idle slot; halted traffic resumes. -/
  | spdmKeyUpdate (peer : Nat)
  /-- R47: 10 ms after a Busy refusal the requester retries. -/
  | spdmBusyRetry (peer : Nat)
  /-- R49: 100 µs after the first new-slot packet the old slot is retired. -/
  | oldKeySlotRetire (peer : Nat)
  /-- R47: A retired session tag's 1 s hold ends and its entry is freed. -/
  | retiredTagExpiry (tag : Nat)
  /-- R53: Every 10 µs a heartbeat is sent to each live peer. -/
  | heartbeatTimer
  /-- R53: A heartbeat arrives, syncing time and checking the cell number. -/
  | heartbeat (peer time cell plan : Nat) (leaving : Bool) (clock : Stamp)
  /-- R53: 80 µs with no authenticated packet ends the session. -/
  | silenceTimeout (peer : Nat)
  /-- R53: A session-end notice arrives and the session ends at once. -/
  | sessionEndNotice (peer : Nat)
  /-- R52: A 50 µs fabric budget period ends and waiting packets may go. -/
  | fabBudgetPeriod
  /-- R54: A fabric transaction reaches its timeout and its items fail TIMEOUT. -/
  | transactionTimeout (r : TxRef)
  /-- R65: Cross-cell read for a shared copy arrives at the home. -/
  | rds (m : XMsg)
  /-- R65: Cross-cell read for ownership arrives at the home. -/
  | rdown (m : XMsg)
  /-- R65: An owner writes back a dirty line to the home. -/
  | wrbk (m : XMsg)
  /-- R68: Line data arrives at the requester, marked S or M with poison. -/
  | data (m : XMsg)
  /-- R74: Ownership or offset is refused; the requester faults. -/
  | refuse (m : XMsg)
  /-- R64: A WrBk is accepted. -/
  | cmp (m : XMsg)
  /-- R66: Data-M received; closes a pending grant. -/
  | cmpack (m : XMsg)
  /-- R64: A sharer is told to drop its S copy. -/
  | inv (m : XMsg)
  /-- R65: An owner is told to send Data-S and keep the line dirty. -/
  | fwds (m : XMsg)
  /-- R65: An owner is told to send Data-M and drop the line. -/
  | fwdown (m : XMsg)
  /-- R80: A sharer is asked to return data for recovery. -/
  | fwdrec (m : XMsg)
  /-- R70: Back-invalidation: write back if dirty, then drop. -/
  | binv (m : XMsg)
  /-- R64: A holder's answer to Inv, Fwd or BInv arrives at the home. -/
  | ack (m : XMsg)
  /-- R70: An unanswered BInv is re-sent every 1 ms. -/
  | binvResendTimer (line : Nat)
  /-- R80: An unanswered FwdRec passes to the next sharer or poisons the line. -/
  | fwdrecTimeout (line : Nat)
  /-- R61: CELL_CFG write of CELL and VALID, CELL ignored while member or leaving. -/
  | cellCfgWrite (val : Word)
  /-- R88: LEAVE starts a planned departure. -/
  | cellLeave
  /-- R71: Lowering WAYS evicts entries from ways leaving use. -/
  | sfCfgWrite (val : Word)
  /-- R72: Back-invalidates every holder of every line of a page. -/
  | sfRecallGo
  /-- R75: Discards the firewall cache. -/
  | fwSync
  /-- R81: Within 1 µs of a loss declaration the recovery engine starts. -/
  | recoveryEngineStart (cell : Nat)
  /-- R81: A sweep finishes; a queued further sweep starts. -/
  | recoverySweepEnd
  /-- R124: A host CXL.mem read of device memory is served or poisoned. -/
  | hostMemRead (port : Nat) (hoff : Nat) (own : Bool)
  /-- R124: A host CXL.mem write is checked and performed or discarded. -/
  | hostMemWrite (port : Nat) (hoff : Nat) (data : List Byte)
  /-- R121: A host answers a back-invalidation. -/
  | hostBinvAck (port line : Nat) (data : Option (List Byte))
  /-- R91: A BInv to a host is unanswered after BITMO; the host is declared failed. -/
  | hostBinvTimeout (port line : Nat)
  /-- R91: A host port's link goes down; the host is declared failed. -/
  | hostLinkDown (port : Nat)
  /-- R125: GRANT grants the selected extent. -/
  | extGrant
  /-- R93: REVOKE starts revocation of the selected extent. -/
  | extRevoke
  /-- R93: Every line of the extent has left the host; STATE becomes free. -/
  | extRevokeComplete (port idx : Nat)
  /-- R128: A 64-byte host write submits a ticket after the window checks. -/
  | cwEnq (port win off : Nat) (data : List Byte)
  /-- R127: Binds or unbinds a command window; unbinding zeroes CW_DONE. -/
  | cwBindWrite (port win : Nat) (val : Dword)
  /-- R137: GO extends MR4-MR7 with the written digest. -/
  | rtbExtend (val : Word)
  /-- R141: Appends a firmware entry to the audit log. -/
  | audAppend (core : Nat)
  /-- R142: Marks entries up to AUD_SEQ as released. -/
  | audRelease
  /-- R143: Writes a signed export record and appends an export entry. -/
  | audExport
  /-- R141: Copies one audit entry to memory. -/
  | audRead
  /-- R144: Starts release and scrub of a context bank. -/
  | ctxRelGo (val : Word)
  /-- R144: The scrub finishes, is checked and logged, and DONE is set. -/
  | ctxReleaseDone (core bank : Nat) (scrubOk : Bool)
  /-- R146: DRAIN starts draining a compute die. -/
  | drainDie (die : Nat)
  /-- R146: READMIT self-tests a fenced die and sets it active. -/
  | readmitDie (die : Nat)
  /-- R148: Marks a stack draining and schedules its recalibration. -/
  | stkDrain (stack : Nat)
  /-- R148: After 1 µs idle the base die recalibrates, holding accesses. -/
  | stkRecalibrate (stack : Nat)
  /-- R148: Recalibration ends and held accesses are served. -/
  | stkRecalibrateDone (stack : Nat)
  /-- R148: Returns a draining stack to active. -/
  | stkResume (stack : Nat)
  /-- R152: Enqueues the ticket at a physical address with Q_SASID. -/
  | qSubmit (queue : Nat) (pa : Nat)
  /-- R153: Removes a stopped queue's head entry. -/
  | qSkip (queue : Nat)
  /-- R246: Starts a translation sweep of the given scope. -/
  | xlatInvGo (val : Word)
  /-- R247: A translation sweep is complete. -/
  | sweepComplete (id : Nat)
  /-- R255: Starts building a replica map entry. -/
  | repArmGo (val : Word)
  /-- R255: Replicas are copied, RTIME set and V set, or FAIL after a write. -/
  | replicaArmDone (idx : Nat)
  /-- R111: Replicas are dropped and held writes are released. -/
  | replicaCollapseDone (page : Nat)
  /-- R327: RETRY re-executes a held unit at its recorded offset. -/
  | fltRetry (core bank unit : Nat)
  /-- R327: REFLECT enters a held crew slot into its handler. -/
  | fltReflect (core bank unit : Nat)
  /-- R327: HALT halts a context. -/
  | fltHalt (core bank : Nat)
  /-- R327: UNHALT lifts a halt and re-executes stopped units. -/
  | fltUnhalt (core bank : Nat)
  /-- R205: Fuses or unfuses quad L1s, refusing bits for occupied quads. -/
  | quadFuseWrite (die : Nat) (val : Word)
  /-- R105: Changes LEASE, opening a transition period. -/
  | cohCfgWrite (val : Word)
  /-- R105: 64 times the old LEASE cycles pass and the bound returns to the new value. -/
  | leaseTransitionEnd
  /-- R97: A core's logical clock ticks by one. -/
  | logicalClockTick (core : Nat)
  /-- R99: Every 4,096 cycles clocks are raised and highest clocks exchanged. -/
  | clockSync
  /-- R156: The distributor picks an eligible queue and launches one gang. -/
  | dispatchDecision
  /-- R164: 2 µs without a window reduces the gang to its fallback size. -/
  | gangFallbackTimer (queue : Nat)
  /-- R173: The last ferry exits; stores made visible, parent decremented, window counted. -/
  | spanComplete (span : Nat)
  /-- R173: A continuation for a full queue is retried every 1 µs. -/
  | continuationRetry (queue : Nat)
  /-- R167: A budget period ends; over-limit classes are pre-empted and carried. -/
  | schedPeriodBoundary
  /-- R170: A core reaches a switch point and changes its active context. -/
  | contextSwitch (core : Nat)
  /-- R169: 128 cycles with no ready work while another context is ready. -/
  | activeIdleTimeout (core : Nat)
  /-- R169: An equal-priority resident context has waited 10 µs. -/
  | residentWaitTimeout (core : Nat)
  /-- R171: A context is streamed out to its save slot. -/
  | streamOut (ctx : Nat)
  /-- R171: A saved context is streamed into a free bank. -/
  | streamIn (ctx core : Nat)
  /-- R171: A stream in or out finishes. -/
  | streamComplete (ctx : Nat)
  /-- R442: A load's data returns and is written; counter lowered. -/
  | loadDataReturn (r : AccRef)
  /-- R198: A store performs or is acknowledged, lowering its counter. -/
  | storeComplete (r : AccRef)
  /-- R84: An item's failure returns and faults its issuer. -/
  | itemFailReturn (r : AccRef) (lanes : Mask) (cause : Cause) (addr : Dword)
  /-- R240: A page-table walk finishes and its translation is used. -/
  | walkComplete (core ctx : Nat) (va : Dword)
  /-- R192: An arrival's accesses and pushes have completed, so it is recorded. -/
  | arrivalRecord (ctx unit : Nat) (slot : Bool)
  /-- R194: A ferry's arrival reaches a hierarchical barrier's scope hardware or home. -/
  | hbarArrival (a : HArrival)
  /-- R395: A sleeping slot's time ends. -/
  | sleepExpiry (ctx unit : Nat) (slot : Bool)
  /-- R118: A halo push writes its strips into neighbour frames. -/
  | haloPushWrite (ctx push : Nat)
  /-- R286: A landing store reaches the named core and delivers or fails. -/
  | landingStore (m : LandMsg)
  /-- R287: An LSTO's success or failure returns to the storer. -/
  | landingOutcome (r : AccRef) (lane : Nat) (res : Option Cause)
  /-- R288: An LREQ failure returns after the request left and is taken as a deferred fault. -/
  | lreqDeferredFault (r : AccRef) (lane : Nat) (cause : Cause) (addr : Dword)
  /-- R293: A LIVE name's deadline passes and it is reclaimed with a status word. -/
  | nameDeadline (core entry : Nat) (nonce : Word)
  /-- R293: A name whose expected storer's cell is lost is reclaimed. -/
  | nameReclaimCellLost (core entry : Nat)
  /-- R283: A mint waits 1 µs for entries and faults LN_FULL. -/
  | lnFullTimeout (ctx unit : Nat) (slot : Bool)
  /-- R329: Counters drain and the faulting slot enters its handler. -/
  | trapEntry (ctx unit : Nat)
  /-- R324: A record to a full fault ring is retried every 1 µs. -/
  | faultRingRetry (die : Nat)
  /-- R462: The movement processor issues the next segment of a copy. -/
  | copySegmentIssue (ctx unit copy : Nat)
  /-- R462: A copy segment performs or fails. -/
  | copySegmentDone (ctx unit copy seg : Nat)
  /-- R464: All segments done; the copy delivers its status, suspending on failure. -/
  | copyComplete (ctx unit copy : Nat)
  /-- R259: The window switch's sweep completes and PUBL's status is delivered. -/
  | publComplete (wid : Nat)
  /-- R299: A waiting cox command is served by the matrix engine. -/
  | coxCommandIssue (core : Nat)
  /-- R306: An MMA or MMAS finishes its last K group. -/
  | mmaComplete (core : Nat)
  /-- R312: A drain is checked, written to local store and its status delivered. -/
  | drainComplete (core : Nat)
  /-- R318: The mill finishes a GEMV and delivers the result and status. -/
  | millComplete (stack : Nat)
  /-- R107: A package-coherence read for a leased copy arrives at the home die. -/
  | drds (m : DMsg)
  /-- R107: A package-coherence ownership request arrives at the home die. -/
  | drdown (m : DMsg)
  /-- R107: DData-S, DData-E or DData-M arrives at the requesting die and installs the line with its wts and rts. -/
  | ddata (m : DMsg)
  /-- R107: A forward for a shared copy reaches the owner die, which sends DData-S and a DAck. -/
  | dfwds (m : DMsg)
  /-- R107: A forward for ownership reaches the owner die, which sends DData-M, drops the line and sends a DAck. -/
  | dfwdown (m : DMsg)
  /-- R108: An owner's DAck reaches the home, closing a pending forward and recording rts and the last-grant time. -/
  | dack (m : DMsg)
  /-- R95: A recall for an owner-table eviction reaches the owner die, which writes the line back. -/
  | drecall (m : DMsg)
  /-- R108: An owner's package write-back reaches the home, which writes the L2 and memory and answers DCmp. -/
  | dwrbk (m : DMsg)
  /-- R108: DCmp reaches the former owner, which frees its write-back buffer. -/
  | dcmp (m : DMsg)
  /-- R109: 64 times LEASE cycles have passed since a line's last-grant time, so the home may grant ownership to another cell or a host. -/
  | leaseWaitEnd (line : Nat)
  /-- R39: Retuned transmitters and receivers are on their new channels by T plus 200 ns, the switch completes and ARMED clears. -/
  | planSwitchDone
  /-- R146: A readmitted die's self-test ends, and the die becomes active, or stays fenced with FAILED set. -/
  | readmissionDone (die : Nat) (pass : Bool)
  /-- R122: A host port's PCIe link trains, negotiating its width, its rate and whether CXL runs. -/
  | hostLinkUp (port width rate : Nat) (cxl : Bool)
  /-- R25: The measured inlet temperature crosses 40 degrees C, which withholds or permits the start of the compute dies. -/
  | coolantInletTemperature (degrees : Nat)
  /-- R90: The homes have set the new cell's firewall bits, and LSTATE passes from joining to member. -/
  | cellJoinComplete
  /-- R288: An LREQ request reaches the home or owner, which reads the line as LDACQ does and makes the landing store. -/
  | lreqRead (m : LreqMsg)
  /-- R451: An atomic item from another cell reaches the home, which checks the firewall, recovers the line, performs the atomic and returns the old value. -/
  | homeAtomic (m : AtomicMsg)
  /-- R75: The discard of the firewall cache completes, and SYNC reads 0. -/
  | fwSyncDone
  /-- R136: The first stage or the supervisor asks the RTB to extend MR1 or MR3 with a digest. -/
  | bootMeasurementExtend (idx : Nat) (digest : Digest)
  deriving DecidableEq, Repr

/-- An event of the opcode table by itself, as State holds it: the constructors of Instr that are no words, under the
same names and with the same arguments (Laws/Dispatch.lean: running an Ev is running that Instr). -/
inductive Ev where
  | powerOn
  | packageReset
  | bootImageFetched (img : List Byte)
  | bootFetchRetryTimer
  | firmwareUpdateCheck (img : List Byte)
  | linkTransferError (link : Nat)
  | patrolScrubRead (line : Nat) (err : EccResult)
  | powerWindow (watts : Nat)
  | thermalThrottleStart (tmax : Nat)
  | thermalThrottleStop (tmax : Nat)
  | thermalTrip (tmax : Nat)
  | registerWrite (off : Nat) (val : Dword)
  | fabPlanLoad
  | fabPlanSwitch
  | fabTimeLoRead
  | planSwitchTime
  | planSwitchRxRetune
  | fabPacketReceive (plane chanPeer : Nat) (pkt : Packet)
  | fabPacketTransmit (peer stream : Nat)
  | selectiveAck (peer stream base : Nat) (bitmap : BitVec 64)
  | ackTimer (peer stream : Nat)
  | replayTimeout (peer stream pseq : Nat)
  | channelErrorWindow (peer plane symbols corrected uncorrectable : Nat)
  | channelNotice (peer plane : Nat)
  | spdmMessage (peer : Nat) (m : Spdm)
  | spdmGetMeasurements (requester : Nat) (nonce : BitVec 256)
  | spdmKeyUpdate (peer : Nat)
  | spdmBusyRetry (peer : Nat)
  | oldKeySlotRetire (peer : Nat)
  | retiredTagExpiry (tag : Nat)
  | heartbeatTimer
  | heartbeat (peer time cell plan : Nat) (leaving : Bool) (clock : Stamp)
  | silenceTimeout (peer : Nat)
  | sessionEndNotice (peer : Nat)
  | fabBudgetPeriod
  | transactionTimeout (r : TxRef)
  | rds (m : XMsg)
  | rdown (m : XMsg)
  | wrbk (m : XMsg)
  | data (m : XMsg)
  | refuse (m : XMsg)
  | cmp (m : XMsg)
  | cmpack (m : XMsg)
  | inv (m : XMsg)
  | fwds (m : XMsg)
  | fwdown (m : XMsg)
  | fwdrec (m : XMsg)
  | binv (m : XMsg)
  | ack (m : XMsg)
  | binvResendTimer (line : Nat)
  | fwdrecTimeout (line : Nat)
  | cellCfgWrite (val : Word)
  | cellLeave
  | sfCfgWrite (val : Word)
  | sfRecallGo
  | fwSync
  | recoveryEngineStart (cell : Nat)
  | recoverySweepEnd
  | hostMemRead (port : Nat) (hoff : Nat) (own : Bool)
  | hostMemWrite (port : Nat) (hoff : Nat) (data : List Byte)
  | hostBinvAck (port line : Nat) (data : Option (List Byte))
  | hostBinvTimeout (port line : Nat)
  | hostLinkDown (port : Nat)
  | extGrant
  | extRevoke
  | extRevokeComplete (port idx : Nat)
  | cwEnq (port win off : Nat) (data : List Byte)
  | cwBindWrite (port win : Nat) (val : Dword)
  | rtbExtend (val : Word)
  | audAppend (core : Nat)
  | audRelease
  | audExport
  | audRead
  | ctxRelGo (val : Word)
  | ctxReleaseDone (core bank : Nat) (scrubOk : Bool)
  | drainDie (die : Nat)
  | readmitDie (die : Nat)
  | stkDrain (stack : Nat)
  | stkRecalibrate (stack : Nat)
  | stkRecalibrateDone (stack : Nat)
  | stkResume (stack : Nat)
  | qSubmit (queue : Nat) (pa : Nat)
  | qSkip (queue : Nat)
  | xlatInvGo (val : Word)
  | sweepComplete (id : Nat)
  | repArmGo (val : Word)
  | replicaArmDone (idx : Nat)
  | replicaCollapseDone (page : Nat)
  | fltRetry (core bank unit : Nat)
  | fltReflect (core bank unit : Nat)
  | fltHalt (core bank : Nat)
  | fltUnhalt (core bank : Nat)
  | quadFuseWrite (die : Nat) (val : Word)
  | cohCfgWrite (val : Word)
  | leaseTransitionEnd
  | logicalClockTick (core : Nat)
  | clockSync
  | dispatchDecision
  | gangFallbackTimer (queue : Nat)
  | spanComplete (span : Nat)
  | continuationRetry (queue : Nat)
  | schedPeriodBoundary
  | contextSwitch (core : Nat)
  | activeIdleTimeout (core : Nat)
  | residentWaitTimeout (core : Nat)
  | streamOut (ctx : Nat)
  | streamIn (ctx core : Nat)
  | streamComplete (ctx : Nat)
  | loadDataReturn (r : AccRef)
  | storeComplete (r : AccRef)
  | itemFailReturn (r : AccRef) (lanes : Mask) (cause : Cause) (addr : Dword)
  | walkComplete (core ctx : Nat) (va : Dword)
  | arrivalRecord (ctx unit : Nat) (slot : Bool)
  | hbarArrival (a : HArrival)
  | sleepExpiry (ctx unit : Nat) (slot : Bool)
  | haloPushWrite (ctx push : Nat)
  | landingStore (m : LandMsg)
  | landingOutcome (r : AccRef) (lane : Nat) (res : Option Cause)
  | lreqDeferredFault (r : AccRef) (lane : Nat) (cause : Cause) (addr : Dword)
  | nameDeadline (core entry : Nat) (nonce : Word)
  | nameReclaimCellLost (core entry : Nat)
  | lnFullTimeout (ctx unit : Nat) (slot : Bool)
  | trapEntry (ctx unit : Nat)
  | faultRingRetry (die : Nat)
  | copySegmentIssue (ctx unit copy : Nat)
  | copySegmentDone (ctx unit copy seg : Nat)
  | copyComplete (ctx unit copy : Nat)
  | publComplete (wid : Nat)
  | coxCommandIssue (core : Nat)
  | mmaComplete (core : Nat)
  | drainComplete (core : Nat)
  | millComplete (stack : Nat)
  | drds (m : DMsg)
  | drdown (m : DMsg)
  | ddata (m : DMsg)
  | dfwds (m : DMsg)
  | dfwdown (m : DMsg)
  | dack (m : DMsg)
  | drecall (m : DMsg)
  | dwrbk (m : DMsg)
  | dcmp (m : DMsg)
  | leaseWaitEnd (line : Nat)
  | planSwitchDone
  | readmissionDone (die : Nat) (pass : Bool)
  | hostLinkUp (port width rate : Nat) (cxl : Bool)
  | coolantInletTemperature (degrees : Nat)
  | cellJoinComplete
  | lreqRead (m : LreqMsg)
  | homeAtomic (m : AtomicMsg)
  | fwSyncDone
  | bootMeasurementExtend (idx : Nat) (digest : Digest)
  deriving DecidableEq, Repr

end Sys2Proof
end

