-- ==== Sys2Proof/WellFormed.lean ====
section
/-! DEFINITION. Which instructions are well formed: operand codes in the one spelling that R343 and R338 give them,
and events whose numbers name a die, core, port, peer and so on of the package. -/

namespace Sys2Proof

/-- A reserved source code is one of 0x94 to 0xBF. -/
def Src.wf : Src → Bool
  | .reserved c => decide (0x94 ≤ c.toNat) && decide (c.toNat < 0xC0)
  | _ => true

/-- A reserved destination code is one of 0x81 to 0x87, 0x94 to 0x9F and 0xA8 to 0xBF. -/
def Dst.wf : Dst → Bool
  | .reserved c => (decide (0x81 ≤ c.toNat) && decide (c.toNat < 0x88)) ||
      (decide (0x94 ≤ c.toNat) && decide (c.toNat < 0xA0)) || (decide (0xA8 ≤ c.toNat) && decide (c.toNat < 0xC0))
  | _ => true

/-- A reserved P value is one of 12 to 15. -/
def PredField.wf : PredField → Bool
  | .reserved c => decide (12 ≤ c.toNat)
  | _ => true

/-- A line of the 52-bit physical address space (03 R56): its address divided by 128. -/
def wfLine (n : Nat) : Bool := decide (n < 2 ^ 45)
/-- Planes of the fabric (02 R32). -/
def wfPlane (n : Nat) : Bool := decide (n < 16)
/-- Endpoints (02 R31). -/
def wfPeer (n : Nat) : Bool := decide (n < 128)
/-- Streams (02 R42). -/
def wfStream (n : Nat) : Bool := decide (n < 8)
/-- Cells (03 R59). -/
def wfCell (n : Nat) : Bool := decide (n < 64)
/-- Host ports (05 R122). -/
def wfPort (n : Nat) : Bool := decide (n < 2)
/-- Cores (01 R13). -/
def wfCore (n : Nat) : Bool := decide (n < 320)
/-- Context banks (06 R168). -/
def wfBank (n : Nat) : Bool := decide (n < 3)
/-- Compute dies (01 R11). -/
def wfDie (n : Nat) : Bool := decide (n < 4)
/-- Stacks (01 R11). -/
def wfStack (n : Nat) : Bool := decide (n < 8)
/-- Queues (06 R150). -/
def wfQueue (n : Nat) : Bool := decide (n < 64)
/-- Units as 13 R324 codes them. -/
def wfUnit (n : Nat) : Bool := decide (n < 0x48)
/-- Line data (01 R15). -/
def wfData (d : List Byte) : Bool := decide (d.length = 128)
/-- Line data that may be absent. -/
def wfOptData : Option (List Byte) → Bool
  | none => true
  | some d => wfData d

/-- A reference to an access names a unit that exists. -/
def AccRef.wf (r : AccRef) : Bool := wfUnit r.unit
/-- What a transaction timer runs for. -/
def TxRef.wf : TxRef → Bool
  | .access r => r.wf
  | .landing _ => true
  | .line d l _ _ => wfDie d && wfLine l
  | .holder l e => wfLine l && wfPeer e
  | .back d l => wfDie d && wfLine l
/-- A cross-cell message: its line, its endpoints, and 128 bytes where it carries data. -/
def XMsg.wf (m : XMsg) : Bool := wfLine m.line && wfDie m.die && wfPeer m.src && wfPeer m.req && wfOptData m.data
/-- A party of the package protocol. -/
def Party.wf : Party → Bool
  | .die d => wfDie d
  | .mate e => wfPeer e
/-- A package message. -/
def DMsg.wf (m : DMsg) : Bool := wfLine m.line && wfDie m.die && m.src.wf && m.req.wf && wfOptData m.data
/-- A landing store carries the bytes of its width code: 4, 8, 4, 8, 128 or 256 (11 R282). -/
def LandMsg.wf (m : LandMsg) : Bool :=
  decide (m.width < 6) && decide (m.data.length = (if m.width < 4 then 4 else 128) * (1 + m.width % 2))
/-- A landing request asks for at most 256 bytes. -/
def LreqMsg.wf (m : LreqMsg) : Bool := decide (m.size ≤ 256) && decide (m.pa < 2 ^ 52)
/-- A remote atomic. -/
def AtomicMsg.wf (m : AtomicMsg) : Bool := decide (m.pa < 2 ^ 52) && decide (m.ty < 28) && wfPeer m.src
/-- A hierarchical arrival. -/
def HArrival.wf (a : HArrival) : Bool := decide (a.id < 16) && wfPeer a.ep && wfCell a.cell && wfCore a.core
/-- An SPDM message. -/
def Spdm.wf : Spdm → Bool
  | .request tag cell => decide (tag < 65536) && wfCell cell
  | .accept tag cell => decide (tag < 65536) && wfCell cell
  | .tagRefused tag => decide (tag < 65536)
  | .busy => true
  | .start => true
/-- A packet names endpoints and a stream that exist. -/
def Packet.wf (p : Packet) : Bool := wfPeer p.src && wfPeer p.dst && wfStream p.stream

/-- An instruction is well formed: every code is canonical and every number names something that exists. -/
def Instr.wf (i : Instr) : Bool :=
  match i with
  | .ill _ => true
  | .nop => true
  | .bra _ => true
  | .bany p _ => p.wf
  | .ball p _ => p.wf
  | .bnone p _ => p.wf
  | .split p _ => p.wf
  | .join => true
  | .call _ => true
  | .ret a => a.wf
  | .jmpg d a => d.wf && a.wf
  | .exit => true
  | .yield => true
  | .bar _ => true
  | .bara _ => true
  | .barw _ => true
  | .hbar a _ _ => a.wf
  | .sleep a => a.wf
  | .exset a => a.wf
  | .exget d => d.wf
  | .modea _ => true
  | .modeb _ => true
  | .modeg d => d.wf
  | .waitc a _ => a.wf
  | .plset a => a.wf
  | .plsetp a _ => a.wf
  | .plocc d => d.wf
  | .repack _ => true
  | .pand d a b => d.wf && a.wf && b.wf
  | .por d a b => d.wf && a.wf && b.wf
  | .pxor d a b => d.wf && a.wf && b.wf
  | .pnot d a => d.wf && a.wf
  | .pmov d a => d.wf && a.wf
  | .psetg d a => d.wf && a.wf
  | .pgetg d => d.wf
  | .add d a b => d.wf && a.wf && b.wf
  | .addi d a _ => d.wf && a.wf
  | .subw d a b => d.wf && a.wf && b.wf
  | .mul d a b => d.wf && a.wf && b.wf
  | .mulh d a b => d.wf && a.wf && b.wf
  | .mad d a b => d.wf && a.wf && b.wf
  | .div d a b => d.wf && a.wf && b.wf
  | .rem d a b => d.wf && a.wf && b.wf
  | .minw d a b => d.wf && a.wf && b.wf
  | .maxw d a b => d.wf && a.wf && b.wf
  | .abs d a => d.wf && a.wf
  | .neg d a => d.wf && a.wf
  | .andw d a b => d.wf && a.wf && b.wf
  | .andi d a _ => d.wf && a.wf
  | .orw d a b => d.wf && a.wf && b.wf
  | .ori d a _ => d.wf && a.wf
  | .xorw d a b => d.wf && a.wf && b.wf
  | .xori d a _ => d.wf && a.wf
  | .andn d a b => d.wf && a.wf && b.wf
  | .notw d a => d.wf && a.wf
  | .shl d a b => d.wf && a.wf && b.wf
  | .shli d a _ => d.wf && a.wf
  | .shr d a b => d.wf && a.wf && b.wf
  | .shri d a _ => d.wf && a.wf
  | .sra d a b => d.wf && a.wf && b.wf
  | .srai d a _ => d.wf && a.wf
  | .rol d a b => d.wf && a.wf && b.wf
  | .clz d a => d.wf && a.wf
  | .popc d a => d.wf && a.wf
  | .brev d a => d.wf && a.wf
  | .bfx d a b => d.wf && a.wf && b.wf
  | .bfi d a b => d.wf && a.wf && b.wf
  | .sel d a b => d.wf && a.wf && b.wf
  | .mov d a => d.wf && a.wf
  | .li d _ => d.wf
  | .lih d _ => d.wf
  | .lea d a b => d.wf && a.wf && b.wf
  | .addc d a b => d.wf && a.wf && b.wf
  | .clamp d a b => d.wf && a.wf && b.wf
  | .cmpeq d a b => d.wf && a.wf && b.wf
  | .cmpne d a b => d.wf && a.wf && b.wf
  | .cmplt d a b => d.wf && a.wf && b.wf
  | .cmple d a b => d.wf && a.wf && b.wf
  | .cmpeqi d a _ => d.wf && a.wf
  | .cmplti d a _ => d.wf && a.wf
  | .vget d a b => d.wf && a.wf && b.wf
  | .vput d a b => d.wf && a.wf && b.wf
  | .shfl d a b => d.wf && a.wf && b.wf
  | .shflx d a b => d.wf && a.wf && b.wf
  | .shflup d a b => d.wf && a.wf && b.wf
  | .shfldn d a b => d.wf && a.wf && b.wf
  | .bcast d a b => d.wf && a.wf && b.wf
  | .vote d a => d.wf && a.wf
  | .cred d a _ => d.wf && a.wf
  | .fadd d a b => d.wf && a.wf && b.wf
  | .fsub d a b => d.wf && a.wf && b.wf
  | .fmul d a b => d.wf && a.wf && b.wf
  | .fma d a b => d.wf && a.wf && b.wf
  | .fms d a b => d.wf && a.wf && b.wf
  | .fnma d a b => d.wf && a.wf && b.wf
  | .fmin d a b => d.wf && a.wf && b.wf
  | .fmax d a b => d.wf && a.wf && b.wf
  | .fabs d a => d.wf && a.wf
  | .fneg d a => d.wf && a.wf
  | .fcps d a b => d.wf && a.wf && b.wf
  | .fcmpeq d a b => d.wf && a.wf && b.wf
  | .fcmplt d a b => d.wf && a.wf && b.wf
  | .fcmple d a b => d.wf && a.wf && b.wf
  | .fcmpun d a b => d.wf && a.wf && b.wf
  | .fclass d a => d.wf && a.wf
  | .frnd d a => d.wf && a.wf
  | .fscale d a b => d.wf && a.wf && b.wf
  | .fgete d a => d.wf && a.wf
  | .fcvt d a _ _ => d.wf && a.wf
  | .fcvti d a _ _ => d.wf && a.wf
  | .icvtf d a _ _ => d.wf && a.wf
  | .fdiv d a b => d.wf && a.wf && b.wf
  | .fsqrt d a => d.wf && a.wf
  | .frcp d a => d.wf && a.wf
  | .frsq d a => d.wf && a.wf
  | .fexp2 d a => d.wf && a.wf
  | .flog2 d a => d.wf && a.wf
  | .fsin d a => d.wf && a.wf
  | .fcos d a => d.wf && a.wf
  | .ftanh d a => d.wf && a.wf
  | .fdot2 d a b => d.wf && a.wf && b.wf
  | .fdot4 d a b => d.wf && a.wf && b.wf
  | .packn d a _ _ => d.wf && a.wf
  | .unpkn d a _ => d.wf && a.wf
  | .ternp d a b => d.wf && a.wf && b.wf
  | .ternu d a b => d.wf && a.wf && b.wf
  | .srseed d a => d.wf && a.wf
  | .fflags d a => d.wf && a.wf
  | .ld d a _ => d.wf && a.wf
  | .st d a _ => d.wf && a.wf
  | .ldacq d a _ => d.wf && a.wf
  | .strel d a _ => d.wf && a.wf
  | .ldl d a _ => d.wf && a.wf
  | .stl d a _ => d.wf && a.wf
  | .ldx d a _ => d.wf && a.wf
  | .stx d a _ => d.wf && a.wf
  | .atadd d a b => d.wf && a.wf && b.wf
  | .atmin d a b => d.wf && a.wf && b.wf
  | .atmax d a b => d.wf && a.wf && b.wf
  | .atand d a b => d.wf && a.wf && b.wf
  | .ator d a b => d.wf && a.wf && b.wf
  | .atxor d a b => d.wf && a.wf && b.wf
  | .atxch d a b => d.wf && a.wf && b.wf
  | .atcas d a b => d.wf && a.wf && b.wf
  | .fence _ => true
  | .pref a _ => a.wf
  | .resid a _ => a.wf
  | .lmint d a b => d.wf && a.wf && b.wf
  | .lmintc d a b => d.wf && a.wf && b.wf
  | .lmintg d a b => d.wf && a.wf && b.wf
  | .lsto a b => a.wf && b.wf
  | .lreq a b => a.wf && b.wf
  | .ldrop a => a.wf
  | .lstat d a => d.wf && a.wf
  | .lwait a => a.wf
  | .cpy a b => a.wf && b.wf
  | .cpyt a b => a.wf && b.wf
  | .shopen d a => d.wf && a.wf
  | .publ a b => a.wf && b.wf
  | .shdisc d a => d.wf && a.wf
  | .cpyres a b => a.wf && b.wf
  | .halo d a => d.wf && a.wf
  | .halop => true
  | .replh a => a.wf
  | .fmtb a => a.wf
  | .mma d a b => d.wf && a.wf && b.wf
  | .mmas d a b => d.wf && a.wf && b.wf
  | .acz d => d.wf
  | .acld d a => d.wf && a.wf
  | .acst d a b => d.wf && a.wf && b.wf
  | .accvt d a b => d.wf && a.wf && b.wf
  | .acchk d a => d.wf && a.wf
  | .mill a => a.wf
  | .fork a b => a.wf && b.wf
  | .rdv _ => true
  | .spawn d a => d.wf && a.wf
  | .srd d _ => d.wf
  | .swr a _ => a.wf
  | .trap _ => true
  | .tret => true
  | .bkpt _ => true
  | .rdtim d => d.wf
  | .rdlc d => d.wf
  | .lpinv => true
  | .scrub d a => d.wf && a.wf
  | .finj d a b => d.wf && a.wf && b.wf
  | .powerOn => true
  | .packageReset => true
  | .bootImageFetched _ => true
  | .bootFetchRetryTimer => true
  | .firmwareUpdateCheck _ => true
  | .linkTransferError link => decide (link < 11)
  | .patrolScrubRead line _ => wfLine line
  | .powerWindow _ => true
  | .thermalThrottleStart _ => true
  | .thermalThrottleStop _ => true
  | .thermalTrip _ => true
  | .registerWrite off _ => decide (off < 0x10000)
  | .fabPlanLoad => true
  | .fabPlanSwitch => true
  | .fabTimeLoRead => true
  | .planSwitchTime => true
  | .planSwitchRxRetune => true
  | .fabPacketReceive plane chanPeer pkt => wfPlane plane && wfPeer chanPeer && pkt.wf
  | .fabPacketTransmit peer stream => wfPeer peer && wfStream stream
  | .selectiveAck peer stream _ _ => wfPeer peer && wfStream stream
  | .ackTimer peer stream => wfPeer peer && wfStream stream
  | .replayTimeout peer stream _ => wfPeer peer && wfStream stream
  | .channelErrorWindow peer plane _ _ _ => wfPeer peer && wfPlane plane
  | .channelNotice peer plane => wfPeer peer && wfPlane plane
  | .spdmMessage peer m => wfPeer peer && m.wf
  | .spdmGetMeasurements _ _ => true
  | .spdmKeyUpdate peer => wfPeer peer
  | .spdmBusyRetry peer => wfPeer peer
  | .oldKeySlotRetire peer => wfPeer peer
  | .retiredTagExpiry tag => decide (tag < 65536)
  | .heartbeatTimer => true
  | .heartbeat peer _ cell _ _ _ => wfPeer peer && wfCell cell
  | .silenceTimeout peer => wfPeer peer
  | .sessionEndNotice peer => wfPeer peer
  | .fabBudgetPeriod => true
  | .transactionTimeout r => r.wf
  | .rds m => m.wf
  | .rdown m => m.wf
  | .wrbk m => m.wf
  | .data m => m.wf
  | .refuse m => m.wf
  | .cmp m => m.wf
  | .cmpack m => m.wf
  | .inv m => m.wf
  | .fwds m => m.wf
  | .fwdown m => m.wf
  | .fwdrec m => m.wf
  | .binv m => m.wf
  | .ack m => m.wf
  | .binvResendTimer line => wfLine line
  | .fwdrecTimeout line => wfLine line
  | .cellCfgWrite _ => true
  | .cellLeave => true
  | .sfCfgWrite _ => true
  | .sfRecallGo => true
  | .fwSync => true
  | .recoveryEngineStart cell => wfCell cell
  | .recoverySweepEnd => true
  | .hostMemRead port _ _ => wfPort port
  | .hostMemWrite port _ bytes => wfPort port && wfData bytes
  | .hostBinvAck port line bytes => wfPort port && wfLine line && wfOptData bytes
  | .hostBinvTimeout port line => wfPort port && wfLine line
  | .hostLinkDown port => wfPort port
  | .extGrant => true
  | .extRevoke => true
  | .extRevokeComplete port idx => wfPort port && decide (idx < 32)
  | .cwEnq port win off bytes => wfPort port && decide (win < 64) && decide (off < 4096) && decide (bytes.length ≤ 64)
  | .cwBindWrite port win _ => wfPort port && decide (win < 64)
  | .rtbExtend _ => true
  | .audAppend core => decide (core < 16)
  | .audRelease => true
  | .audExport => true
  | .audRead => true
  | .ctxRelGo _ => true
  | .ctxReleaseDone core bank _ => wfCore core && wfBank bank
  | .drainDie die => wfDie die
  | .readmitDie die => wfDie die
  | .stkDrain stack => wfStack stack
  | .stkRecalibrate stack => wfStack stack
  | .stkRecalibrateDone stack => wfStack stack
  | .stkResume stack => wfStack stack
  | .qSubmit queue _ => wfQueue queue
  | .qSkip queue => wfQueue queue
  | .xlatInvGo _ => true
  | .sweepComplete _ => true
  | .repArmGo _ => true
  | .replicaArmDone idx => decide (idx < 4096)
  | .replicaCollapseDone _ => true
  | .fltRetry core bank unit => wfCore core && wfBank bank && wfUnit unit
  | .fltReflect core bank unit => wfCore core && wfBank bank && wfUnit unit
  | .fltHalt core bank => wfCore core && wfBank bank
  | .fltUnhalt core bank => wfCore core && wfBank bank
  | .quadFuseWrite die _ => wfDie die
  | .cohCfgWrite _ => true
  | .leaseTransitionEnd => true
  | .logicalClockTick core => wfCore core
  | .clockSync => true
  | .dispatchDecision => true
  | .gangFallbackTimer queue => wfQueue queue
  | .spanComplete _ => true
  | .continuationRetry queue => wfQueue queue
  | .schedPeriodBoundary => true
  | .contextSwitch core => wfCore core
  | .activeIdleTimeout core => wfCore core
  | .residentWaitTimeout core => wfCore core
  | .streamOut _ => true
  | .streamIn _ core => wfCore core
  | .streamComplete _ => true
  | .loadDataReturn r => r.wf
  | .storeComplete r => r.wf
  | .itemFailReturn r _ _ _ => r.wf
  | .walkComplete core _ _ => wfCore core
  | .arrivalRecord _ unit _ => wfUnit unit
  | .hbarArrival a => a.wf
  | .sleepExpiry _ unit _ => wfUnit unit
  | .haloPushWrite _ _ => true
  | .landingStore m => m.wf
  | .landingOutcome _ lane _ => decide (lane < 33)
  | .lreqDeferredFault _ lane _ _ => decide (lane < 33)
  | .nameDeadline core entry _ => wfCore core && decide (entry < 256)
  | .nameReclaimCellLost core entry => wfCore core && decide (entry < 256)
  | .lnFullTimeout _ unit _ => wfUnit unit
  | .trapEntry _ unit => wfUnit unit
  | .faultRingRetry die => wfDie die
  | .copySegmentIssue _ unit _ => wfUnit unit
  | .copySegmentDone _ unit _ _ => wfUnit unit
  | .copyComplete _ unit _ => wfUnit unit
  | .publComplete wid => decide (wid < 65536)
  | .coxCommandIssue core => wfCore core
  | .mmaComplete core => wfCore core
  | .drainComplete core => wfCore core
  | .millComplete stack => wfStack stack
  | .drds m => m.wf
  | .drdown m => m.wf
  | .ddata m => m.wf
  | .dfwds m => m.wf
  | .dfwdown m => m.wf
  | .dack m => m.wf
  | .drecall m => m.wf
  | .dwrbk m => m.wf
  | .dcmp m => m.wf
  | .leaseWaitEnd line => wfLine line
  | .planSwitchDone => true
  | .readmissionDone die _ => wfDie die
  | .hostLinkUp port _ _ _ => wfPort port
  | .coolantInletTemperature _ => true
  | .cellJoinComplete => true
  | .lreqRead m => m.wf
  | .homeAtomic m => m.wf
  | .fwSyncDone => true
  | .bootMeasurementExtend idx _ => decide (idx < 8)

end Sys2Proof
end

