-- ==== Sys2Proof/Decode.lean ====
section
/-! DEFINITION. Operand codes, the decoder of instruction words, total on any bytes, and the encoder, both from the
encoding tables of R200, R224, R244, R284, R338, R343, R353, R354 and the entries' own encodings. -/

namespace Sys2Proof

/-- The code of a source (R343). -/
def Src.code : Src → BitVec 8
  | .v n => BitVec.ofNat 8 n.val
  | .q k => BitVec.ofNat 8 (0x80 + k.val)
  | .zero => 0x84
  | .lane => 0x85
  | .plane => 0x86
  | .crew => 0x87
  | .p k => BitVec.ofNat 8 (0x88 + k.val)
  | .gp k => BitVec.ofNat 8 (0x90 + k.val)
  | .g n => BitVec.ofNat 8 (0xC0 + n.val)
  | .reserved c => c

/-- The source that a code names (R343). -/
def Src.ofCode (c : BitVec 8) : Src :=
  let n := c.toNat
  if n < 0x80 then .v (Fin.ofNat 128 n)
  else if n < 0x84 then .q (Fin.ofNat 4 (n - 0x80))
  else if n = 0x84 then .zero
  else if n = 0x85 then .lane
  else if n = 0x86 then .plane
  else if n = 0x87 then .crew
  else if n < 0x90 then .p (Fin.ofNat 8 (n - 0x88))
  else if n < 0x94 then .gp (Fin.ofNat 4 (n - 0x90))
  else if n < 0xC0 then .reserved c
  else .g (Fin.ofNat 64 (n - 0xC0))

/-- The code of a destination (R343). -/
def Dst.code : Dst → BitVec 8
  | .v n => BitVec.ofNat 8 n.val
  | .none => 0x80
  | .p k => BitVec.ofNat 8 (0x88 + k.val)
  | .gp k => BitVec.ofNat 8 (0x90 + k.val)
  | .acc k => BitVec.ofNat 8 (0xA0 + k.val)
  | .g n => BitVec.ofNat 8 (0xC0 + n.val)
  | .reserved c => c

/-- The destination that a code names (R343). -/
def Dst.ofCode (c : BitVec 8) : Dst :=
  let n := c.toNat
  if n < 0x80 then .v (Fin.ofNat 128 n)
  else if n = 0x80 then .none
  else if n < 0x88 then .reserved c
  else if n < 0x90 then .p (Fin.ofNat 8 (n - 0x88))
  else if n < 0x94 then .gp (Fin.ofNat 4 (n - 0x90))
  else if n < 0xA0 then .reserved c
  else if n < 0xA8 then .acc (Fin.ofNat 8 (n - 0xA0))
  else if n < 0xC0 then .reserved c
  else .g (Fin.ofNat 64 (n - 0xC0))

/-- The value of a P field (R338). -/
def PredField.code : PredField → BitVec 4
  | .p k => BitVec.ofNat 4 k.val
  | .gp k => BitVec.ofNat 4 (8 + k.val)
  | .reserved c => c

/-- What a P field names (R338). -/
def PredField.ofCode (c : BitVec 4) : PredField :=
  let n := c.toNat
  if n < 8 then .p (Fin.ofNat 8 n)
  else if n < 12 then .gp (Fin.ofNat 4 (n - 8))
  else .reserved c

/-- What a word is to the decoder: an instruction, a word whose opcode is reserved (order 1 of R356), or a word that
holds another value than the one its entry fixes (order 3). -/
inductive Decoded where
  | instr (i : Instr)
  | reservedOpcode
  | fixedField
  deriving DecidableEq, Repr

/-! ## Fields (R338) -/

/-- D, [23:16]. -/
def fD (w : Word) : BitVec 8 := w.extractLsb' 16 8
/-- A, [15:8]. -/
def fA (w : Word) : BitVec 8 := w.extractLsb' 8 8
/-- B, IMM8 or OFF8, [7:0]. -/
def fB (w : Word) : BitVec 8 := w.extractLsb' 0 8
/-- IMM16, [15:0]. -/
def fH (w : Word) : BitVec 16 := w.extractLsb' 0 16
/-- The four high bits of A. -/
def fA4 (w : Word) : BitVec 4 := w.extractLsb' 12 4
/-- The five high bits of IMM8. -/
def fB5 (w : Word) : BitVec 5 := w.extractLsb' 3 5
/-- The three high bits of IMM8. -/
def fB3 (w : Word) : BitVec 3 := w.extractLsb' 5 3
/-- P, [23:20]. -/
def fP (w : Word) : BitVec 4 := w.extractLsb' 20 4
/-- DISP, [19:0]. -/
def fDisp (w : Word) : BitVec 20 := w.extractLsb' 0 20
/-- The destination in D. -/
def dst (w : Word) : Dst := Dst.ofCode (fD w)
/-- The source in D, of a store. -/
def srcD (w : Word) : Src := Src.ofCode (fD w)
/-- The source in A. -/
def srcA (w : Word) : Src := Src.ofCode (fA w)
/-- The source in B. -/
def srcB (w : Word) : Src := Src.ofCode (fB w)
/-- The predicate in P. -/
def predField (w : Word) : PredField := PredField.ofCode (fP w)

/-- The instruction, where the fixed fields hold their values. -/
def need (fixed : Prop) [Decidable fixed] (i : Instr) : Decoded := if fixed then .instr i else .fixedField

/-! ## Words (R338) -/

/-- A word of R, I or M format. -/
def word (op d a b : BitVec 8) : Word := op ++ d ++ a ++ b
/-- A word of H format. -/
def hWord (op d : BitVec 8) (i : BitVec 16) : Word := op ++ d ++ i
/-- A word of J format. -/
def jWord (op : BitVec 8) (p : BitVec 4) (t : BitVec 20) : Word := op ++ p ++ t

/-! ## The decoder -/

/-- Opcodes 0x00 to 0x0F of R353. -/
def decodeRow0 (lo : Nat) (w : Word) : Decoded :=
  match lo with
  | 0 => .instr (.ill (w.extractLsb' 0 24))
  | 1 => need (fD w = 0x80 ∧ fA w = 0x84 ∧ fB w = 0x84) .nop
  | 2 => need (fP w = 0) (.bra (fDisp w))
  | 3 => .instr (.bany (predField w) (fDisp w))
  | 4 => .instr (.ball (predField w) (fDisp w))
  | 5 => .instr (.bnone (predField w) (fDisp w))
  | 6 => .instr (.split (predField w) (fDisp w))
  | 7 => need (fD w = 0x80 ∧ fA w = 0x84 ∧ fB w = 0x84) .join
  | 8 => need (fP w = 0) (.call (fDisp w))
  | 9 => need (fD w = 0x80 ∧ fB w = 0x84) (.ret (srcA w))
  | 10 => need (fB w = 0x84) (.jmpg (dst w) (srcA w))
  | 11 => need (fD w = 0x80 ∧ fA w = 0x84 ∧ fB w = 0x84) .exit
  | 12 => need (fD w = 0x80 ∧ fA w = 0x84 ∧ fB w = 0x84) .yield
  | 13 => need (fD w = 0x80 ∧ fA4 w = 0 ∧ fB w = 0x84) (.bar (w.extractLsb' 8 4))
  | 14 => need (fD w = 0x80 ∧ fA4 w = 0 ∧ fB w = 0x84) (.bara (w.extractLsb' 8 4))
  | _ => need (fD w = 0x80 ∧ fA4 w = 0 ∧ fB w = 0x84) (.barw (w.extractLsb' 8 4))

/-- Opcodes 0x10 to 0x1F of R353. -/
def decodeRow1 (lo : Nat) (w : Word) : Decoded :=
  match lo with
  | 0 => need (fD w = 0x80) (.hbar (srcA w) (w.extractLsb' 4 4) (w.extractLsb' 0 4))
  | 1 => need (fD w = 0x80 ∧ fB w = 0x84) (.sleep (srcA w))
  | 2 => need (fD w = 0x80 ∧ fB w = 0x84) (.exset (srcA w))
  | 3 => need (fA w = 0x84 ∧ fB w = 0x84) (.exget (dst w))
  | 4 => need (fD w = 0x80) (.modea (fH w))
  | 5 => need (fD w = 0x80) (.modeb (fH w))
  | 6 => need (fA w = 0x84 ∧ fB w = 0x84) (.modeg (dst w))
  | 7 => need (fD w = 0x80) (.waitc (srcA w) (fB w))
  | 8 => need (fD w = 0x80 ∧ fB w = 0x84) (.plset (srcA w))
  | 9 => need (fD w = 0x80 ∧ fB5 w = 0) (.plsetp (srcA w) (w.extractLsb' 0 3))
  | 10 => need (fA w = 0x84 ∧ fB w = 0x84) (.plocc (dst w))
  | 11 => need (fD w = 0x80 ∧ fA4 w = 0 ∧ fB w = 0x84) (.repack (w.extractLsb' 8 4))
  | _ => .reservedOpcode

/-- Opcodes 0x20 to 0x2F of R353. -/
def decodeRow2 (lo : Nat) (w : Word) : Decoded :=
  match lo with
  | 0 => .instr (.pand (dst w) (srcA w) (srcB w))
  | 1 => .instr (.por (dst w) (srcA w) (srcB w))
  | 2 => .instr (.pxor (dst w) (srcA w) (srcB w))
  | 3 => need (fB w = 0x84) (.pnot (dst w) (srcA w))
  | 4 => need (fB w = 0x84) (.pmov (dst w) (srcA w))
  | 5 => need (fB w = 0x84) (.psetg (dst w) (srcA w))
  | 6 => need (fA w = 0x84 ∧ fB w = 0x84) (.pgetg (dst w))
  | 8 => .instr (.add (dst w) (srcA w) (srcB w))
  | 9 => .instr (.addi (dst w) (srcA w) (fB w))
  | 10 => .instr (.subw (dst w) (srcA w) (srcB w))
  | 11 => .instr (.mul (dst w) (srcA w) (srcB w))
  | 12 => .instr (.mulh (dst w) (srcA w) (srcB w))
  | 13 => .instr (.mad (dst w) (srcA w) (srcB w))
  | 14 => .instr (.div (dst w) (srcA w) (srcB w))
  | 15 => .instr (.rem (dst w) (srcA w) (srcB w))
  | _ => .reservedOpcode

/-- Opcodes 0x30 to 0x3F of R353. -/
def decodeRow3 (lo : Nat) (w : Word) : Decoded :=
  match lo with
  | 0 => .instr (.minw (dst w) (srcA w) (srcB w))
  | 1 => .instr (.maxw (dst w) (srcA w) (srcB w))
  | 2 => need (fB w = 0x84) (.abs (dst w) (srcA w))
  | 3 => need (fB w = 0x84) (.neg (dst w) (srcA w))
  | 4 => .instr (.andw (dst w) (srcA w) (srcB w))
  | 5 => .instr (.andi (dst w) (srcA w) (fB w))
  | 6 => .instr (.orw (dst w) (srcA w) (srcB w))
  | 7 => .instr (.ori (dst w) (srcA w) (fB w))
  | 8 => .instr (.xorw (dst w) (srcA w) (srcB w))
  | 9 => .instr (.xori (dst w) (srcA w) (fB w))
  | 10 => .instr (.andn (dst w) (srcA w) (srcB w))
  | 11 => need (fB w = 0x84) (.notw (dst w) (srcA w))
  | 12 => .instr (.shl (dst w) (srcA w) (srcB w))
  | 13 => .instr (.shli (dst w) (srcA w) (fB w))
  | 14 => .instr (.shr (dst w) (srcA w) (srcB w))
  | _ => .instr (.shri (dst w) (srcA w) (fB w))

/-- Opcodes 0x40 to 0x4F of R353. -/
def decodeRow4 (lo : Nat) (w : Word) : Decoded :=
  match lo with
  | 0 => .instr (.sra (dst w) (srcA w) (srcB w))
  | 1 => .instr (.srai (dst w) (srcA w) (fB w))
  | 2 => .instr (.rol (dst w) (srcA w) (srcB w))
  | 3 => need (fB w = 0x84) (.clz (dst w) (srcA w))
  | 4 => need (fB w = 0x84) (.popc (dst w) (srcA w))
  | 5 => need (fB w = 0x84) (.brev (dst w) (srcA w))
  | 6 => .instr (.bfx (dst w) (srcA w) (srcB w))
  | 7 => .instr (.bfi (dst w) (srcA w) (srcB w))
  | 8 => .instr (.sel (dst w) (srcA w) (srcB w))
  | 9 => need (fB w = 0x84) (.mov (dst w) (srcA w))
  | 10 => .instr (.li (dst w) (fH w))
  | 11 => .instr (.lih (dst w) (fH w))
  | 12 => .instr (.lea (dst w) (srcA w) (srcB w))
  | 13 => .instr (.addc (dst w) (srcA w) (srcB w))
  | 14 => .instr (.clamp (dst w) (srcA w) (srcB w))
  | _ => .instr (.cmpeq (dst w) (srcA w) (srcB w))

/-- Opcodes 0x50 to 0x5F of R353. -/
def decodeRow5 (lo : Nat) (w : Word) : Decoded :=
  match lo with
  | 0 => .instr (.cmpne (dst w) (srcA w) (srcB w))
  | 1 => .instr (.cmplt (dst w) (srcA w) (srcB w))
  | 2 => .instr (.cmple (dst w) (srcA w) (srcB w))
  | 3 => .instr (.cmpeqi (dst w) (srcA w) (fB w))
  | 4 => .instr (.cmplti (dst w) (srcA w) (fB w))
  | 5 => .instr (.vget (dst w) (srcA w) (srcB w))
  | 6 => .instr (.vput (dst w) (srcA w) (srcB w))
  | 8 => .instr (.shfl (dst w) (srcA w) (srcB w))
  | 9 => .instr (.shflx (dst w) (srcA w) (srcB w))
  | 10 => .instr (.shflup (dst w) (srcA w) (srcB w))
  | 11 => .instr (.shfldn (dst w) (srcA w) (srcB w))
  | 12 => .instr (.bcast (dst w) (srcA w) (srcB w))
  | 13 => need (fB w = 0x84) (.vote (dst w) (srcA w))
  | 14 => need (fB5 w = 0) (.cred (dst w) (srcA w) (w.extractLsb' 0 3))
  | _ => .reservedOpcode

/-- Opcodes 0x60 to 0x6F of R353. -/
def decodeRow6 (lo : Nat) (w : Word) : Decoded :=
  match lo with
  | 0 => .instr (.fadd (dst w) (srcA w) (srcB w))
  | 1 => .instr (.fsub (dst w) (srcA w) (srcB w))
  | 2 => .instr (.fmul (dst w) (srcA w) (srcB w))
  | 3 => .instr (.fma (dst w) (srcA w) (srcB w))
  | 4 => .instr (.fms (dst w) (srcA w) (srcB w))
  | 5 => .instr (.fnma (dst w) (srcA w) (srcB w))
  | 6 => .instr (.fmin (dst w) (srcA w) (srcB w))
  | 7 => .instr (.fmax (dst w) (srcA w) (srcB w))
  | 8 => need (fB w = 0x84) (.fabs (dst w) (srcA w))
  | 9 => need (fB w = 0x84) (.fneg (dst w) (srcA w))
  | 10 => .instr (.fcps (dst w) (srcA w) (srcB w))
  | 11 => .instr (.fcmpeq (dst w) (srcA w) (srcB w))
  | 12 => .instr (.fcmplt (dst w) (srcA w) (srcB w))
  | 13 => .instr (.fcmple (dst w) (srcA w) (srcB w))
  | 14 => .instr (.fcmpun (dst w) (srcA w) (srcB w))
  | _ => need (fB w = 0x84) (.fclass (dst w) (srcA w))

/-- Opcodes 0x70 to 0x7F of R353. -/
def decodeRow7 (lo : Nat) (w : Word) : Decoded :=
  match lo with
  | 0 => need (fB w = 0x84) (.frnd (dst w) (srcA w))
  | 1 => .instr (.fscale (dst w) (srcA w) (srcB w))
  | 2 => need (fB w = 0x84) (.fgete (dst w) (srcA w))
  | 3 => .instr (.fcvt (dst w) (srcA w) (w.extractLsb' 3 5) (w.extractLsb' 0 3))
  | 4 => .instr (.fcvti (dst w) (srcA w) (w.extractLsb' 3 5) (w.extractLsb' 0 3))
  | 5 => .instr (.icvtf (dst w) (srcA w) (w.extractLsb' 3 5) (w.extractLsb' 0 3))
  | 6 => .instr (.fdiv (dst w) (srcA w) (srcB w))
  | 7 => need (fB w = 0x84) (.fsqrt (dst w) (srcA w))
  | 8 => need (fB w = 0x84) (.frcp (dst w) (srcA w))
  | 9 => need (fB w = 0x84) (.frsq (dst w) (srcA w))
  | 10 => need (fB w = 0x84) (.fexp2 (dst w) (srcA w))
  | 11 => need (fB w = 0x84) (.flog2 (dst w) (srcA w))
  | 12 => need (fB w = 0x84) (.fsin (dst w) (srcA w))
  | 13 => need (fB w = 0x84) (.fcos (dst w) (srcA w))
  | 14 => need (fB w = 0x84) (.ftanh (dst w) (srcA w))
  | _ => .instr (.fdot2 (dst w) (srcA w) (srcB w))

/-- Opcodes 0x80 to 0x8F of R353. -/
def decodeRow8 (lo : Nat) (w : Word) : Decoded :=
  match lo with
  | 0 => .instr (.fdot4 (dst w) (srcA w) (srcB w))
  | 1 => need (fB3 w = 0) (.packn (dst w) (srcA w) (w.extractLsb' 3 2) (w.extractLsb' 0 3))
  | 2 => need (fB3 w = 0 ∧ w.extractLsb' 0 3 = 0) (.unpkn (dst w) (srcA w) (w.extractLsb' 3 2))
  | 3 => .instr (.ternp (dst w) (srcA w) (srcB w))
  | 4 => .instr (.ternu (dst w) (srcA w) (srcB w))
  | 5 => need (fB w = 0x84) (.srseed (dst w) (srcA w))
  | 6 => need (fB w = 0x84) (.fflags (dst w) (srcA w))
  | 8 => .instr (.ld (dst w) (srcA w) (fB w))
  | 9 => .instr (.st (srcD w) (srcA w) (fB w))
  | 10 => .instr (.ldacq (dst w) (srcA w) (fB w))
  | 11 => .instr (.strel (srcD w) (srcA w) (fB w))
  | 12 => .instr (.ldl (dst w) (srcA w) (fB w))
  | 13 => .instr (.stl (srcD w) (srcA w) (fB w))
  | 14 => .instr (.ldx (dst w) (srcA w) (fB w))
  | 15 => .instr (.stx (srcD w) (srcA w) (fB w))
  | _ => .reservedOpcode

/-- Opcodes 0x90 to 0x9F of R353. -/
def decodeRow9 (lo : Nat) (w : Word) : Decoded :=
  match lo with
  | 0 => .instr (.atadd (dst w) (srcA w) (srcB w))
  | 1 => .instr (.atmin (dst w) (srcA w) (srcB w))
  | 2 => .instr (.atmax (dst w) (srcA w) (srcB w))
  | 3 => .instr (.atand (dst w) (srcA w) (srcB w))
  | 4 => .instr (.ator (dst w) (srcA w) (srcB w))
  | 5 => .instr (.atxor (dst w) (srcA w) (srcB w))
  | 6 => .instr (.atxch (dst w) (srcA w) (srcB w))
  | 7 => .instr (.atcas (dst w) (srcA w) (srcB w))
  | 8 => need (fD w = 0x80 ∧ fA w = 0x84 ∧ fB3 w = 0) (.fence (w.extractLsb' 0 5))
  | 9 => need (fD w = 0x80) (.pref (srcA w) (fB w))
  | 10 => need (fD w = 0x80) (.resid (srcA w) (fB w))
  | _ => .reservedOpcode

/-- Opcodes 0xA0 to 0xAF of R353. -/
def decodeRowA (lo : Nat) (w : Word) : Decoded :=
  match lo with
  | 0 => .instr (.lmint (dst w) (srcA w) (srcB w))
  | 1 => .instr (.lmintc (dst w) (srcA w) (srcB w))
  | 2 => .instr (.lmintg (dst w) (srcA w) (srcB w))
  | 3 => need (fD w = 0x80) (.lsto (srcA w) (srcB w))
  | 4 => need (fD w = 0x80) (.lreq (srcA w) (srcB w))
  | 5 => need (fD w = 0x80 ∧ fB w = 0x84) (.ldrop (srcA w))
  | 6 => need (fB w = 0x84) (.lstat (dst w) (srcA w))
  | 7 => need (fD w = 0x80 ∧ fB w = 0x84) (.lwait (srcA w))
  | 8 => need (fD w = 0x80) (.cpy (srcA w) (srcB w))
  | 9 => need (fD w = 0x80) (.cpyt (srcA w) (srcB w))
  | 10 => need (fB w = 0x84) (.shopen (dst w) (srcA w))
  | 11 => need (fD w = 0x80) (.publ (srcA w) (srcB w))
  | 12 => need (fB w = 0x84) (.shdisc (dst w) (srcA w))
  | 13 => need (fD w = 0x80) (.cpyres (srcA w) (srcB w))
  | 14 => need (fB w = 0x84) (.halo (dst w) (srcA w))
  | _ => need (fD w = 0x80 ∧ fA w = 0x84 ∧ fB w = 0x84) .halop

/-- Opcodes 0xB0 to 0xBF of R353. -/
def decodeRowB (lo : Nat) (w : Word) : Decoded :=
  match lo with
  | 0 => need (fD w = 0x80 ∧ fB w = 0x84) (.replh (srcA w))
  | 8 => need (fD w = 0x80 ∧ fB w = 0x84) (.fmtb (srcA w))
  | 9 => .instr (.mma (dst w) (srcA w) (srcB w))
  | 10 => .instr (.mmas (dst w) (srcA w) (srcB w))
  | 11 => need (fA w = 0x84 ∧ fB w = 0x84) (.acz (dst w))
  | 12 => need (fB w = 0x84) (.acld (dst w) (srcA w))
  | 13 => .instr (.acst (dst w) (srcA w) (srcB w))
  | 14 => .instr (.accvt (dst w) (srcA w) (srcB w))
  | 15 => need (fB w = 0x84) (.acchk (dst w) (srcA w))
  | _ => .reservedOpcode

/-- Opcodes 0xC0 to 0xCF of R353. -/
def decodeRowC (lo : Nat) (w : Word) : Decoded :=
  match lo with
  | 0 => need (fD w = 0x80 ∧ fB w = 0x84) (.mill (srcA w))
  | 8 => need (fD w = 0x80) (.fork (srcA w) (srcB w))
  | 9 => need (fD w = 0x80 ∧ fA4 w = 0 ∧ fB w = 0x84) (.rdv (w.extractLsb' 8 4))
  | 10 => need (fB w = 0x84) (.spawn (dst w) (srcA w))
  | _ => .reservedOpcode

/-- Opcodes 0xD0 to 0xDF of R353. -/
def decodeRowD (lo : Nat) (w : Word) : Decoded :=
  match lo with
  | 0 => need (fB w = 0x84) (.srd (dst w) (fA w))
  | 1 => need (fD w = 0x80) (.swr (srcA w) (fB w))
  | 2 => need (fD w = 0x80 ∧ fA w = 0x84 ∧ fB3 w = 0) (.trap (w.extractLsb' 0 5))
  | 3 => need (fD w = 0x80 ∧ fA w = 0x84 ∧ fB w = 0x84) .tret
  | 4 => need (fD w = 0x80 ∧ fA w = 0x84) (.bkpt (fB w))
  | 5 => need (fA w = 0x84 ∧ fB w = 0x84) (.rdtim (dst w))
  | 6 => need (fA w = 0x84 ∧ fB w = 0x84) (.rdlc (dst w))
  | 7 => need (fD w = 0x80 ∧ fA w = 0x84 ∧ fB w = 0x84) .lpinv
  | 8 => need (fB w = 0x84) (.scrub (dst w) (srcA w))
  | 9 => .instr (.finj (dst w) (srcA w) (srcB w))
  | _ => .reservedOpcode

/-- What a word is (R353, R354, R356). -/
def decodeWord (w : Word) : Decoded :=
  let lo := (w.extractLsb' 24 4).toNat
  match (w.extractLsb' 28 4).toNat with
  | 0 => decodeRow0 lo w
  | 1 => decodeRow1 lo w
  | 2 => decodeRow2 lo w
  | 3 => decodeRow3 lo w
  | 4 => decodeRow4 lo w
  | 5 => decodeRow5 lo w
  | 6 => decodeRow6 lo w
  | 7 => decodeRow7 lo w
  | 8 => decodeRow8 lo w
  | 9 => decodeRow9 lo w
  | 10 => decodeRowA lo w
  | 11 => decodeRowB lo w
  | 12 => decodeRowC lo w
  | 13 => decodeRowD lo w
  | _ => .reservedOpcode
/-! ## The encoder -/

/-- The word of an instruction, from the encoding tables of spec/; an event has none. -/
def encode (x : Instr) : Option Word :=
  match x with
  | .ill x => some ((0x00#8) ++ x)
  | .nop => some (word 0x01#8 0x80 0x84 0x84)
  | .bra t => some (jWord 0x02#8 0 t)
  | .bany p t => some (jWord 0x03#8 p.code t)
  | .ball p t => some (jWord 0x04#8 p.code t)
  | .bnone p t => some (jWord 0x05#8 p.code t)
  | .split p t => some (jWord 0x06#8 p.code t)
  | .join => some (word 0x07#8 0x80 0x84 0x84)
  | .call t => some (jWord 0x08#8 0 t)
  | .ret a => some (word 0x09#8 0x80 a.code 0x84)
  | .jmpg d a => some (word 0x0A#8 d.code a.code 0x84)
  | .exit => some (word 0x0B#8 0x80 0x84 0x84)
  | .yield => some (word 0x0C#8 0x80 0x84 0x84)
  | .bar n => some (word 0x0D#8 0x80 (0#4 ++ n) 0x84)
  | .bara n => some (word 0x0E#8 0x80 (0#4 ++ n) 0x84)
  | .barw n => some (word 0x0F#8 0x80 (0#4 ++ n) 0x84)
  | .hbar a l i => some (word 0x10#8 0x80 a.code (l ++ i))
  | .sleep a => some (word 0x11#8 0x80 a.code 0x84)
  | .exset a => some (word 0x12#8 0x80 a.code 0x84)
  | .exget d => some (word 0x13#8 d.code 0x84 0x84)
  | .modea i => some (hWord 0x14#8 0x80 i)
  | .modeb i => some (hWord 0x15#8 0x80 i)
  | .modeg d => some (word 0x16#8 d.code 0x84 0x84)
  | .waitc a i => some (word 0x17#8 0x80 a.code i)
  | .plset a => some (word 0x18#8 0x80 a.code 0x84)
  | .plsetp a k => some (word 0x19#8 0x80 a.code (0#5 ++ k))
  | .plocc d => some (word 0x1A#8 d.code 0x84 0x84)
  | .repack n => some (word 0x1B#8 0x80 (0#4 ++ n) 0x84)
  | .pand d a b => some (word 0x20#8 d.code a.code b.code)
  | .por d a b => some (word 0x21#8 d.code a.code b.code)
  | .pxor d a b => some (word 0x22#8 d.code a.code b.code)
  | .pnot d a => some (word 0x23#8 d.code a.code 0x84)
  | .pmov d a => some (word 0x24#8 d.code a.code 0x84)
  | .psetg d a => some (word 0x25#8 d.code a.code 0x84)
  | .pgetg d => some (word 0x26#8 d.code 0x84 0x84)
  | .add d a b => some (word 0x28#8 d.code a.code b.code)
  | .addi d a i => some (word 0x29#8 d.code a.code i)
  | .subw d a b => some (word 0x2A#8 d.code a.code b.code)
  | .mul d a b => some (word 0x2B#8 d.code a.code b.code)
  | .mulh d a b => some (word 0x2C#8 d.code a.code b.code)
  | .mad d a b => some (word 0x2D#8 d.code a.code b.code)
  | .div d a b => some (word 0x2E#8 d.code a.code b.code)
  | .rem d a b => some (word 0x2F#8 d.code a.code b.code)
  | .minw d a b => some (word 0x30#8 d.code a.code b.code)
  | .maxw d a b => some (word 0x31#8 d.code a.code b.code)
  | .abs d a => some (word 0x32#8 d.code a.code 0x84)
  | .neg d a => some (word 0x33#8 d.code a.code 0x84)
  | .andw d a b => some (word 0x34#8 d.code a.code b.code)
  | .andi d a i => some (word 0x35#8 d.code a.code i)
  | .orw d a b => some (word 0x36#8 d.code a.code b.code)
  | .ori d a i => some (word 0x37#8 d.code a.code i)
  | .xorw d a b => some (word 0x38#8 d.code a.code b.code)
  | .xori d a i => some (word 0x39#8 d.code a.code i)
  | .andn d a b => some (word 0x3A#8 d.code a.code b.code)
  | .notw d a => some (word 0x3B#8 d.code a.code 0x84)
  | .shl d a b => some (word 0x3C#8 d.code a.code b.code)
  | .shli d a i => some (word 0x3D#8 d.code a.code i)
  | .shr d a b => some (word 0x3E#8 d.code a.code b.code)
  | .shri d a i => some (word 0x3F#8 d.code a.code i)
  | .sra d a b => some (word 0x40#8 d.code a.code b.code)
  | .srai d a i => some (word 0x41#8 d.code a.code i)
  | .rol d a b => some (word 0x42#8 d.code a.code b.code)
  | .clz d a => some (word 0x43#8 d.code a.code 0x84)
  | .popc d a => some (word 0x44#8 d.code a.code 0x84)
  | .brev d a => some (word 0x45#8 d.code a.code 0x84)
  | .bfx d a b => some (word 0x46#8 d.code a.code b.code)
  | .bfi d a b => some (word 0x47#8 d.code a.code b.code)
  | .sel d a b => some (word 0x48#8 d.code a.code b.code)
  | .mov d a => some (word 0x49#8 d.code a.code 0x84)
  | .li d i => some (hWord 0x4A#8 d.code i)
  | .lih d i => some (hWord 0x4B#8 d.code i)
  | .lea d a b => some (word 0x4C#8 d.code a.code b.code)
  | .addc d a b => some (word 0x4D#8 d.code a.code b.code)
  | .clamp d a b => some (word 0x4E#8 d.code a.code b.code)
  | .cmpeq d a b => some (word 0x4F#8 d.code a.code b.code)
  | .cmpne d a b => some (word 0x50#8 d.code a.code b.code)
  | .cmplt d a b => some (word 0x51#8 d.code a.code b.code)
  | .cmple d a b => some (word 0x52#8 d.code a.code b.code)
  | .cmpeqi d a i => some (word 0x53#8 d.code a.code i)
  | .cmplti d a i => some (word 0x54#8 d.code a.code i)
  | .vget d a b => some (word 0x55#8 d.code a.code b.code)
  | .vput d a b => some (word 0x56#8 d.code a.code b.code)
  | .shfl d a b => some (word 0x58#8 d.code a.code b.code)
  | .shflx d a b => some (word 0x59#8 d.code a.code b.code)
  | .shflup d a b => some (word 0x5A#8 d.code a.code b.code)
  | .shfldn d a b => some (word 0x5B#8 d.code a.code b.code)
  | .bcast d a b => some (word 0x5C#8 d.code a.code b.code)
  | .vote d a => some (word 0x5D#8 d.code a.code 0x84)
  | .cred d a o => some (word 0x5E#8 d.code a.code (0#5 ++ o))
  | .fadd d a b => some (word 0x60#8 d.code a.code b.code)
  | .fsub d a b => some (word 0x61#8 d.code a.code b.code)
  | .fmul d a b => some (word 0x62#8 d.code a.code b.code)
  | .fma d a b => some (word 0x63#8 d.code a.code b.code)
  | .fms d a b => some (word 0x64#8 d.code a.code b.code)
  | .fnma d a b => some (word 0x65#8 d.code a.code b.code)
  | .fmin d a b => some (word 0x66#8 d.code a.code b.code)
  | .fmax d a b => some (word 0x67#8 d.code a.code b.code)
  | .fabs d a => some (word 0x68#8 d.code a.code 0x84)
  | .fneg d a => some (word 0x69#8 d.code a.code 0x84)
  | .fcps d a b => some (word 0x6A#8 d.code a.code b.code)
  | .fcmpeq d a b => some (word 0x6B#8 d.code a.code b.code)
  | .fcmplt d a b => some (word 0x6C#8 d.code a.code b.code)
  | .fcmple d a b => some (word 0x6D#8 d.code a.code b.code)
  | .fcmpun d a b => some (word 0x6E#8 d.code a.code b.code)
  | .fclass d a => some (word 0x6F#8 d.code a.code 0x84)
  | .frnd d a => some (word 0x70#8 d.code a.code 0x84)
  | .fscale d a b => some (word 0x71#8 d.code a.code b.code)
  | .fgete d a => some (word 0x72#8 d.code a.code 0x84)
  | .fcvt d a t r => some (word 0x73#8 d.code a.code (t ++ r))
  | .fcvti d a t r => some (word 0x74#8 d.code a.code (t ++ r))
  | .icvtf d a t r => some (word 0x75#8 d.code a.code (t ++ r))
  | .fdiv d a b => some (word 0x76#8 d.code a.code b.code)
  | .fsqrt d a => some (word 0x77#8 d.code a.code 0x84)
  | .frcp d a => some (word 0x78#8 d.code a.code 0x84)
  | .frsq d a => some (word 0x79#8 d.code a.code 0x84)
  | .fexp2 d a => some (word 0x7A#8 d.code a.code 0x84)
  | .flog2 d a => some (word 0x7B#8 d.code a.code 0x84)
  | .fsin d a => some (word 0x7C#8 d.code a.code 0x84)
  | .fcos d a => some (word 0x7D#8 d.code a.code 0x84)
  | .ftanh d a => some (word 0x7E#8 d.code a.code 0x84)
  | .fdot2 d a b => some (word 0x7F#8 d.code a.code b.code)
  | .fdot4 d a b => some (word 0x80#8 d.code a.code b.code)
  | .packn d a p c => some (word 0x81#8 d.code a.code (0#3 ++ p ++ c))
  | .unpkn d a p => some (word 0x82#8 d.code a.code (0#3 ++ p ++ 0#3))
  | .ternp d a b => some (word 0x83#8 d.code a.code b.code)
  | .ternu d a b => some (word 0x84#8 d.code a.code b.code)
  | .srseed d a => some (word 0x85#8 d.code a.code 0x84)
  | .fflags d a => some (word 0x86#8 d.code a.code 0x84)
  | .ld d a o => some (word 0x88#8 d.code a.code o)
  | .st d a o => some (word 0x89#8 d.code a.code o)
  | .ldacq d a o => some (word 0x8A#8 d.code a.code o)
  | .strel d a o => some (word 0x8B#8 d.code a.code o)
  | .ldl d a o => some (word 0x8C#8 d.code a.code o)
  | .stl d a o => some (word 0x8D#8 d.code a.code o)
  | .ldx d a o => some (word 0x8E#8 d.code a.code o)
  | .stx d a o => some (word 0x8F#8 d.code a.code o)
  | .atadd d a b => some (word 0x90#8 d.code a.code b.code)
  | .atmin d a b => some (word 0x91#8 d.code a.code b.code)
  | .atmax d a b => some (word 0x92#8 d.code a.code b.code)
  | .atand d a b => some (word 0x93#8 d.code a.code b.code)
  | .ator d a b => some (word 0x94#8 d.code a.code b.code)
  | .atxor d a b => some (word 0x95#8 d.code a.code b.code)
  | .atxch d a b => some (word 0x96#8 d.code a.code b.code)
  | .atcas d a b => some (word 0x97#8 d.code a.code b.code)
  | .fence m => some (word 0x98#8 0x80 0x84 (0#3 ++ m))
  | .pref a o => some (word 0x99#8 0x80 a.code o)
  | .resid a o => some (word 0x9A#8 0x80 a.code o)
  | .lmint d a b => some (word 0xA0#8 d.code a.code b.code)
  | .lmintc d a b => some (word 0xA1#8 d.code a.code b.code)
  | .lmintg d a b => some (word 0xA2#8 d.code a.code b.code)
  | .lsto a b => some (word 0xA3#8 0x80 a.code b.code)
  | .lreq a b => some (word 0xA4#8 0x80 a.code b.code)
  | .ldrop a => some (word 0xA5#8 0x80 a.code 0x84)
  | .lstat d a => some (word 0xA6#8 d.code a.code 0x84)
  | .lwait a => some (word 0xA7#8 0x80 a.code 0x84)
  | .cpy a b => some (word 0xA8#8 0x80 a.code b.code)
  | .cpyt a b => some (word 0xA9#8 0x80 a.code b.code)
  | .shopen d a => some (word 0xAA#8 d.code a.code 0x84)
  | .publ a b => some (word 0xAB#8 0x80 a.code b.code)
  | .shdisc d a => some (word 0xAC#8 d.code a.code 0x84)
  | .cpyres a b => some (word 0xAD#8 0x80 a.code b.code)
  | .halo d a => some (word 0xAE#8 d.code a.code 0x84)
  | .halop => some (word 0xAF#8 0x80 0x84 0x84)
  | .replh a => some (word 0xB0#8 0x80 a.code 0x84)
  | .fmtb a => some (word 0xB8#8 0x80 a.code 0x84)
  | .mma d a b => some (word 0xB9#8 d.code a.code b.code)
  | .mmas d a b => some (word 0xBA#8 d.code a.code b.code)
  | .acz d => some (word 0xBB#8 d.code 0x84 0x84)
  | .acld d a => some (word 0xBC#8 d.code a.code 0x84)
  | .acst d a b => some (word 0xBD#8 d.code a.code b.code)
  | .accvt d a b => some (word 0xBE#8 d.code a.code b.code)
  | .acchk d a => some (word 0xBF#8 d.code a.code 0x84)
  | .mill a => some (word 0xC0#8 0x80 a.code 0x84)
  | .fork a b => some (word 0xC8#8 0x80 a.code b.code)
  | .rdv n => some (word 0xC9#8 0x80 (0#4 ++ n) 0x84)
  | .spawn d a => some (word 0xCA#8 d.code a.code 0x84)
  | .srd d a => some (word 0xD0#8 d.code a 0x84)
  | .swr a b => some (word 0xD1#8 0x80 a.code b)
  | .trap i => some (word 0xD2#8 0x80 0x84 (0#3 ++ i))
  | .tret => some (word 0xD3#8 0x80 0x84 0x84)
  | .bkpt i => some (word 0xD4#8 0x80 0x84 i)
  | .rdtim d => some (word 0xD5#8 d.code 0x84 0x84)
  | .rdlc d => some (word 0xD6#8 d.code 0x84 0x84)
  | .lpinv => some (word 0xD7#8 0x80 0x84 0x84)
  | .scrub d a => some (word 0xD8#8 d.code a.code 0x84)
  | .finj d a b => some (word 0xD9#8 d.code a.code b.code)
  | .powerOn => none
  | .packageReset => none
  | .bootImageFetched _ => none
  | .bootFetchRetryTimer => none
  | .firmwareUpdateCheck _ => none
  | .linkTransferError _ => none
  | .patrolScrubRead _ _ => none
  | .powerWindow _ => none
  | .thermalThrottleStart _ => none
  | .thermalThrottleStop _ => none
  | .thermalTrip _ => none
  | .registerWrite _ _ => none
  | .fabPlanLoad => none
  | .fabPlanSwitch => none
  | .fabTimeLoRead => none
  | .planSwitchTime => none
  | .planSwitchRxRetune => none
  | .fabPacketReceive _ _ _ => none
  | .fabPacketTransmit _ _ => none
  | .selectiveAck _ _ _ _ => none
  | .ackTimer _ _ => none
  | .replayTimeout _ _ _ => none
  | .channelErrorWindow _ _ _ _ _ => none
  | .channelNotice _ _ => none
  | .spdmMessage _ _ => none
  | .spdmGetMeasurements _ _ => none
  | .spdmKeyUpdate _ => none
  | .spdmBusyRetry _ => none
  | .oldKeySlotRetire _ => none
  | .retiredTagExpiry _ => none
  | .heartbeatTimer => none
  | .heartbeat _ _ _ _ _ _ => none
  | .silenceTimeout _ => none
  | .sessionEndNotice _ => none
  | .fabBudgetPeriod => none
  | .transactionTimeout _ => none
  | .rds _ => none
  | .rdown _ => none
  | .wrbk _ => none
  | .data _ => none
  | .refuse _ => none
  | .cmp _ => none
  | .cmpack _ => none
  | .inv _ => none
  | .fwds _ => none
  | .fwdown _ => none
  | .fwdrec _ => none
  | .binv _ => none
  | .ack _ => none
  | .binvResendTimer _ => none
  | .fwdrecTimeout _ => none
  | .cellCfgWrite _ => none
  | .cellLeave => none
  | .sfCfgWrite _ => none
  | .sfRecallGo => none
  | .fwSync => none
  | .recoveryEngineStart _ => none
  | .recoverySweepEnd => none
  | .hostMemRead _ _ _ => none
  | .hostMemWrite _ _ _ => none
  | .hostBinvAck _ _ _ => none
  | .hostBinvTimeout _ _ => none
  | .hostLinkDown _ => none
  | .extGrant => none
  | .extRevoke => none
  | .extRevokeComplete _ _ => none
  | .cwEnq _ _ _ _ => none
  | .cwBindWrite _ _ _ => none
  | .rtbExtend _ => none
  | .audAppend _ => none
  | .audRelease => none
  | .audExport => none
  | .audRead => none
  | .ctxRelGo _ => none
  | .ctxReleaseDone _ _ _ => none
  | .drainDie _ => none
  | .readmitDie _ => none
  | .stkDrain _ => none
  | .stkRecalibrate _ => none
  | .stkRecalibrateDone _ => none
  | .stkResume _ => none
  | .qSubmit _ _ => none
  | .qSkip _ => none
  | .xlatInvGo _ => none
  | .sweepComplete _ => none
  | .repArmGo _ => none
  | .replicaArmDone _ => none
  | .replicaCollapseDone _ => none
  | .fltRetry _ _ _ => none
  | .fltReflect _ _ _ => none
  | .fltHalt _ _ => none
  | .fltUnhalt _ _ => none
  | .quadFuseWrite _ _ => none
  | .cohCfgWrite _ => none
  | .leaseTransitionEnd => none
  | .logicalClockTick _ => none
  | .clockSync => none
  | .dispatchDecision => none
  | .gangFallbackTimer _ => none
  | .spanComplete _ => none
  | .continuationRetry _ => none
  | .schedPeriodBoundary => none
  | .contextSwitch _ => none
  | .activeIdleTimeout _ => none
  | .residentWaitTimeout _ => none
  | .streamOut _ => none
  | .streamIn _ _ => none
  | .streamComplete _ => none
  | .loadDataReturn _ => none
  | .storeComplete _ => none
  | .itemFailReturn _ _ _ _ => none
  | .walkComplete _ _ _ => none
  | .arrivalRecord _ _ _ => none
  | .hbarArrival _ => none
  | .sleepExpiry _ _ _ => none
  | .haloPushWrite _ _ => none
  | .landingStore _ => none
  | .landingOutcome _ _ _ => none
  | .lreqDeferredFault _ _ _ _ => none
  | .nameDeadline _ _ _ => none
  | .nameReclaimCellLost _ _ => none
  | .lnFullTimeout _ _ _ => none
  | .trapEntry _ _ => none
  | .faultRingRetry _ => none
  | .copySegmentIssue _ _ _ => none
  | .copySegmentDone _ _ _ _ => none
  | .copyComplete _ _ _ => none
  | .publComplete _ => none
  | .coxCommandIssue _ => none
  | .mmaComplete _ => none
  | .drainComplete _ => none
  | .millComplete _ => none
  | .drds _ => none
  | .drdown _ => none
  | .ddata _ => none
  | .dfwds _ => none
  | .dfwdown _ => none
  | .dack _ => none
  | .drecall _ => none
  | .dwrbk _ => none
  | .dcmp _ => none
  | .leaseWaitEnd _ => none
  | .planSwitchDone => none
  | .readmissionDone _ _ => none
  | .hostLinkUp _ _ _ _ => none
  | .coolantInletTemperature _ => none
  | .cellJoinComplete => none
  | .lreqRead _ => none
  | .homeAtomic _ => none
  | .fwSyncDone => none
  | .bootMeasurementExtend _ _ => none
/-- The word of four bytes, little-endian (00 R3). -/
def wordOfBytes (b0 b1 b2 b3 : Byte) : Word := b3 ++ b2 ++ b1 ++ b0

/-- The bytes of a word, lowest address first. -/
def bytesOfWord (w : Word) : List Byte :=
  [w.extractLsb' 0 8, w.extractLsb' 8 8, w.extractLsb' 16 8, w.extractLsb' 24 8]

/-- Why bytes are not an instruction. -/
inductive DecodeError where
  /-- Fewer than four bytes. -/
  | tooShort
  /-- An opcode that R353 marks reserved. -/
  | reservedOpcode
  /-- A fixed field holds another value. -/
  | fixedField
  deriving DecidableEq, Repr

/-- Decode the first instruction of a list of bytes, and give the rest. -/
def decodeBytes : List Byte → Except DecodeError (Instr × List Byte)
  | b0 :: b1 :: b2 :: b3 :: rest =>
    match decodeWord (wordOfBytes b0 b1 b2 b3) with
    | .instr i => .ok (i, rest)
    | .reservedOpcode => .error .reservedOpcode
    | .fixedField => .error .fixedField
  | _ => .error .tooShort

/-- The bytes of an instruction that the opcode table numbers from bit 0 of its one word; bits above nbits are 0. -/
def tableBytes (nbits w : Nat) : List Byte := bytesOfWord (BitVec.ofNat 32 (w % 2 ^ min nbits 32))

/-- The instruction that the decoder reads from a word of the opcode table. -/
def decodeTableWord (nbits w : Nat) : Option Instr :=
  match decodeBytes (tableBytes nbits w) with
  | .ok (i, _) => some i
  | .error _ => none

end Sys2Proof
end

