-- ==== Sys2Proof/Config.lean ====
section
/-! DEFINITION. What an implementation fixes and the spec leaves open. Each opaque constant has no value that Lean
can see, so a theorem holds for every choice of it (notes/assumptions names each). -/

namespace Sys2Proof.Config

/-- Which of the possible moves happens next (07 R181, 04, 10: no order is given). -/
opaque freeChoice : Nat → Nat
/-- A value that the spec leaves open, one for each use. -/
opaque freeDword : Nat → Dword
/-- The seed of a core's nonce (11 R281). -/
opaque nonceSeed : Nat → Word
/-- The session tag that an endpoint proposes (02 R47). -/
opaque sessionTag : Nat → Nat
/-- What an approximate function answers, by opcode, TYPE and operand bits (18 R428). -/
opaque approx : Nat → Nat → Nat → Nat
/-- SHA-384 (05 R133). -/
opaque sha384 : List Byte → Digest
/-- HKDF-SHA-384: key material and information (05 R138). -/
opaque hkdf : List Byte → List Byte → List Byte
/-- The fuses: ROOTKEY, MINVER by image type, and UDS (05 R133). -/
opaque rootKey : Digest
/-- See rootKey. -/
opaque minVersion : Nat → Nat
/-- See rootKey. -/
opaque deviceSecret : List Byte
/-- Whether an ECDSA signature over a digest verifies under a public key of brainpoolP384r1: key, signature, digest
(05 R135). -/
opaque verify : List Byte → List Byte → Digest → Bool
/-- The public key of the key pair that is derived from some key material (05 R138). -/
opaque publicKey : List Byte → List Byte
/-- The certificate of Nimian's certificate authority, and the one that it has given the DeviceID key (05 R138). -/
opaque caCertificate : List Byte
/-- See caCertificate. -/
opaque deviceCertificate : List Byte
/-- The key of an IDE stream, by the count of the free value that it takes (05 R122). -/
opaque ideKey : Nat → BitVec 256
/-- The ECDSA signature over a digest of the key pair that is derived from some key material (05 R138, R139, R143). -/
opaque sign : List Byte → Digest → List Byte
/-- The 16-byte tag that AES-256-GCM, or GMAC, gives a packet: the key, the IV, the header as additional authenticated
data, and the data flits (02 R41, R42, R48). -/
opaque packetTag : Nat → BitVec 96 → BitVec 128 → Msg → BitVec 128
/-- The 32-bit salt that the SPDM key schedule derives beside a traffic key (02 R46). -/
opaque sessionSalt : Nat → BitVec 32
/-- The endpoint number that this package is assigned (01 R27). -/
opaque endpoint : Nat
/-- Whether throttling withholds vector issue in a cycle, on every core alike (01 R23). -/
opaque withholds : Nat → Bool
/-- How a stack entry encodes the wait of its slot: the kind of wait and what it waits for (07 R184: the D9's own). -/
opaque holdCode : Nat → Nat → Dword
/-- The first stage's image in flash (05 R136). -/
opaque firstStage : List Byte

end Sys2Proof.Config
end

