-- ==== Sys2Proof/Machine/State.lean ====
section
/-! DEFINITION. The state of the machine: everything spec/ gives one D9 package, as plain data, and the state
right after package reset. INVENTORY.md, heading State, names the rule behind every field. -/

namespace Sys2Proof.Machine

/-! ## The schedule -/

/-- An event in flight (a message, a timer, a completion) and the earliest cycle at which it may happen. -/
structure Timed where
  due : Nat
  ev : Ev
  deriving DecidableEq, Repr

/-- Who moves next (notes/assumptions/2.md). -/
inductive Choice where
  /-- A unit of a context issues its next offset. -/
  | issue (ctx unit : Nat)
  /-- The k-th event in flight happens. -/
  | event (k : Nat)
  /-- An event from outside the package, or of hardware that the spec lets act at any time. -/
  | outside (ev : Ev)
  /-- A storage cell of the package loses a bit or more (01 R17; 07 R207; notes/assumptions/126.md). -/
  | upset
  deriving DecidableEq, Repr

/-- What leaves the package: the boundary at which hosts, peers and the supervisor observe it. -/
inductive Out where
  /-- A packet leaves on a plane (02 R43). -/
  | packet (plane : Nat) (p : Packet)
  /-- An MSI-X vector (05 R130). -/
  | msix (port vec : Nat)
  /-- A back-invalidation to a host (03 R70, 04 R121). -/
  | hostBInv (port line : Nat)
  /-- A copy reads or writes host memory through CXL.cache (20 R462). -/
  | hostCopyRead (port hpa len : Nat)
  | hostCopyWrite (port hpa : Nat) (data : List Byte)
  /-- The answer to a host read, with its poison mark (05 R124). -/
  | hostData (port hoff : Nat) (data : List Byte) (poison : Bool)
  /-- A host request that completes with an error (03 R91, R93). -/
  | hostError (port hoff : Nat)
  /-- A supervisor interrupt for a die's fault ring (13 R324). -/
  | faultIrq (die : Nat)
  /-- A supervisor interrupt for a queue error (06 R154). -/
  | queueIrq (queue errc : Nat)
  /-- Signed measurements (05 R139): the requester, its nonce, MR0 to MR7, head digest and last SEQ, the signature, and the
  certificate chain. -/
  | measurements (requester : Nat) (nonce : BitVec 256) (mrs : List Digest) (head : Digest) (seq : Nat) (sig : List Byte)
      (chain : List (List Byte))
  /-- A request of the boot firmware for its image file (05 R136). -/
  | fetchImage (port : Nat)
  deriving DecidableEq, Repr

/-! ## Units -/

/-- Why a slot does not issue (07 R180). -/
inductive Hold where
  | none
  /-- At the JOIN at its offset (07 R187). -/
  | join
  /-- An arrival at ferry barrier b waits to be recorded (07 R192): the accesses and the halo pushes it waits for, the offset
  of a REPACK, and whether the slot goes on once it is recorded (BARA). -/
  | arriving (b : Nat) (ids pushes : List Nat) (repack : Option Word) (goesOn : Bool)
  /-- At ferry barrier b until instance k completes (07 R191). -/
  | barrier (b k : Nat)
  /-- An arrival at a hierarchical barrier waits to be recorded, or for its instance (07 R193, R194). -/
  | harriving (a : HArrival) (ids pushes : List Nat)
  | hbar (a : HArrival)
  /-- LWAIT of the register with this code (11 R289). -/
  | lwait (reg : Nat)
  /-- SLEEP until this cycle (17 R395). -/
  | sleep (till : Nat)
  /-- WAITC (07 R199). -/
  | waitc (path count : Nat)
  /-- A word that has not acted waits for these accesses, or for the next step; it issues again. -/
  | drain (ids : List Nat)
  /-- A FENCE or a release waits for these accesses (19 R452, 10 R268); the word issues again. -/
  | release (ids : List Nat)
  /-- The accesses are over: it waits for these write-backs, by key, and for the answers to the Inv messages of these lines
  (10 R268 X and P). -/
  | settle (keys lines : List Nat)
  /-- A mint waits for this many entries (11 R283). -/
  | mint (need : Nat)
  /-- A copy word waits for one of the carter's eight copies, a MILL for one of four (20 R462, 12 R299). -/
  | busy
  /-- Held for the supervisor (13 R324). -/
  | supervised
  /-- Trap entry waits for the counters (13 R329 step 2). -/
  | entering
  deriving DecidableEq, Repr

/-- The trap registers of a crew (13 R328), also one fault's record (13 R324). -/
structure TrapRec where
  cause : Word := 0
  off : Word := 0
  plane : Nat := 0
  lanes : Mask := 0
  mask : Mask := 0
  addr : Dword := 0
  word : Word := 0
  /-- SKID in [7:0], CHPOS in [9:8], DEFER in bit 12 (PEND and INH are kept apart). -/
  skid : Word := 0
  deriving DecidableEq, Repr

/-- A program-counter slot, and an entry of the divergence stack (07 R180, R184). -/
structure Slot where
  occ : Bool := false
  off : Word := 0
  mask : Mask := 0
  hold : Hold := .none
  /-- The wait of the word at this offset is over: it acts when it issues again. -/
  waited : Bool := false
  /-- How far the release at this offset has come: 1 when the accesses that it waits for are over, 2 when its write-backs and
  answers are too. Conditions once met stay met (10 R268, R276; 19 R446). -/
  stage : Nat := 0
  /-- The cycle in which the word began to wait for landing entries (11 R283). -/
  since : Nat := 0
  /-- What a fault at the barrier word by which the slot arrived records (13 R482). -/
  barRec : TrapRec := {}
  /-- The issue order of that word (13 R329). -/
  barAge : Nat := 0
  deriving DecidableEq, Repr

/-- A fault that has been raised and waits to be taken: its record, cause, where it goes and its age. -/
structure PendingFault where
  record : TrapRec
  cause : Cause
  /-- It goes to the supervisor whatever handler is installed (13 R321). -/
  sup : Bool
  /-- A supervisor fault that is held rather than halting (13 R321, R324). -/
  held : Bool
  /-- The slot it was raised in: false for S0. -/
  slot : Bool
  /-- Issue order of the instruction that raised it (13 R329). -/
  age : Nat
  /-- Escalated from a handler, and no handler installed (13 R324 FLAGS). -/
  esc : Bool := false
  nohnd : Bool := false
  deriving DecidableEq, Repr

/-- The kinds of access that are in flight. -/
inductive AccKind where
  | load | acquire | store | release | atomic (op : AtOp) | ldl | ldx | stx | lsto | lreq
  deriving DecidableEq, Repr

/-- Where a piece of an access is served: coherent memory, the unit's own bank (LDL, a halo frame of 04 R116), a replica
(04 R110), or the bank of a context (07 R202). -/
inductive Served where
  | mem | own | replica | bank (ctx : Nat)
  deriving DecidableEq, Repr

/-- The part of one lane's access that lies in one line (19 R440). -/
structure Piece where
  /-- 0 to 31, or 32 for a group-scope access. -/
  lane : Nat
  served : Served := .mem
  /-- Domain physical address, or a local-store offset. -/
  pa : Nat
  va : Dword
  /-- Bytes of this piece and its position in the element. -/
  len : Nat
  pos : Nat
  /-- The data stored, the operand of an atomic, or the data that has returned. -/
  data : Dword
  /-- The comparand of ATCAS, or the landing name. -/
  aux : Dword := 0
  /-- The count of coherence events when the line was asked for. -/
  asked : Option Nat := none
  /-- When the item times out, once its request has entered the port; 0 before (02 R54). -/
  deadline : Nat := 0
  done : Bool := false
  failed : Option Cause := none
  deriving DecidableEq, Repr

/-- An access in flight (07 R198). -/
structure Access where
  id : Nat
  /-- 0 LS, 1 XS, 2 GL, 3 GS, 4 FB: the counters that it raises (19 R440). -/
  paths : List Nat
  kind : AccKind
  /-- The TYPE code in force at issue. -/
  ty : Nat
  /-- Destination code 0x00 to 0xFF of R343; 0x80 for none. -/
  dst : Nat
  pieces : List Piece
  word : Word
  off : Word
  plane : Nat
  slot : Bool
  mask : Mask
  /-- First offset of its latch chain and its position there (13 R333). -/
  chainOff : Word
  chpos : Nat
  /-- In a chain: the generators of the lanes and SG at the chain's first offset (15 R372). -/
  gens : List (Nat × Word) := []
  genG : Word := 0
  /-- Issue order. -/
  age : Nat
  /-- Observer mask of a strong access (10 R270). -/
  obs : BitVec 5 := 0
  /-- Younger words that the slot issued while this access could fail, and the registers read by it and them
  (03 R85, R86). -/
  young : Nat := 0
  reads : List Nat := []
  /-- It can fail at its home as a store (03 R86). -/
  firm : Bool := false
  /-- Landing stores of later lanes that wait for an earlier lane's on the same entry (11 R285). -/
  lands : List LandMsg := []
  done : Bool := false
  deriving DecidableEq, Repr

/-- A translation: an entry of a TLB or a last-page register (09 R241, R243). -/
structure Xlat where
  asid : Nat
  va : Nat
  /-- 0 8 KiB, 1 8 MiB, 2 8 GiB. -/
  size : Nat
  /-- 1 local, 2 remote, 3 window (09 R237 KIND). -/
  kind : Nat
  pa : Nat
  r : Bool
  w : Bool
  x : Bool
  ten : Bool
  tclass : Nat
  ace : Bool
  rep : Option Nat
  wid : Nat
  deriving DecidableEq, Repr

/-- An entry of a die's walk cache: the table that a table entry at a level, 2 to 4, names for a region of an address
space (09 R241). -/
structure WalkEntry where
  die : Nat
  asid : Nat
  level : Nat
  /-- The region: the address without the bits that the levels below translate. -/
  region : Nat
  table : Nat
  deriving DecidableEq, Repr

/-- A cox command waiting for or in the matrix engine (12 R299, R316). -/
structure CoxCmd where
  /-- The opcode of the word. -/
  op : Nat
  tile : Nat
  /-- G[A] and G[B] as the command read them. -/
  a : Word
  b : Word
  name : Dword
  word : Word
  off : Word
  /-- The format block in force, the scales and the zero map, read at issue (12 R306, R310). -/
  fmt : List Byte
  scaleA : List Byte
  scaleB : List Byte
  zmap : List Byte
  /-- The policy and TIE at issue, and the cycle of issue. -/
  policy : Nat
  tie : Bool := false
  age : Nat := 0
  /-- The next K group, and whether the command has set TI. -/
  grp : Nat := 0
  ti : Bool := false
  /-- ACCHK has set the policy to OFF since: the keeping of the tile ends with this command (12 R315). -/
  endKeep : Bool := false
  deriving DecidableEq, Repr

/-- The checksum registers of a failed drain (12 R314). -/
structure Abft where
  syn : Word := 0
  unit : Word := 0
  row : Word := 0
  col : Word := 0
  deriving DecidableEq, Repr

/-- The cox's own state (12 R303, R308, R313, R315). -/
structure CoxState where
  fmt : Option (List Byte) := none
  /-- 0 CORRECT, 1 CHECK, 2 OFF. -/
  policy : Nat := 0
  tie : Bool := false
  /-- TI, NAN, NV, OF at bits 3, 2, 1, 0. -/
  flags : BitVec 4 := 0
  cmds : List CoxCmd := []
  /-- Names of drain statuses that have set out and are not delivered yet (12 R300). -/
  sent : List Dword := []
  /-- The first failing drain since the last arrival. -/
  failed : Option Abft := none
  deriving DecidableEq, Repr

/-- Where a part of a copy lies: memory, the context's bank, or a host's memory (20 R459). -/
inductive Spot where
  | mem (pa : Nat)
  | bank (off : Nat)
  | host (hpa : Nat)
  deriving DecidableEq, Repr

/-- Bytes of a segment that lie together: where, from which byte of the segment, how many, at which address of the
copy, and the window whose shadow they are written to. -/
structure Part where
  spot : Spot
  pos : Nat
  len : Nat
  va : Dword
  wid : Option Nat := none
  deriving DecidableEq, Repr

/-- A segment of a copy (20 R462): its elements, and the address of its first destination byte. -/
structure Seg where
  first : Nat
  len : Nat
  dst0 : Nat
  issued : Bool := false
  done : Bool := false
  /-- The source, and the parts of the destination that are still to be written, as they were translated at issue. -/
  src : List Part := []
  dst : List Part := []
  /-- Lines of the source that were asked for, and what has been read. -/
  asks : List (Nat × Nat) := []
  data : Option (List Byte) := none
  /-- Elements whose writes have performed, from the first on. -/
  wrote : Nat := 0
  /-- When what other endpoints have not answered times out. -/
  deadline : Nat := 0
  /-- The cause of R463 and the failing address. -/
  failed : Option (Nat × Dword) := none
  /-- The translation code of its failure (09 R249). -/
  xcode : Nat := 0
  deriving DecidableEq, Repr

/-- One dimension of a copy (20 R460). -/
structure Dim where
  count : Nat
  sstr : Int
  dstr : Int
  deriving DecidableEq, Repr

/-- A copy in progress or suspended (20 R459 to R465). -/
structure Copy where
  id : Nat
  word : Word
  off : Word
  name : Dword
  src : Dword
  dst : Dword
  /-- Element size in bytes. -/
  esz : Nat
  dims : List Dim
  /-- FLAGS of R459. -/
  flags : BitVec 8
  /-- Accesses of the carter that it waits for before it starts. -/
  waits : List Nat
  segs : List Seg
  /-- It issues no further segment. -/
  stopped : Bool := false
  /-- Windows in which some destination lies. -/
  wins : List Nat := []
  /-- It is a resumption of a suspended copy. -/
  resumed : Bool := false
  /-- SHDISC ended it (20 R466). -/
  discarded : Bool := false
  /-- A segment touched a lost cell: its context has been halted for that (03 R77). -/
  lost : Bool := false
  deriving DecidableEq, Repr

/-- One unit: a crew, a cox or a carter. The lane registers of a cox or a carter are never used (14 R340). -/
structure Thread where
  live : Bool := false
  exited : Bool := false
  ferry : Nat := 0
  /-- Crew number within the ferry. -/
  num : Nat := 0
  s0 : Slot := {}
  s1 : Slot := {}
  /-- The slot issued from last: true for S1. -/
  last : Bool := true
  /-- Its last issue turn, by the core's count of turns; 0 before its first (06 R176). -/
  turn : Nat := 0
  /-- The cycle of its launch, from which it was ready for its first turn (06 R176). -/
  born : Nat := 0
  stack : List Slot := []
  /-- v registers by 32 * N + lane; predicates pN as lane masks; g, gp. -/
  v : Map Word := []
  p : Map Mask := []
  g : Map Word := []
  gp : Map Bool := []
  /-- Latches by 32 * k + lane. -/
  q : Map Dword := []
  /-- By lane: plane, crew identity (offset from num is not used: the value itself), last-page register, S[L]. -/
  plane : Map Nat := []
  crewId : Map Nat := []
  lp : Map Xlat := []
  sr : Map Word := []
  mode : Word := 0x1000
  sticky : BitVec 6 := 0
  sg : Word := 0
  /-- Pending and RCL marks: v registers as lane masks, g registers. -/
  vpend : Map Mask := []
  vrcl : Map Mask := []
  gpend : Map Bool := []
  grcl : Map Bool := []
  /-- Accesses in flight, oldest first. -/
  flight : List Access := []
  nextAcc : Nat := 0
  /-- Position in the latch chain and its first offset, by slot. -/
  chain : Nat := 0
  chainOff : Word := 0
  chainSlot : Bool := false
  /-- Registers read so far in the chain (codes; 256 + k for predicates), for R347 'restartable'. -/
  chainReads : List Nat := []
  /-- Generator states at the chain's first offset (15 R372). -/
  chainSr : Map Word := []
  chainSg : Word := 0
  /-- The latch chain goes on only from this offset. -/
  chainNext : Word := 0
  /-- A word of the chain writes what it or an earlier one reads, so none may follow (17 R388). -/
  chainBad : Bool := false
  /-- Offsets of the chain still to issue, as the core saw when it began (14 R348). -/
  chainLeft : Nat := 0
  /-- Accesses that must complete before the crew issues: an acquire's reads (10 R269), a store in a chain (13 R333). -/
  block : List Nat := []
  /-- The count of words issued, for the age of faults (13 R329). -/
  issued : Nat := 0
  trap : TrapRec := {}
  inh : Bool := false
  inhSlot : Bool := false
  pendTrap : Option PendingFault := none
  entering : List PendingFault := []
  /-- Deferred faults of lanes that lie in a stack entry: they are raised when it is popped. -/
  late : List PendingFault := []
  /-- Faults held for the supervisor. -/
  helds : List PendingFault := []
  /-- Last instance at which the crew arrived, by barrier, and hierarchical barriers executed. -/
  barAt : Map Nat := []
  /-- BKPT to pass once (20 R476). -/
  bkptPass : Option Word := none
  /-- FENCE, STREL, atomics: Inv or BInv of the crew's stores not yet acknowledged (10 R268 P). -/
  invs : List Nat := []
  cox : CoxState := {}
  copies : List Copy := []
  susp : Map Copy := []
  nextCopy : Nat := 0
  deriving DecidableEq, Repr

/-! ## Contexts -/

/-- An accumulator tile that a command has named (12 R302, R309, R311). Its 4,096 elements row by row, or [] where all
are zero; the checksum sums of the 64 rows and columns, signed and absolute, or [] where all are zero. The sums are exact
integers scaled by 2^2400; none stands for a sum that is not finite. -/
structure Tile where
  /-- 0 f32, 1 f64, 2 i32. -/
  ty : Nat := 0
  el : List Dword := []
  kept : Bool := false
  rows : List (Option Int × Option Int) := []
  cols : List (Option Int × Option Int) := []
  deriving DecidableEq, Repr

/-- An instance of a ferry barrier (07 R189, 08 R228, 12 R313). -/
structure BarInst where
  num : Nat
  expected : List Nat
  arrived : List Nat
  /-- Offset of the REPACK that opened it (08 R228). -/
  repack : Option Word := none
  /-- A barrier word other than REPACK or RDV stands in it. -/
  plain : Bool := false
  failed : Bool := false
  /-- The crew slots that arrived: unit, what an ABFT trap records (13 R482), and the issue order of the word. -/
  slots : List (Nat × TrapRec × Nat) := []
  deriving DecidableEq, Repr

/-- A ferry barrier: instances opened so far and the open one. -/
structure Bar where
  opened : Nat := 0
  inst : Option BarInst := none
  deriving DecidableEq, Repr

/-- A ferry on a core (06 R165, 07 R178). -/
structure Ferry where
  span : Nat := 0
  index : Nat := 0
  code : Nat := 0
  frame : Dword := 0
  crews : Nat := 1
  regs : Nat := 7
  lsBase : Nat := 0
  lsLen : Nat := 0
  /-- The bank's accumulator tiles that the ferry addresses as a0 onward (06 R159). -/
  accTiles : List Nat := []
  acc : Nat := 0
  /-- Plane stride in bytes. -/
  stride : Nat := 4096
  gangPos : Nat := 0
  gangSize : Nat := 1
  pri : Nat := 0
  pinned : Bool := false
  /-- Unit codes of its crew slots, in crew order. -/
  crewSlots : List Nat := []
  /-- Register rows, in order. -/
  rows : List Nat := []
  bexp : Word := 0
  bars : Map Bar := []
  standing : List HArrival := []
  hbarUsed : List HArrival := []
  /-- Arrivals of crews at hierarchical barriers that the ferry has not made yet, with the crew (07 R194). -/
  hcrews : List (HArrival × Nat) := []
  /-- Arrivals that the ferry has made at instances that have not completed (07 R194). -/
  hmade : List HArrival := []
  coxStarted : Bool := false
  carStarted : Bool := false
  deriving DecidableEq, Repr

/-- A live halo declaration (04 R113, R114): its descriptor and the tile its core owns. -/
structure Halo where
  desc : List Byte
  tile : Nat
  deriving DecidableEq, Repr

/-- A halo push in flight (04 R118): the declaration, the elements of the tile still to be read as row and column, the
lines asked for, and what it read: row, column, bytes. -/
structure Push where
  id : Nat
  halo : Halo
  /-- The unit code of the ferry's carter, and the word that started the push. -/
  car : Nat
  word : Word
  todo : List (Nat × Nat)
  asks : List (Nat × Nat) := []
  read : List (Nat × Nat × List Byte) := []
  deriving DecidableEq, Repr

/-- Where a context stands (06 R168). -/
inductive Place where
  | bank (core bank : Nat)
  | streamOut (core bank : Nat)
  | streamIn (core bank : Nat)
  | saved
  deriving DecidableEq, Repr

/-- The lanes of a PREF or RESID whose walks wait: unit, TYPE's size, lanes with their addresses (09 R260; 19 R453). -/
structure Hint where
  unit : Nat
  size : Nat
  resid : Bool
  lanes : List (Nat × Dword)
  deriving DecidableEq, Repr

/-- A context: what one address space and one tenant class hold on one core (06, Contexts on a core). -/
structure Ctx where
  live : Bool := false
  place : Place := .saved
  /-- The bank out of which it was saved last. -/
  bank : Nat := 0
  /-- The core whose landing table holds its names (11 R280). -/
  home : Nat := 0
  asid : Nat := 0
  cls : Nat := 0
  halted : Bool := false
  fabcfg : Word := 0xFFFF0000
  /-- Bytes charged in the fabric period (02 R52). -/
  fabCharge : Nat := 0
  tvec : Dword := 0
  abft : Abft := {}
  abftFixed : Word := 0
  hintdrop : Word := 0
  ls : Map Byte := []
  lsPoison : Map Bool := []
  /-- Words of local store with a storage error that no read has met, and whether it is uncorrectable (07 R207). -/
  lsErr : Map Bool := []
  tiles : Map Tile := []
  ferries : Map Ferry := []
  units : Map Thread := []
  halos : Map Halo := []
  pushes : List Push := []
  nextPush : Nat := 0
  /-- Hints whose walks wait for lines of the tables (09 R260). -/
  hints : List Hint := []
  /-- Since when it waits as a resident or saved context, and when it was last active. -/
  since : Nat := 0
  lastUsed : Nat := 0
  /-- Pre-empted for its class's budget; to be streamed out; being released (06 R167, R171; 05 R144). -/
  preempted : Bool := false
  leaving : Bool := false
  releasing : Bool := false
  deriving DecidableEq, Repr

/-! ## Cores -/

/-- The states of a landing-table entry (11 R280). -/
inductive LState where
  | free | live | spent | reclaimed
  deriving DecidableEq, Repr

/-- An entry of a landing table (11 R280). -/
structure LEntry where
  state : LState := .free
  ctx : Nat := 0
  unit : Nat := 0
  lane : Nat := 0
  reg : Nat := 0
  width : Nat := 0
  nonce : Word := 0
  cls : Nat := 0
  deadline : Nat := 0
  expected : Option Nat := none
  /-- One more than the cycle in which it was reclaimed (11 R293: a store of that cycle wins). -/
  ended : Nat := 0
  deriving DecidableEq, Repr

/-- An access counter of a core's remote unit (09 R251). -/
structure AccCount where
  asid : Nat
  va : Nat
  size : Nat
  count : Nat
  home : Nat
  deriving DecidableEq, Repr

/-- A core (07, Core resources). -/
structure CoreSt where
  lc : Stamp := 0
  /-- The active context. -/
  active : Option Nat := none
  nonce : Option Word := none
  landing : Map LEntry := []
  tlb : List Xlat := []
  counters : List AccCount := []
  /-- The cox command that the engine executes: context and unit. -/
  engine : Option (Nat × Nat) := none
  /-- Since when the active context has had no work that is ready (06 R169). -/
  idleSince : Option Nat := none
  /-- Issue turns that its pipes have begun (06 R176). -/
  turns : Nat := 0
  deriving DecidableEq, Repr

/-- A MILL in a stack's mill (12 R317 to R319). -/
structure MillJob where
  ctx : Nat
  unit : Nat
  core : Nat
  /-- The ferry whose cox issued it: span and index. -/
  span : Nat
  index : Nat
  asid : Nat
  cls : Nat
  desc : List Byte
  x : List Byte
  word : Word
  off : Word
  /-- The earliest cycle at which it is over. -/
  due : Nat
  /-- 0 it runs, 1 its result is on its way, 2 the result has been delivered, 3 its delivery failed. -/
  phase : Nat := 0
  deriving DecidableEq, Repr

/-! ## Coherence -/

/-- Package states of a line (04 R94). -/
inductive PkgSt where
  | i | s | e | m | o
  deriving DecidableEq, Repr

/-- Where a storage error stands (01 R17; 07 R207): a line of HBM, an L2 or L1 line by its key, or the registers of
a unit. -/
inductive ErrPlace where
  | hbm (line : Nat)
  | l2 (key : Nat)
  | l1 (key : Nat)
  | regs (ctx unit : Nat)
  deriving DecidableEq, Repr

/-- A forward that is pending at a home (04 R108). -/
structure Fwd where
  own : Bool
  recalls : Bool
  req : Party
  toHome : Bool
  deriving DecidableEq, Repr

/-- What the home die keeps for a line (04 R94, R98, R101, R108). -/
structure HomeLine where
  st : PkgSt := .i
  owner : Party := .die 0
  wts : Stamp := 0
  rts : Stamp := 0
  /-- When the last lease was granted: its cycle plus one; 0 for never (04 R101). -/
  lastGrant : Nat := 0
  fwd : Option Fwd := none
  /-- The request that the home serves, and those that it holds in order of arrival. -/
  turn : Option Ev := none
  held : List Ev := []
  /-- Data that an owner has returned to the home for the request it serves, with the poison flag. -/
  got : Option (List Byte × Bool) := none
  /-- Least recent use, for owner-table eviction (04 R95). -/
  used : Nat := 0
  deriving DecidableEq, Repr

/-- A line in a die's L2 (04 R96, R98). -/
structure L2Line where
  st : PkgSt
  wts : Stamp
  rts : Stamp
  data : List Byte
  poison : Bool
  lastGrant : Nat := 0
  /-- The count of coherence events when it was installed. -/
  got : Nat := 0
  /-- Least recent use, for the eviction from the L2 (04 R98). -/
  used : Nat := 0
  deriving DecidableEq, Repr

/-- A leased copy in an L1 (04 R98). -/
structure L1Line where
  wts : Stamp
  rts : Stamp
  data : List Byte
  poison : Bool
  ctx : Nat
  deriving DecidableEq, Repr

/-- States of a snoop-filter entry (03 R69). -/
inductive FiltSt where
  | i | s | o | m
  deriving DecidableEq, Repr

/-- A snoop-filter entry with what is in progress on its line (03 R66, R69, R70). -/
structure FiltEntry where
  st : FiltSt := .i
  owner : Nat := 0
  pend : Bool := false
  host : BitVec 2 := 0
  hown : Bool := false
  vec : BitVec 64 := 0
  way : Nat := 0
  used : Nat := 0
  /-- Endpoints of other cells and host ports whose answers are awaited. -/
  awaitEps : List Nat := []
  awaitHosts : List Nat := []
  /-- The answers awaited hold back only other cells (10 R265): a store of the home's cell went on without them. -/
  soft : Bool := false
  /-- The endpoint whose grant is pending, and whether Data-M has left for it (03 R66, R80). -/
  grantee : Nat := 0
  dataSent : Bool := false
  evicting : Bool := false
  /-- In O: an owner's data has been written to memory since it was last granted ownership. -/
  fresh : Bool := false
  /-- Sharers still to be asked by the recovery engine. -/
  recovering : List Nat := []
  /-- The owner that a grant is forwarded from, and that its requester has been lost meanwhile (03 R80). -/
  prev : Nat := 0
  orphan : Bool := false
  deriving DecidableEq, Repr

/-- A replica collapse in progress (04 R111). -/
structure Collapse where
  /-- The first 8 KiB page of the home copy, and the index of its map entry. -/
  page : Nat
  idx : Nat
  /-- The replicas have been dropped: the held writes perform in order of arrival. -/
  swept : Bool := false
  deriving DecidableEq, Repr

/-- A write that a replicated page holds (04 R111): an access of a unit, a request at its home, a copy of a carter, or the
completion of a span. -/
inductive RepWrite where
  | access (r : AccRef)
  | request (line : Nat) (e : Ev)
  | copy (ctx unit copy : Nat)
  | span (id : Nat)
  deriving DecidableEq, Repr

/-! ## Fabric -/

/-- A wavelength plan (02 R36, R37): peers by 16 * port + index; an unlisted entry is dark. -/
structure Plan where
  id : Nat
  tx : Map Nat
  rx : Map Nat
  deriving DecidableEq, Repr

/-- One stream of a session (02 R42, R43). -/
structure Stream where
  nextSeq : Nat := 0
  /-- Packets not yet acknowledged, with the plane each was last sent on. -/
  unacked : List (Nat × Packet) := []
  /-- Messages that wait at the port, with the context charged. -/
  waiting : List (Option Nat × Msg) := []
  rxBase : Nat := 0
  rxSeen : List Nat := []
  rxSinceAck : Nat := 0
  deriving DecidableEq, Repr

/-- A live session with a peer (02 R46 to R53). -/
structure Session where
  tag : Nat
  /-- The cell recorded at set-up, or accepted later (03 R59). -/
  cell : Nat
  leaving : Bool := false
  kslot : Bool := false
  /-- The receiver has not yet seen a packet under the key that was installed last (02 R49). -/
  installed : Bool := false
  pctr0 : Nat := 0
  pctr1 : Nat := 0
  /-- The salts of the two key slots, for sending and for receiving (02 R46, R48). -/
  txSalt0 : BitVec 32 := 0
  txSalt1 : BitVec 32 := 0
  rxSalt0 : BitVec 32 := 0
  rxSalt1 : BitVec 32 := 0
  /-- The highest PCTR received under the slot in use (02 R49). -/
  rxTop : Nat := 0
  /-- Keys that each slot has held: the model's own count, which names the key. -/
  gen0 : Nat := 1
  gen1 : Nat := 0
  /-- The counter of the heartbeat key: from 0 when the session becomes live, without an end (notes/assumptions/127.md). -/
  hbCtr : Nat := 0
  rxOld : Bool := false
  /-- When the old slot is retired. -/
  oldTill : Nat := 0
  rxSlot : Bool := false
  halted : Bool := false
  rot : Bool := false
  streams : Map Stream := []
  heard : Nat := 0
  hbPlane : Nat := 0
  /-- A heartbeat with the departure flag has been sent to the peer (03 R88). -/
  flagged : Bool := false
  deriving DecidableEq, Repr

/-! ## Host, trust and service -/

/-- A host port (05 R122, R123). -/
structure HostPort where
  up : Bool := false
  width : Nat := 0
  rate : Nat := 0
  cxl : Bool := false
  /-- The keys of the two Selective IDE streams, which the root of trust has set up with the host (05 R122). -/
  ideOut : Option (BitVec 256) := none
  ideIn : Option (BitVec 256) := none
  deriving DecidableEq, Repr

/-- An extent (05 R125): STATE 0 free, 1 granted, 2 revoking. -/
structure Extent where
  base : Dword := 0
  hoff : Dword := 0
  size : Word := 0
  state : Nat := 0
  result : Nat := 0
  /-- EXT_CTL.WRITE, and what it was at GRANT. -/
  write : Bool := false
  canWrite : Bool := false
  deriving DecidableEq, Repr

/-- The counters of a command window (05 R126, R130). -/
structure Window where
  refused : Nat := 0
  err : Nat := 0
  done : Dword := 0
  /-- Bindings so far: a span counts only for the binding it came through. -/
  binding : Nat := 0
  deriving DecidableEq, Repr

/-- An entry of the audit log (05 R140), with PREV. -/
structure AuditEntry where
  seq : Nat
  time : Nat
  ty : Nat
  source : Nat
  payload : List Byte
  prev : Digest
  deriving DecidableEq, Repr

/-- Phases of the boot (05 R136). -/
inductive Boot where
  /-- Package reset; the ROM has not run. -/
  | rom
  /-- The first stage was refused. -/
  | refused
  /-- Step 2: the first stage runs. -/
  | firstStage
  /-- Step 3: the port that is tried and the failed attempts on it. -/
  | fetching (port tries : Nat)
  /-- Step 5: the supervisor has started and has not extended MR3. -/
  | supervisor
  /-- Step 6. -/
  | running
  deriving DecidableEq, Repr

/-- An update of the supervisor's firmware (05 R145). -/
inductive Update where
  | idle
  /-- Step 1: the port that is tried and the failed attempts on it. -/
  | fetching (port tries : Nat)
  /-- Step 3: the supervisor core that is replaced next, and whether it is out of service. -/
  | replacing (core : Nat) (out : Bool)
  deriving DecidableEq, Repr

/-! ## Scheduling -/

/-- A span in progress (06 R173). -/
structure Span where
  ticket : List Byte
  asid : Nat
  queue : Nat
  source : Nat
  /-- The command window and its binding, when it came through one. -/
  window : Option (Nat × Nat)
  entryPa : Nat
  total : Nat
  launched : Nat := 0
  exited : Nat := 0
  abandoned : Bool := false
  done : Bool := false
  /-- Standing arrivals of its ferries (07 R195). -/
  standing : List HArrival := []
  /-- Cores on which its ferries were launched. -/
  cores : List Nat := []
  /-- Lines that its completion has asked for. -/
  asks : List (Nat × Nat) := []
  deriving DecidableEq, Repr

/-- What the distributor keeps for a queue beside its registers. -/
structure QueueSt where
  /-- The span of the head ticket once it has begun. -/
  head : Option Nat := none
  since : Nat := 0
  fallback : Bool := false
  /-- Windows of entries in the ring that came through one, by ring index. -/
  wins : Map (Nat × Nat) := []
  conts : List (List Byte × Nat × Nat) := []
  /-- The context that is streamed out to make room for the head ticket (06 R171). -/
  victim : Option Nat := none
  deriving DecidableEq, Repr

/-- A hierarchical barrier instance that is open (07 R193 to R196). -/
structure HInst where
  key : HArrival
  count : Nat
  arrived : List HArrival
  deriving DecidableEq, Repr

/-- A translation sweep in progress (09 R246, R247). -/
structure Sweep where
  id : Nat
  scope : Nat
  size : Nat
  target : Nat
  va : Nat
  /-- Started by a write of XLAT_INV_CTL. -/
  reg : Bool
  /-- Accesses in flight when it started, and open copy segments: context, unit, copy, first element (09 R247). -/
  waits : List AccRef := []
  segs : List (Nat × Nat × Nat × Nat) := []
  deriving DecidableEq, Repr

/-- A publish in progress (20 R467). -/
structure Publ where
  wid : Nat
  ctx : Nat
  unit : Nat
  name : Dword
  word : Word
  /-- Copies into the shadow that it waits for: context, unit, copy. -/
  waits : List (Nat × Nat × Nat)
  failed : Bool := false
  /-- The switch has been made and the sweep runs. -/
  switched : Bool := false
  deriving DecidableEq, Repr

/-! ## The offset that is being issued -/

/-- A fault of some lanes of the offset (08 R220). -/
structure LaneFault where
  cause : Cause
  /-- DETAIL and XCODE of R326. -/
  detail : Nat
  xcode : Nat
  plane : Nat
  word : Word
  lanes : Mask
  addr : Dword
  /-- It goes to the supervisor, held (translation) or halting. -/
  sup : Bool := false
  held : Bool := false
  /-- The fault of a store to local store, which resumes after the word (07 R201). -/
  after : Bool := false
  deriving DecidableEq, Repr

/-- The word that is being executed, and what the offset has done so far (08 R213, R214, R220). -/
structure Cur where
  ctx : Nat := 0
  unit : Nat := 0
  /-- true for S1. -/
  slot : Bool := false
  off : Word := 0
  /-- The slot's lanes in the planes that hold this word. -/
  lanes : Mask := 0
  word : Word := 0
  /-- The lowest of those planes. -/
  plane : Nat := 0
  /-- No further distinct word of this offset follows. -/
  lastWord : Bool := true
  /-- Nothing that the offset's words wait for is left: each of them issues once (08 R213). -/
  admitted : Bool := false
  /-- Results that enter q0, by lane, and whether a word produced one. -/
  result : Map Dword := []
  produced : Bool := false
  /-- A latch was read, or a word without a result stands here (14 R347). -/
  faults : List LaneFault := []
  /-- Registers that the offset's words read and write, and whether one of them reads a latch (14 R347). -/
  reads : List Nat := []
  writes : List Nat := []
  latch : Bool := false
  /-- A word that must be the last of its chain stands here (08 R225). -/
  ends : Bool := false
  /-- Plane changes that take effect from the next offset (08 R212). -/
  planes : Map Nat := []
  /-- The next offset when a word sets it; none advances by 4. -/
  goto : Option Word := none
  /-- The slot stays at this offset (a hold or a wait). -/
  stay : Bool := false
  deriving DecidableEq, Repr

/-- Why the machine stops with no next state. No step of this model raises it: every exception of the D9 is an
entry, a hold or a halt of R321 to R330, which is a next state. -/
inductive Fault where
  /-- Raised by no step. Safe: nothing follows from it. -/
  | notRaised
  deriving DecidableEq, Repr

/-- Why an instruction has no meaning. -/
inductive Refusal where
  /-- Raised by an arm of exec whose instruction has no meaning yet; none is left. Safe: it proves nothing. -/
  | notModelled (mnemonic : String)
  deriving DecidableEq, Repr

/-! ## The machine -/

/-- One D9 package. -/
structure State where
  now : Nat := 0
  /-- The cycle of the last package reset. -/
  resetAt : Nat := 0
  free : Nat := 0
  agenda : List Choice := []
  pending : List Timed := []
  out : List Out := []
  stopped : Bool := false
  cur : Cur := {}
  -- registers of the control space of X0, by offset, where they differ from their reset value
  ctl : Map Dword := []
  timeLatch : Word := 0
  /-- Storage errors that no read has met yet, and whether each is uncorrectable (01 R17; 07 R207). -/
  errs : List (ErrPlace × Bool) := []
  /-- Throttling (01 R23, R24): 0 none, 1 MMA, MMAS and MILL commands are withheld, 2 vector issue too. -/
  throttle : Nat := 0
  -- memory and coherence
  mem : List Host.Cell := []
  poison : Map Bool := []
  home : Map HomeLine := []
  l2 : Map L2Line := []
  wb : Map L2Line := []
  l1 : Map L1Line := []
  mts : Map Stamp := []
  filt : Map FiltEntry := []
  /-- Count of coherence events: requests for lines and their arrivals (the model's own). -/
  cohSeq : Nat := 0
  /-- Requests for lines that are not answered yet: the count at which each was made, by die, line and ownership. -/
  asks : Map Nat := []
  /-- Cores whose stores a line holds that memory does not have yet, by line (10 R268 X). -/
  writers : Map (List Nat) := []
  /-- Writes of the hardware's own tables and records that wait for their lines, in order: address and bytes. -/
  hwPend : List (Nat × List Byte) := []
  /-- Requests for a line that ended with a cause, by line: the cause, and the count of coherence events at which it came
  (02 R54; 03 R57, R74). -/
  refusals : Map (Cause × Nat) := []
  fwCache : Map Dword := []
  /-- Lost cells that the recovery engine's sweep handles, and those for which a further sweep is queued (03 R81). -/
  sweepCells : List Nat := []
  queuedCells : List Nat := []
  /-- The page of a recall in progress (03 R72). -/
  recallPage : Option Nat := none
  collapses : List Collapse := []
  /-- Writes that replicated pages hold, by map index, in order of arrival (04 R111). -/
  repHeld : List (Nat × RepWrite) := []
  /-- Collapses that wait for one of the engine's four places, in order of arrival (04 R111). -/
  repQueue : List Nat := []
  /-- Requests that wait for a way of a snoop-filter set: their lines, in order of arrival (03 R70). -/
  setWait : List Nat := []
  /-- A write of SF_CFG has not completed (03 R71). -/
  sfBusy : Bool := false
  /-- Pages that the replica machinery matches writes against: the map index of each (09 R255, 04 R111). -/
  reps : Map Nat := []
  arming : Option (Nat × Bool) := none
  oldLease : Option Nat := none
  -- fabric
  planActive : Plan
  planPending : Option Plan := none
  armed : Option Nat := none
  /-- The plan that transmitters, and receivers once they have moved, retune to (02 R39). -/
  switching : Option Plan := none
  rxMoved : Bool := false
  sess : Map Session := []
  /-- By 16 * peer + port, the flit time at which the channel has sent the flits queued on it (02 R43). -/
  chanQ : Map Nat := []
  /-- PSEQ of stream 6, by peer (02 R42). -/
  spdmSeq : Map Nat := []
  /-- The fabric time at which the next budget period begins (02 R52). -/
  budgetAt : Nat := 39063
  /-- The cell last recorded for a peer, kept when its session ends (03 R59, R60). -/
  peerCell : Map Nat := []
  /-- Peers whose planned departure has completed (03 R59, R89). -/
  departed : List Nat := []
  /-- Retired tags and when each was retired (02 R47). -/
  tags : List (Nat × Nat) := []
  /-- Tags proposed to peers in session set-ups. -/
  setups : Map Nat := []
  /-- Channels removed at this sender, and at this receiver, by peer and plane (02 R44). -/
  removed : List (Nat × Nat) := []
  removedRx : List (Nat × Nat) := []
  fabAdj : Int := 0
  txns : Map AccRef := []
  /-- Landing stores on their way to peers: name and storer, by transaction. -/
  landTxns : Map (Dword × LandFrom) := []
  nextTxn : Nat := 0
  -- host attachment
  ports : Map HostPort := []
  extents : Map Extent := []
  windows : Map Window := []
  /-- Host writes that have not performed: port and line (05 R129). -/
  hostWait : List (Nat × Nat) := []
  -- root of trust, boot and service
  boot : Boot := .rom
  supRunning : List Nat := []
  /-- Where they have started in their image: the offset of ENTRY in its file (05 R136). -/
  supEntry : Nat := 0
  image : List Byte := []
  /-- A firmware update in progress, and the supervisor cores that still run the image before it (05 R145). -/
  update : Update := .idle
  supOld : List Nat := []
  mrs : Map Digest := []
  audit : List AuditEntry := []
  auditNext : Nat := 0
  auditReleased : Nat := 0
  auditExported : Option Nat := none
  auditDropped : Nat := 0
  auditLost : Nat := 0
  audIn : List Byte := []
  audNonce : BitVec 256 := 0
  extData : Digest := 0
  inletHot : Bool := false
  linkRuns : Map Nat := []
  /-- Compute dies that the supervisor has still to fence for a link that is down (01 R16). -/
  fences : List Nat := []
  /-- Since when no access to the stack that drains has been in progress (05 R148). -/
  stkQuiet : Nat := 0
  /-- Stacks that are being recalibrated (05 R148). -/
  recal : Map Bool := []
  /-- Banks withheld from allocation after a scrub failure, as 4 × core + bank, and the context that CTX_REL releases
  (05 R144). -/
  withheld : List Nat := []
  relReg : Option Nat := none
  -- scheduling
  queues : Map QueueSt := []
  spans : Map Span := []
  nextSpan : Nat := 0
  rr : Map Nat := []
  charge : Map Nat := []
  -- cores and contexts
  cores : Map CoreSt := []
  ctxs : Map Ctx := []
  mills : Map (List MillJob) := []
  hbars : List HInst := []
  /-- Standing arrivals that this endpoint combines (07 R195). -/
  hstand : List HArrival := []
  /-- Engines that wait for an instance that this endpoint combines (07 R194). -/
  hwait : List HArrival := []
  /-- Arrivals and waits of this package's ferries at another endpoint's barriers. -/
  hsent : List HArrival := []
  /-- The walk caches of the dies (09 R241). -/
  walkCache : List WalkEntry := []
  /-- Lines that walks have asked for, by die and line: the count at which each was asked for (09 R240). -/
  walkAsks : Map Nat := []
  sweeps : List Sweep := []
  nextSweep : Nat := 0
  publs : List Publ := []
  /-- Windows in the state 'open, a copy suspended after a fault' (09 R258). -/
  winFaulted : List Nat := []
  /-- The latest write time in a window's shadow, by window (09 R259). -/
  winTime : Map Stamp := []
  ringRetry : Map (List (List Byte)) := []
  deriving DecidableEq, Repr

/-- The default plan of 02 R36: toward each peer, the two planes that the offset names. The k-th peer of a plane
takes its k-th transmitter and receiver. -/
def Plan.default (self : Nat) : Plan :=
  let entries (f : Nat → Nat) : Map Nat :=
    (List.range 16).flatMap fun n =>
      let ps := (List.range 127).filterMap fun k =>
        let d := k + 1
        if d % 16 = n ∨ (d + 8) % 16 = n then some (f d) else none
      ps.zipIdx.map fun x => (16 * n + x.2, x.1)
  { id := 0
    tx := entries fun d => (self + d) % 128
    rx := entries fun e => (self + 128 - e) % 128 }

/-- The machine right after package reset: every register at the value the spec gives, every other field empty. -/
def State.reset : State := { planActive := Plan.default 0 }

end Sys2Proof.Machine
end

