-- ==== Sys2Proof/Machine/Maps.lean ====
section
/-! DEFINITION. Operations over sparse maps, sets of lanes, bytes and bit fields. -/

namespace Sys2Proof.Machine

/-- The value at a key. -/
def mget? {V : Type} : Map V → Nat → Option V
  | [], _ => none
  | (k, v) :: t, q => if k = q then some v else mget? t q

/-- The value at a key, or a default. -/
def mgetD {V : Type} (m : Map V) (q : Nat) (d : V) : V := (mget? m q).getD d

/-- Put a value at a key, keeping the keys rising. -/
def mset {V : Type} : Map V → Nat → V → Map V
  | [], q, x => [(q, x)]
  | (k, v) :: t, q, x =>
    if k = q then (q, x) :: t
    else if q < k then (q, x) :: (k, v) :: t
    else (k, v) :: mset t q x

/-- Take a key out. -/
def mdel {V : Type} (m : Map V) (q : Nat) : Map V := m.filter fun e => decide (e.1 ≠ q)

/-- Put a value at a key of a map whose unlisted keys hold d: the default is never listed. -/
def mput {V : Type} [DecidableEq V] (m : Map V) (d : V) (q : Nat) (x : V) : Map V :=
  if x = d then mdel m q else mset m q x

/-- The keys rise strictly. -/
def Map.sorted {V : Type} (m : Map V) : Bool := decide ((m.map Prod.fst).Pairwise (· < ·))

/-! ## Lanes -/

/-- The lanes of a mask, ascending. -/
def lanesOf (m : Mask) : List Nat := (List.range 32).filter fun l => m.getLsbD l

/-- The mask of a list of lanes. -/
def maskOf (l : List Nat) : Mask := l.foldl (fun m x => m ||| BitVec.ofNat 32 (2 ^ x)) 0

/-- The mask of one lane. -/
def laneBit (l : Nat) : Mask := BitVec.ofNat 32 (2 ^ l)

/-- The lowest lane of a mask, or 0. -/
def lowestLane (m : Mask) : Nat := (lanesOf m).headD 0

/-! ## Bits and bytes -/

/-- Bits [lo + w - 1 : lo] of a number. -/
def bitsN (x lo w : Nat) : Nat := x / 2 ^ lo % 2 ^ w

/-- One bit of a number. -/
def bitN (x i : Nat) : Bool := x / 2 ^ i % 2 = 1

/-- The number of a list of bytes, little-endian (00 R3). -/
def leNat : List Byte → Nat
  | [] => 0
  | b :: t => b.toNat + 256 * leNat t

/-- The n low bytes of a number, little-endian (00 R3). -/
def leBytes : Nat → Nat → List Byte
  | 0, _ => []
  | n + 1, x => BitVec.ofNat 8 x :: leBytes n (x / 256)

/-- n bytes of a list from an offset; bytes beyond the list read 0. -/
def sliceB (l : List Byte) (off n : Nat) : List Byte := (List.range n).map fun i => l.getD (off + i) 0

/-- A little-endian field of a byte image. -/
def fieldB (l : List Byte) (off n : Nat) : Nat := leNat (sliceB l off n)

/-- Replace bytes of a list from an offset. -/
def patchB (l : List Byte) (off : Nat) (d : List Byte) : List Byte :=
  l.zipIdx.map fun x => if off ≤ x.2 ∧ x.2 < off + d.length then d.getD (x.2 - off) 0 else x.1

/-- Every byte is 0. -/
def allZeroB (l : List Byte) : Bool := l.all fun b => decide (b = 0)

/-- Sign-extend the low w bits of a number. -/
def sextN (x w : Nat) : Int := if 2 * (x % 2 ^ w) < 2 ^ w then (x % 2 ^ w : Nat) else (x % 2 ^ w : Nat) - (2 ^ w : Nat)

/-- An integer modulo 2^w. -/
def wrapN (x : Int) (w : Nat) : Nat := (x % (2 ^ w : Nat)).toNat

/-- Insert into a list that holds no value twice. -/
def addOnce {A : Type} [DecidableEq A] (l : List A) (x : A) : List A := if x ∈ l then l else l ++ [x]

end Sys2Proof.Machine
end

