-- ==== Sys2Proof/Machine/Number.lean ====
section
/-! DEFINITION. Number formats and arithmetic (15): types, exact values, the one rounding, conversions. -/

namespace Sys2Proof.Machine

/-! ## Types (14 R350) -/

/-- The size of a type in bytes; reserved codes count 1. -/
def tySize (ty : Nat) : Nat :=
  if ty < 8 then 2 ^ (ty % 4)
  else if ty < 10 then 2 else if ty = 10 then 4 else if ty = 11 then 8 else 1

/-- The width of a type in bits. -/
def tyBits (ty : Nat) : Nat := 8 * tySize ty

/-- i8 to n64. -/
def isInt (ty : Nat) : Bool := decide (ty < 8)
/-- i8 to i64. -/
def isSigned (ty : Nat) : Bool := decide (ty < 4)
/-- f16, bf16, f32, f64. -/
def isIeee (ty : Nat) : Bool := decide (8 ≤ ty) && decide (ty < 12)
/-- The binary8pP family. -/
def isB8 (ty : Nat) : Bool := decide (12 ≤ ty) && decide (ty < 26)
/-- b8p1n to b8p7n. -/
def isB8n (ty : Nat) : Bool := decide (19 ≤ ty) && decide (ty < 26)
/-- F and B together (18 R417). -/
def isFB (ty : Nat) : Bool := decide (8 ≤ ty) && decide (ty < 26)
/-- A type of 64 bits. -/
def isWide (ty : Nat) : Bool := decide (ty = 3) || decide (ty = 7) || decide (ty = 11)

/-! ## Integers (15 R358) -/

/-- The integer that w bits hold, signed or not. -/
def intOf (signed : Bool) (w x : Nat) : Int := if signed then sextN x w else (x % 2 ^ w : Nat)

/-- The least and the greatest value of an integer type. -/
def intMin (signed : Bool) (w : Nat) : Int := if signed then -(2 ^ (w - 1) : Nat) else 0
/-- See intMin. -/
def intMax (signed : Bool) (w : Nat) : Int := if signed then (2 ^ (w - 1) : Nat) - 1 else (2 ^ w : Nat) - 1

/-- Clamp to a range. -/
def clampI (lo hi x : Int) : Int := max lo (min hi x)

/-- Fit(x): wrap modulo 2^w, or clamp under SAT (17 R399, 15 R358). The answer is a bit pattern. -/
def fitInt (sat signed : Bool) (w : Nat) (x : Int) : Nat :=
  wrapN (if sat then clampI (intMin signed w) (intMax signed w) x else x) w

/-! ## Exact values -/

/-- A value: NaN, an infinity, or (-1)^neg * m * 2^e. -/
inductive Num where
  | nan (signalling : Bool)
  | inf (neg : Bool)
  | fin (neg : Bool) (m : Nat) (e : Int)
  deriving DecidableEq, Repr

/-- Sticky flags by the bits of 15 R374: TI 5, NV 4, DZ 3, OF 2, UF 1, NX 0. -/
abbrev Flags := BitVec 6

/-- See Flags. -/
def fTI : Flags := 32
/-- See Flags. -/
def fNV : Flags := 16
/-- See Flags. -/
def fDZ : Flags := 8
/-- See Flags. -/
def fOF : Flags := 4
/-- See Flags. -/
def fUF : Flags := 2
/-- See Flags. -/
def fNX : Flags := 1

/-- The value of an integer. -/
def Num.ofInt (x : Int) : Num := .fin (decide (x < 0)) x.natAbs 0

/-- The parameters of a floating format. -/
structure Fmt where
  /-- Precision, the implicit bit included. -/
  p : Nat
  /-- Exponent of the least subnormal. -/
  umin : Int
  /-- Magnitude code of the largest finite value. -/
  maxCode : Nat
  deriving DecidableEq, Repr

/-- The formats of 15 R360, R363, R364 and R365. -/
def fmtOf (ty : Nat) (inf : Bool) : Fmt :=
  if ty = 8 then ⟨11, -24, 0x7BFF⟩
  else if ty = 9 then ⟨8, -133, 0x7F7F⟩
  else if ty = 10 then ⟨24, -149, 0x7F7FFFFF⟩
  else if ty = 11 then ⟨53, -1074, 0x7FEFFFFFFFFFFFFF⟩
  else if ty < 19 then
    let p := ty - 11
    ⟨p, 1 - (2 ^ (7 - p) : Nat) - (p - 1 : Nat), if inf then 0x7E else 0x7F⟩
  else
    let p := ty - 18
    ⟨p, 1 - (2 ^ (8 - p) : Nat) - (p - 1 : Nat), if inf then 0xFD else 0xFE⟩

/-- The value of a magnitude code: E = 0 is subnormal, E ≥ 1 normal (15 R360, R363). -/
def magVal (f : Fmt) (neg : Bool) (code : Nat) : Num :=
  let t := 2 ^ (f.p - 1)
  let e := code / t
  if e = 0 then .fin neg (code % t) f.umin else .fin neg (t + code % t) (f.umin + (e - 1 : Nat))

/-- A subnormal magnitude code that is not 0. -/
def isSubCode (f : Fmt) (code : Nat) : Bool := decide (0 < code) && decide (code < 2 ^ (f.p - 1))

/-- The value of bits at a floating, binary8pP, e8m0 or integer type; FTZ acts on F types only (15 R361). -/
def valOf (ty : Nat) (inf ftz : Bool) (x : Nat) : Num :=
  let f := fmtOf ty inf
  if isInt ty then .ofInt (intOf (isSigned ty) (tyBits ty) x)
  else if isIeee ty then
    let w := tyBits ty
    let code := x % 2 ^ (w - 1)
    let neg := bitN x (w - 1)
    let expo := code / 2 ^ (f.p - 1)
    let top := (f.maxCode + 1) / 2 ^ (f.p - 1)
    if expo = top then
      let t := code % 2 ^ (f.p - 1)
      if t = 0 then .inf neg else .nan (!bitN x (f.p - 2))
    else if ftz && isSubCode f code then .fin neg 0 0
    else magVal f neg code
  else if isB8n ty then
    let c := x % 256
    if c = 0xFF then .nan false
    else if c = 0xFE && inf then .inf false
    else magVal f false c
  else if isB8 ty then
    let c := x % 256
    if c = 0x80 then .nan false
    else if c % 128 = 0x7F && inf then .inf (bitN c 7)
    else magVal f (bitN c 7) (c % 128)
  else
    let c := x % 256
    if c = 0xFF then .nan false else .fin false 1 ((c : Int) - 127)

/-- The canonical NaN of a type (15 R360, R363, R364, R367). -/
def nanOf (ty : Nat) : Nat :=
  if ty = 8 then 0x7E00 else if ty = 9 then 0x7FC0 else if ty = 10 then 0x7FC00000
  else if ty = 11 then 0x7FF8000000000000
  else if isB8n ty then 0xFF else if isB8 ty then 0x80 else 0xFF

/-- The sign bit of a type in place. -/
def signBit (ty : Nat) (neg : Bool) : Nat := if neg then 2 ^ (tyBits ty - 1) else 0

/-- The bits of an infinity of a type that has one. -/
def infOf (ty : Nat) (inf neg : Bool) : Nat :=
  let f := fmtOf ty inf
  if isB8n ty then 0xFE else if isB8 ty then 0x7F + signBit ty neg else f.maxCode + 1 + signBit ty neg

/-! ## Rounding (15 R371, R372) -/

/-- What a rounding step works under. x is the generator's value for SR. -/
structure RCtx where
  rm : Nat
  sat : Bool
  inf : Bool
  ftz : Bool
  x : Nat
  deriving DecidableEq, Repr

/-- floor(log2 m) for m > 0. -/
def log2N (m : Nat) : Nat := Nat.log2 m

/-- Round m * 2^e to a multiple r of 2^u; odd says whether the code of floor is odd for the tie of RNE. -/
def roundAt (rm x : Nat) (neg : Bool) (m : Nat) (e u : Int) (oddFloor : Nat → Bool) : Nat × Bool :=
  if u ≤ e then (m * 2 ^ (e - u).toNat, false)
  else
    let sh := (u - e).toNat
    let q := m / 2 ^ sh
    let r := m % 2 ^ sh
    if r = 0 then (q, false)
    else
      let twice := 2 * r
      let up : Bool :=
        if rm = 0 then decide (twice > 2 ^ sh) || (decide (twice = 2 ^ sh) && oddFloor q)
        else if rm = 1 then false
        else if rm = 2 then neg
        else if rm = 3 then !neg
        else if rm = 4 then decide (twice ≥ 2 ^ sh)
        else decide (r * 2 ^ 32 / 2 ^ sh + x ≥ 2 ^ 32)
      (if up then q + 1 else q, true)

/-- What a rounding delivers: the bits and the exceptions. -/
structure Rounded where
  bits : Nat
  flags : Flags
  deriving DecidableEq, Repr

/-- What an overflow delivers, by the table of 15 R362 and under SAT; none stands for infinity. -/
def overflowTo (c : RCtx) (f : Fmt) (neg : Bool) : Option Nat :=
  if c.sat then some f.maxCode
  else if c.rm = 1 then some f.maxCode
  else if c.rm = 2 then (if neg then none else some f.maxCode)
  else if c.rm = 3 then (if neg then some f.maxCode else none)
  else none

/-- The exponent of the unit in the last place of m * 2^e, floored at the subnormal exponent. -/
def ulpOf (f : Fmt) (m : Nat) (e : Int) : Int := max (e + log2N m - (f.p - 1 : Nat)) f.umin

/-- Round a finite non-zero value into a floating or binary8pP type. -/
def roundFin (ty : Nat) (c : RCtx) (neg : Bool) (m : Nat) (e : Int) : Rounded :=
  let f := fmtOf ty c.inf
  let t := 2 ^ (f.p - 1)
  let u := ulpOf f m e
  let base := (u - f.umin).toNat * t
  let (r, inexact) := roundAt c.rm c.x neg m e u (fun q => decide ((base + q) % 2 = 1))
  let code := base + r
  let sgn := signBit ty neg
  let nx : Flags := if inexact then fNX else 0
  if code > f.maxCode then
    match overflowTo c f neg with
    | some k => ⟨k + sgn, fOF ||| fNX⟩
    | none =>
      if isB8 ty && !c.inf then ⟨nanOf ty, fOF ||| fNX⟩ else ⟨infOf ty c.inf neg, fOF ||| fNX⟩
  else if isIeee ty then
    if c.ftz && isSubCode f code then ⟨sgn, fUF ||| fNX⟩
    else
      -- tiny after rounding: the value rounded with an unbounded exponent lies below the least normal
      let top := e + log2N m
      let emin := f.umin + (f.p - 1 : Nat)
      let (r', _) := roundAt c.rm c.x neg m e (top - (f.p - 1 : Nat)) (fun q => decide (q % 2 = 1))
      let tiny := decide (top < emin) && !(decide (top = emin - 1) && decide (r' = 2 ^ f.p))
      ⟨code + sgn, nx ||| (if inexact && tiny then fUF else 0)⟩
  else
    if code = 0 then ⟨0, if inexact then fUF ||| fNX else 0⟩
    else ⟨code + sgn, nx ||| (if inexact && isSubCode f code then fUF else 0)⟩

/-- Round a value into e8m0 (15 R367). -/
def roundE8 (c : RCtx) (v : Num) : Rounded :=
  match v with
  | .fin false m e =>
    if m = 0 then ⟨0xFF, fNV⟩
    else
      let u := e + log2N m
      let (r, inexact) := roundAt c.rm c.x false m e u (fun _ => decide ((u + 127) % 2 = 1))
      let code : Int := u + 127 + (r - 1 : Nat)
      if code < 0 then ⟨0, fUF ||| fNX⟩
      else if code > 254 then ⟨if c.sat then 0xFE else 0xFF, fOF ||| fNX⟩
      else ⟨code.toNat, if inexact then fNX else 0⟩
  | _ => ⟨0xFF, fNV⟩

/-- A value into a floating, binary8pP or e8m0 type. opInf marks an infinity that comes from an infinite operand of an
arithmetic operation, which SAT leaves alone (15 R373). -/
def roundNum (ty : Nat) (c : RCtx) (v : Num) (opInf : Bool := false) : Rounded :=
  if ty = 27 then roundE8 c v
  else match v with
  | .nan s => ⟨nanOf ty, if s then fNV else 0⟩
  | .inf neg =>
    if isB8 ty then
      if isB8n ty && neg then (if c.sat then ⟨0, fNV⟩ else ⟨nanOf ty, fNV⟩)
      else if c.inf then
        if c.sat && !opInf then ⟨(fmtOf ty true).maxCode + signBit ty neg, fOF ||| fNX⟩
        else ⟨infOf ty true neg, 0⟩
      else if c.sat then ⟨(fmtOf ty false).maxCode + signBit ty neg, fOF ||| fNX⟩
      else ⟨nanOf ty, fNV⟩
    else ⟨infOf ty c.inf neg, 0⟩
  | .fin neg m e =>
    if m = 0 then ⟨if isIeee ty then signBit ty neg else 0, 0⟩
    else if isB8n ty && neg then (if c.sat then ⟨0, fNV⟩ else ⟨nanOf ty, fNV⟩)
    else roundFin ty c neg m e

/-- Round to an integer: the value and whether it differs. -/
def roundInt (rm x : Nat) (neg : Bool) (m : Nat) (e : Int) : Int × Bool :=
  let (r, inexact) := roundAt rm x neg m e 0 (fun q => decide (q % 2 = 1))
  (if neg then -(r : Int) else r, inexact)

/-- A value into an integer type (15 R359): clamps whatever SAT holds. -/
def toIntType (ty rm x : Nat) (v : Num) : Rounded :=
  let w := tyBits ty
  let lo := intMin (isSigned ty) w
  let hi := intMax (isSigned ty) w
  match v with
  | .nan _ => ⟨0, fNV⟩
  | .inf neg => ⟨wrapN (if neg then lo else hi) w, fNV⟩
  | .fin neg m e =>
    let (r, inexact) := roundInt rm x neg m e
    if r < lo then ⟨wrapN lo w, fNV⟩
    else if r > hi then ⟨wrapN hi w, fNV⟩
    else ⟨wrapN r w, if inexact then fNX else 0⟩

/-- A value into any type but tern (18 R429, R431). -/
def convert (ty : Nat) (c : RCtx) (v : Num) : Rounded :=
  if isInt ty then toIntType ty c.rm c.x v else roundNum ty c v

/-! ## Exact operations (18 R421, R422; 15 R361) -/

/-- Signalling NaN operands raise NV (15 R361). -/
def Num.snan : Num → Flags
  | .nan true => fNV
  | _ => 0

/-- A NaN. -/
def Num.isNan : Num → Bool
  | .nan _ => true
  | _ => false

/-- An infinity. -/
def Num.isInf : Num → Bool
  | .inf _ => true
  | _ => false

/-- The sign inverted. -/
def Num.negate : Num → Num
  | .nan s => .nan s
  | .inf n => .inf (!n)
  | .fin n m e => .fin (!n) m e

/-- A sum of integers scaled by 2^e as a value; an exact zero takes its sign from the rounding mode. -/
def Num.ofScaled (rm : Nat) (x e : Int) : Num :=
  if x = 0 then .fin (decide (rm = 2)) 0 0 else .fin (decide (x < 0)) x.natAbs e

/-- The integer that a finite value holds at scale 2^e, for e at or below its exponent. -/
def scaledTo (neg : Bool) (m : Nat) (ex e : Int) : Int :=
  let v : Int := m * 2 ^ (ex - e).toNat
  if neg then -v else v

/-- a + b exactly, with the exceptions of the operation. -/
def addNum (rm : Nat) (a b : Num) : Num × Flags :=
  match a, b with
  | .nan s, y => (.nan false, (Num.nan s).snan ||| y.snan)
  | x, .nan s => (.nan false, x.snan ||| (Num.nan s).snan)
  | .inf x, .inf y => if x = y then (.inf x, 0) else (.nan false, fNV)
  | .inf x, .fin _ _ _ => (.inf x, 0)
  | .fin _ _ _, .inf y => (.inf y, 0)
  | .fin n m e, .fin n' m' e' =>
    if m = 0 ∧ m' = 0 then (.fin (if n = n' then n else decide (rm = 2)) 0 0, 0)
    else
      let lo := min e e'
      (.ofScaled rm (scaledTo n m e lo + scaledTo n' m' e' lo) lo, 0)

/-- a * b exactly. -/
def mulNum (a b : Num) : Num × Flags :=
  match a, b with
  | .nan s, y => (.nan false, (Num.nan s).snan ||| y.snan)
  | x, .nan s => (.nan false, x.snan ||| (Num.nan s).snan)
  | .inf x, .inf y => (.inf (x != y), 0)
  | .inf x, .fin n m _ => if m = 0 then (.nan false, fNV) else (.inf (x != n), 0)
  | .fin n m _, .inf y => if m = 0 then (.nan false, fNV) else (.inf (n != y), 0)
  | .fin n m e, .fin n' m' e' => (.fin (n != n') (m * m') (e + e'), 0)

/-- m / m' to 200 bits and a sticky bit, exact where the division is. -/
def divMag (m : Nat) (e : Int) (m' : Nat) (e' : Int) : Nat × Int :=
  let sh := 200 + log2N m'
  let q := m * 2 ^ sh / m'
  let r := m * 2 ^ sh % m'
  (2 * q + (if r = 0 then 0 else 1), e - e' - sh - 1)

/-- a / b. -/
def divNum (a b : Num) : Num × Flags :=
  match a, b with
  | .nan s, y => (.nan false, (Num.nan s).snan ||| y.snan)
  | x, .nan s => (.nan false, x.snan ||| (Num.nan s).snan)
  | .inf _, .inf _ => (.nan false, fNV)
  | .inf x, .fin n _ _ => (.inf (x != n), 0)
  | .fin n _ _, .inf y => (.fin (n != y) 0 0, 0)
  | .fin n m e, .fin n' m' e' =>
    if m' = 0 then (if m = 0 then (.nan false, fNV) else (.inf (n != n'), fDZ))
    else if m = 0 then (.fin (n != n') 0 0, 0)
    else
      let (q, ex) := divMag m e m' e'
      (.fin (n != n') q ex, 0)

/-- floor of the square root, bit by bit from bit k downward. -/
def sqrtBits : Nat → Nat → Nat → Nat
  | 0, _, r => r
  | k + 1, x, r =>
    let t := r + 2 ^ k
    sqrtBits k x (if t * t ≤ x then t else r)

/-- floor of the square root. -/
def sqrtN (x : Nat) : Nat := sqrtBits (log2N x / 2 + 1) x 0

/-- The square root of m * 2^e to 150 bits and a sticky bit. -/
def sqrtMag (m : Nat) (e : Int) : Nat × Int :=
  let odd : Nat := if e % 2 = 1 then 1 else 0
  let x := m * 2 ^ (odd + 300)
  let q := sqrtN x
  (2 * q + (if q * q = x then 0 else 1), (e - odd - 300) / 2 - 1)

/-- √a. -/
def sqrtNum (a : Num) : Num × Flags :=
  match a with
  | .nan s => (.nan false, (Num.nan s).snan)
  | .inf n => if n then (.nan false, fNV) else (.inf false, 0)
  | .fin n m e =>
    if m = 0 then (.fin n 0 0, 0)
    else if n then (.nan false, fNV)
    else
      let (q, ex) := sqrtMag m e
      (.fin false q ex, 0)

/-- a * b + d, the product exact (18 R422). -/
def fmaNum (rm : Nat) (a b d : Num) : Num × Flags :=
  let (p, f) := mulNum a b
  let (r, f') := addNum rm p d
  (r, f ||| f' ||| a.snan ||| b.snan ||| d.snan)

/-- a < b, for values that are not NaN; -0 = +0. -/
def ltNum (a b : Num) : Bool :=
  match a, b with
  | .nan _, _ => false
  | _, .nan _ => false
  | .inf x, .inf y => x && !y
  | .inf x, .fin _ _ _ => x
  | .fin _ _ _, .inf y => !y
  | .fin n m e, .fin n' m' e' =>
    let lo := min e e'
    decide (scaledTo n m e lo < scaledTo n' m' e' lo)

/-- a = b, neither NaN; -0 = +0. -/
def eqNum (a b : Num) : Bool := !a.isNan && !b.isNan && !ltNum a b && !ltNum b a

/-- The sign of a value that is not NaN. -/
def Num.neg? : Num → Bool
  | .nan _ => false
  | .inf n => n
  | .fin n _ _ => n

/-! ## Trits (15 R368 to R370) -/

/-- Digit i of a tern byte; a reserved byte holds five zeros. -/
def tritOf (y i : Nat) : Nat := if y > 242 then 0 else y / 3 ^ i % 3

/-- The value of a trit code. -/
def tritVal (t : Nat) : Int := if t = 1 then 1 else if t = 2 then -1 else 0

/-- The trit of a value (15 R370). -/
def toTrit (rm x : Nat) (v : Num) : Nat × Flags :=
  match v with
  | .nan _ => (0, fNV)
  | .inf n => (if n then 2 else 1, 0)
  | .fin n m e =>
    let (r, inexact) := roundInt rm x n m e
    let c := clampI (-1) 1 r
    (if c = 1 then 1 else if c = -1 then 2 else 0, if inexact then fNX else 0)

/-! ## The generator (15 R372) -/

/-- One step of a generator. -/
def srStep (s : Word) : Word :=
  let x := s ^^^ (s <<< 13)
  let x := x ^^^ (x >>> 17)
  x ^^^ (x <<< 5)

end Sys2Proof.Machine
end

