-- ==== Sys2Proof/Machine/Regs.lean ====
section
/-! DEFINITION. The registers of the control space of X0, by offset: reset values and access codes (00 R4 to R7).
A register whose value other state holds (FAB_TIME, FAB_PEER, RTB_MR, AUD_LAST, CW_STAT and such) is no entry here:
readReg of Machine/Registers.lean reads it from there. -/

namespace Sys2Proof.Machine

/-- Reset value, width in bits, RW bits and W1C bits of a register. Other bits are RO, WO or reserved. -/
structure RegInfo where
  reset : Nat
  width : Nat
  rw : Nat
  w1c : Nat
  deriving DecidableEq, Repr

/-- A 32-bit register. -/
def reg32 (reset rw w1c : Nat) : Option RegInfo := some ⟨reset, 32, rw, w1c⟩
/-- A 64-bit register. -/
def reg64 (rw : Nat) : Option RegInfo := some ⟨0, 64, rw, 0⟩
/-- All 32 bits. -/
def ones32 : Nat := 0xFFFFFFFF
/-- All 64 bits. -/
def ones64 : Nat := 0xFFFFFFFFFFFFFFFF

/-- Offset lies in an array of n registers from base, stepping by step. -/
def inArray (off base n step : Nat) : Bool :=
  decide (base ≤ off) && decide (off < base + n * step) && decide ((off - base) % step = 0)

/-- Chapters 01 to 04 and 07. -/
def regInfoLow (off : Nat) : Option RegInfo :=
  if off = 0x0000 then reg32 0xD0090000 0 0                       -- PKG_ID, R27
  else if off = 0x0008 then reg32 0x100 0 0                       -- DIE_STATE, R28
  else if off = 0x0010 then reg32 0 0 0                           -- PWR_STATUS, R29
  else if off = 0x0018 then reg32 0xC80 0xFFF 0                   -- PWR_LIMIT, R30
  else if off = 0x0020 then reg32 0 0 0x7FFFF                     -- ERR_SEEN, R31
  else if inArray off 0x0040 8 4 then reg32 0 ones32 0            -- HBM_CE, R32
  else if inArray off 0x0060 11 4 then reg32 0 ones32 0           -- LINK_REPLAY, R32
  else if off = 0x0100 then reg32 0 0xFFFFFFC0 0                  -- FAB_PLAN_ADDR_LO, R40
  else if off = 0x0104 then reg32 0 0xFFFFF 0                     -- FAB_PLAN_ADDR_HI, R40
  else if off = 0x0108 then reg32 0 0 0                           -- FAB_PLAN_CTL, R40
  else if off = 0x0110 then reg32 0 ones32 0                      -- FAB_SWITCH_LO, R40
  else if off = 0x0114 then reg32 0 ones32 0                      -- FAB_SWITCH_HI, R40
  else if off = 0x0120 then reg32 0 0 0x780                       -- FAB_STAT, R40
  else if off = 0x0124 then reg32 0 ones32 0                      -- FAB_DROPS, R51
  else if off = 0x0200 then reg32 0 0x8000003F 0                  -- CELL_CFG, R61
  else if off = 0x0208 then reg32 0 0 ones32                      -- CELL_LOST_LO, R62
  else if off = 0x020C then reg32 0 0 ones32                      -- CELL_LOST_HI, R62
  else if off = 0x0210 then reg32 0 0 0                           -- RCV_STAT, R82
  else if off = 0x0214 then reg32 0 ones32 0                      -- RCV_POISONED, R82
  else if off = 0x0218 then reg32 0 ones32 0                      -- RCV_RECOVERED, R82
  else if off = 0x0220 then reg32 0x10 0x1F 0                     -- SF_CFG, R71
  else if off = 0x0228 then reg32 0 0xFFFFE000 0                  -- SF_RECALL_LO, R72
  else if off = 0x022C then reg32 0 0x1FFF 0                      -- SF_RECALL_HI, R72
  else if off = 0x0230 then reg32 0 0 0                           -- SF_RECALL_CTL, R72
  else if off = 0x0240 then reg32 0 0xFFFFE000 0                  -- FW_BASE_LO, R76
  else if off = 0x0244 then reg32 0 0x1FFF 0                      -- FW_BASE_HI, R76
  else if off = 0x0248 then reg32 0 1 0                           -- FW_CTL, R76
  else if off = 0x0250 then reg32 0x03E80000 0xFFFF0000 3         -- HOST_CLIENT, R92
  else if off = 0x0300 then reg32 8 0x3F 0                        -- COH_CFG, R105
  else if off = 0x0308 then reg32 0 0x7FFFFFFF 0                  -- RCE_STAT, R112
  else if off = 0x0310 then reg32 0 0 0                           -- RCE_LAST_LO, R112
  else if off = 0x0314 then reg32 0 0 0                           -- RCE_LAST_HI, R112
  else if inArray off 0x0330 4 4 then reg32 0 0xFFFFF 0x80000000  -- QUAD_FUSE, R205
  else if inArray off 0x0340 4 4 then reg32 0 ones32 0            -- DIE_CE, R208
  else none

/-- Chapter 05. -/
def regInfoMid (off : Nat) : Option RegInfo :=
  if off = 0x0600 then reg32 0 0x3F 0                             -- EXT_SEL, R125
  else if off = 0x0740 then reg32 0 0 0                           -- AUD_CTL, R141
  else if off = 0x0748 then reg64 ones64                          -- AUD_SEQ, R141
  else if off = 0x0750 then reg64 ones64                          -- AUD_ADDR, R141
  else if off = 0x09B0 then reg32 0 7 0                           -- RTB_EXT_CTL, R137
  else if off = 0x0A00 then reg32 0 0x7FF 0                       -- CTX_REL, R144
  else if off = 0x0A10 then reg32 0 3 0                           -- DRAIN_CTL, R146
  else if off = 0x0A18 then reg32 0 0x70 0                        -- STK_CTL, R148
  else if inArray off 0x0C00 128 8 then reg64 0xFFFFFFFFFF800001  -- CW_BIND, R127
  else none

/-- Chapters 06, 09, 11 and 13. -/
def regInfoHigh (off : Nat) : Option RegInfo :=
  if inArray off 0x1000 64 0x40 then reg64 0xFFFFFFFFFF000        -- Q_BASE, R153
  else if inArray off 0x1008 64 0x40 then some ⟨0x60000, 32, 0x801F0000, 0x40000000⟩  -- Q_CFG, R153
  else if inArray off 0x100C 64 0x40 then reg32 0 0 0             -- Q_PTR, R153
  else if inArray off 0x1018 64 0x40 then reg32 0 0xFFFF 0        -- Q_SASID, R153
  else if inArray off 0x1020 64 0x40 then reg64 0                 -- Q_ERRA, R153
  else if inArray off 0x2000 64 8 then reg32 0xFFFFFF 0xFFFFFF 0  -- BUD_LIMIT, R160
  else if inArray off 0x2004 64 8 then reg32 0 0 0                -- BUD_USED, R160
  else if off = 0x2200 then reg32 0x32 0xFFFF 0                   -- SCHED_CFG, R160
  else if off = 0x2208 then reg64 0xFFFFFFFE00000                 -- ASTAB_BASE, R160
  else if off = 0x2210 then reg64 0xFFFFFFFF00000                 -- CTX_SAVE_BASE, R160
  else if off = 0x2218 then reg32 0 0x1FFF 0                      -- CTX_SAVE_N, R160
  else if off = 0x2400 then reg64 ones64                          -- XLAT_INV_VA, R246
  else if off = 0x2408 then reg32 0 0xFFFFF 0                     -- XLAT_INV_CTL, R246
  else if off = 0x2410 then reg64 0xFFFFFFFE00000                 -- WIN_BASE, R256
  else if off = 0x2420 then reg64 ones64                          -- REP_BASE, R255
  else if off = 0x2428 then reg32 0 0xFFF 0                       -- REP_ARM, R255
  else if inArray off 0x2440 4 0x20 then reg64 0xFFFFFFFFFF000    -- ACR_BASE, R252
  else if inArray off 0x2448 4 0x20 then reg32 0x80400 0x801FFFFF 0  -- ACR_CFG, R252
  else if inArray off 0x244C 4 0x20 then reg32 0 0xFFFF 0         -- ACR_PTR, R252
  else if inArray off 0x2450 4 0x20 then reg32 0 ones32 0         -- ACR_LOST, R252
  else if off = 0x2500 then reg32 0x100 0x1FF 0                   -- LN_CFG, R281
  else if inArray off 0x2600 4 0x20 then reg64 0xFFFFFFFFFF000    -- FLT_BASE, R325
  else if inArray off 0x2608 4 0x20 then reg32 0x60000 0x801F0000 0  -- FLT_CFG, R325
  else if inArray off 0x260C 4 0x20 then reg32 0 0xFFFF 0         -- FLT_PTR, R325
  else if off = 0x2680 then reg32 0 0x30FF07FF 0                  -- FLT_RESUME, R327
  else none

/-- The register at an offset. -/
def regInfo (off : Nat) : Option RegInfo :=
  if off < 0x0600 then regInfoLow off else if off < 0x1000 then regInfoMid off else regInfoHigh off

/-- The reset value at an offset. -/
def regReset (off : Nat) : Dword := BitVec.ofNat 64 ((regInfo off).elim 0 RegInfo.reset)

/-- The value that a register holds. -/
def ctlD (s : State) (off : Nat) : Dword := mgetD s.ctl off (regReset off)

/-- The value as a number. -/
def ctlGet (s : State) (off : Nat) : Nat := (ctlD s off).toNat

/-- Give a register a value, whatever its access codes: the hardware's own write. -/
def ctlSet (s : State) (off : Nat) (v : Nat) : State :=
  { s with ctl := mput s.ctl (regReset off) off (BitVec.ofNat 64 v) }

/-- A field of a register. -/
def ctlField (s : State) (off lo w : Nat) : Nat := bitsN (ctlGet s off) lo w

/-- Replace bits [lo + w - 1 : lo] of a number. -/
def putBits (x lo w v : Nat) : Nat := x - bitsN x lo w * 2 ^ lo + (v % 2 ^ w) * 2 ^ lo

/-- Set a field of a register. -/
def ctlPut (s : State) (off lo w v : Nat) : State := ctlSet s off (putBits (ctlGet s off) lo w v)

/-- Add to a counter field that saturates. -/
def ctlCount (s : State) (off lo w n : Nat) : State :=
  ctlPut s off lo w (min (2 ^ w - 1) (ctlField s off lo w + n))

/-- Fields that are written only while another field has some value (06 R153, 09 R252, 13 R325): the SIZE of a ring
while EN, bit 31, is 0. -/
def sizeLocked (off : Nat) : Bool :=
  inArray off 0x1008 64 0x40 || inArray off 0x2448 4 0x20 || inArray off 0x2608 4 0x20

/-- What a write of x leaves in a register (00 R4): W1C bits are cleared where x has a 1, RW bits take x, and every other
bit, reserved ones among them, stays (00 R5). -/
def regAfter (off old x : Nat) : Nat :=
  match regInfo off with
  | none => old
  | some i =>
    let rw := if sizeLocked off && bitN old 31 then i.rw - (i.rw &&& 0x1F0000) else i.rw
    let keep := old &&& (ones64 ^^^ rw)
    (keep ||| (x &&& rw)) &&& (ones64 ^^^ (i.w1c &&& x))

/-- A write under the access codes (00 R4). -/
def ctlWrite (s : State) (off : Nat) (x : Nat) : State := ctlSet s off (regAfter off (ctlGet s off) x)

end Sys2Proof.Machine
end

