-- ==== Sys2Proof/Machine/Ops.lean ====
section
/-! DEFINITION. The shared operations: access to contexts, units and slots, registers and latches, time, memory as the
hardware's own engines read and write it, taking a fault (13 R321 to R330) and ending a handler (13 R331). -/

namespace Sys2Proof.Machine

/-! ## Contexts, units, slots -/

/-- A context by its save slot. -/
def getCtx (s : State) (c : Nat) : Ctx := mgetD s.ctxs c {}
/-- Replace a context. -/
def putCtx (s : State) (c : Nat) (x : Ctx) : State := { s with ctxs := mset s.ctxs c x }
/-- A unit of a context, coded as 13 R324 codes UNIT. -/
def getUnit (s : State) (c u : Nat) : Thread := mgetD (getCtx s c).units u {}
/-- Replace a unit. -/
def putUnit (s : State) (c u : Nat) (t : Thread) : State :=
  let x := getCtx s c
  putCtx s c { x with units := mset x.units u t }
/-- Change a unit. -/
def modUnit (s : State) (c u : Nat) (f : Thread → Thread) : State := putUnit s c u (f (getUnit s c u))
/-- Change a context. -/
def modCtx (s : State) (c : Nat) (f : Ctx → Ctx) : State := putCtx s c (f (getCtx s c))
/-- A ferry of a context. -/
def getFerry (s : State) (c f : Nat) : Ferry := mgetD (getCtx s c).ferries f {}
/-- Change a ferry. -/
def modFerry (s : State) (c f : Nat) (g : Ferry → Ferry) : State :=
  modCtx s c fun x => { x with ferries := mset x.ferries f (g (mgetD x.ferries f {})) }
/-- Ticks of every logical clock since package reset: one each 64 cycles (01 R21; 04 R97). -/
def ticksSince (s : State) (t : Nat) : Nat := (t - s.resetAt) / 64
/-- A core; one that has not been used yet has only ticked. -/
def getCore (s : State) (k : Nat) : CoreSt := mgetD s.cores k { lc := BitVec.ofNat 48 (ticksSince s s.now) }
/-- Change a core. -/
def modCore (s : State) (k : Nat) (f : CoreSt → CoreSt) : State :=
  { s with cores := mset s.cores k (f (getCore s k)) }

/-- The core that a context is resident on, or the one whose landing table holds its names. -/
def ctxCore (x : Ctx) : Nat :=
  match x.place with
  | .bank k _ => k
  | .streamOut k _ => k
  | .streamIn k _ => k
  | .saved => x.home
/-- The bank that a context occupies. -/
def ctxBank (x : Ctx) : Nat :=
  match x.place with
  | .bank _ b => b
  | .streamOut _ b => b
  | .streamIn _ b => b
  | .saved => 0
/-- The compute die of a core (01 R13). -/
def dieOf (core : Nat) : Nat := core / 80

/-- A crew, not a cox or a carter. -/
def isCrew (u : Nat) : Bool := decide (u < 64)
/-- A cox: 0x40 + f. -/
def isCox (u : Nat) : Bool := decide (64 ≤ u) && decide (u < 68)
/-- A carter: 0x44 + f. -/
def isCarter (u : Nat) : Bool := decide (68 ≤ u)

/-- A slot: S1 for true. -/
def slotOf (t : Thread) (b : Bool) : Slot := if b then t.s1 else t.s0
/-- Replace a slot. -/
def putSlot (t : Thread) (b : Bool) (x : Slot) : Thread := if b then { t with s1 := x } else { t with s0 := x }

/-- The unit that issues. -/
def curUnit (s : State) : Thread := getUnit s s.cur.ctx s.cur.unit
/-- Change the unit that issues. -/
def modCurUnit (s : State) (f : Thread → Thread) : State := modUnit s s.cur.ctx s.cur.unit f
/-- Its context. -/
def curCtx (s : State) : Ctx := getCtx s s.cur.ctx
/-- Its ferry. -/
def curFerry (s : State) : Ferry := getFerry s s.cur.ctx (curUnit s).ferry
/-- Its core. -/
def curCore (s : State) : Nat := ctxCore (curCtx s)
/-- The slot that issues. -/
def curSlot (s : State) : Slot := slotOf (curUnit s) s.cur.slot
/-- Change what the offset has done so far. -/
def modCur (s : State) (f : Cur → Cur) : State := { s with cur := f s.cur }

/-! ## The mode register (14 R349) -/

/-- TYPE. -/
def mTy (m : Word) : Nat := bitsN m.toNat 11 5
/-- RND. -/
def mRnd (m : Word) : Nat := bitsN m.toNat 8 3
/-- SAT. -/
def mSat (m : Word) : Bool := m.getLsbD 7
/-- INF. -/
def mInf (m : Word) : Bool := m.getLsbD 26
/-- FTZ. -/
def mFtz (m : Word) : Bool := m.getLsbD 25
/-- OBS: S, E, X, P, H at bits 0 to 4. -/
def mObs (m : Word) : BitVec 5 := m.extractLsb' 27 5

/-! ## Registers and latches (14 R340 to R346) -/

/-- v register n in a lane. -/
def rdV (t : Thread) (n l : Nat) : Word := mgetD t.v (32 * n + l) 0
/-- Write it. -/
def wrV (t : Thread) (n l : Nat) (x : Word) : Thread := { t with v := mput t.v 0 (32 * n + l) x }
/-- g register n. -/
def rdG (t : Thread) (n : Nat) : Word := mgetD t.g n 0
/-- Write it. -/
def wrG (t : Thread) (n : Nat) (x : Word) : Thread := { t with g := mput t.g 0 n x }
/-- Predicate pN as a mask of lanes. -/
def rdP (t : Thread) (n : Nat) : Mask := mgetD t.p n 0
/-- Write it in one lane. -/
def wrP (t : Thread) (n l : Nat) (b : Bool) : Thread :=
  let m := rdP t n &&& (~~~ laneBit l)
  { t with p := mput t.p 0 n (if b then m ||| laneBit l else m) }
/-- gpN. -/
def rdGp (t : Thread) (n : Nat) : Bool := mgetD t.gp n false
/-- Write it. -/
def wrGp (t : Thread) (n : Nat) (b : Bool) : Thread := { t with gp := mput t.gp false n b }
/-- Latch qK in a lane. -/
def rdQ (t : Thread) (k l : Nat) : Dword := mgetD t.q (32 * k + l) 0
/-- The pair gN:gN+1. -/
def rdGG (t : Thread) (n : Nat) : Dword := rdG t (n + 1) ++ rdG t n
/-- Write the pair. -/
def wrGG (t : Thread) (n : Nat) (x : Dword) : Thread :=
  wrG (wrG t n (x.extractLsb' 0 32)) (n + 1) (x.extractLsb' 32 32)
/-- The pair vN:vN+1 in a lane. -/
def rdVV (t : Thread) (n l : Nat) : Dword := rdV t (n + 1) l ++ rdV t n l
/-- Write the pair. -/
def wrVV (t : Thread) (n l : Nat) (x : Dword) : Thread :=
  wrV (wrV t n l (x.extractLsb' 0 32)) (n + 1) l (x.extractLsb' 32 32)

/-- The plane of a lane (08 R209). -/
def lanePlane (t : Thread) (l : Nat) : Nat := mgetD t.plane l 0
/-- The crew identity of a lane (08 R231). -/
def laneCrew (t : Thread) (l : Nat) : Nat := mgetD t.crewId l t.num
/-- The planes that a mask of lanes occupies, ascending (08 R212). -/
def planesOf (t : Thread) (m : Mask) : List Nat :=
  (List.range 8).filter fun k => (lanesOf m).any fun l => decide (lanePlane t l % 8 = k)
/-- The lanes of a mask in one plane. -/
def lanesIn (t : Thread) (m : Mask) (k : Nat) : Mask :=
  maskOf ((lanesOf m).filter fun l => decide (lanePlane t l % 8 = k))
/-- The lowest occupied plane of a mask; 0 for an engine. -/
def lowPlane (t : Thread) (m : Mask) : Nat := (planesOf t m).headD 0

/-- Exec: the lanes for which the guard holds (07 R182). -/
def guardMask (t : Thread) (m : Mask) : Mask :=
  if t.mode.getLsbD 6 then
    let p := rdP t (bitsN t.mode.toNat 2 3)
    m &&& (if t.mode.getLsbD 5 then ~~~ p else p)
  else m

/-- The execute mask of the word that issues, in the planes that hold it. -/
def execMask (s : State) : Mask := guardMask (curUnit s) s.cur.lanes
/-- Its lanes. -/
def execLanes (s : State) : List Nat := lanesOf (execMask s)

/-! ## Time, events, what leaves the package -/

/-- FAB_TIME in flit times of 1.28 ns (02 R39, R40). -/
def fabTime (s : State) : Nat := (((s.now * 125 / 288 : Nat) : Int) + s.fabAdj).toNat
/-- An event happens no earlier than d cycles from now. -/
def post (s : State) (d : Nat) (e : Ev) : State := { s with pending := s.pending ++ [⟨s.now + d, e⟩] }
/-- Something leaves the package. -/
def emit (s : State) (o : Out) : State := { s with out := s.out ++ [o] }
/-- The next free value (notes/assumptions/3.md) and the state without it. -/
def takeFree (s : State) : Dword × State := (Config.freeDword s.free, { s with free := s.free + 1 })

/-! ## Memory as the hardware's engines read and write it -/

/-- A byte of memory; unlisted bytes read 0 (notes/assumptions/1.md). -/
def memByte (s : State) (a : Nat) : Byte := mgetD s.mem a 0
/-- Write a byte of memory. -/
def memSet (m : List Host.Cell) (a : Nat) (b : Byte) : List Host.Cell := mput m 0 a b
/-- Write bytes of memory from an address. -/
def memSets : List Host.Cell → Nat → List Byte → List Host.Cell
  | m, _, [] => m
  | m, a, b :: t => memSets (memSet m a b) (a + 1) t
/-- The 128 bytes of a line in memory. -/
def memLine (s : State) (line : Nat) : List Byte := (List.range 128).map fun i => memByte s (128 * line + i)
/-- The form of the memory: keys rise, and no entry holds the default. -/
def Memory.wf (m : List Host.Cell) : Bool := Map.sorted m && m.all fun c => decide (c.2 ≠ 0)

/-- The key of a line in a die's L2. -/
def l2Key (die line : Nat) : Nat := die + 4 * line
/-- The key of a line in an L1 slice. -/
def l1Key (slice line : Nat) : Nat := slice + 320 * line

/-- A package state with an owner. -/
def PkgSt.owned (p : PkgSt) : Bool := decide (p = .e) || decide (p = .m) || decide (p = .o)
/-- The line that a die holds as its owner: in its L2, or in its write-back buffer until the home has it (04 R108). -/
def heldBy (s : State) (d line : Nat) : Option L2Line :=
  match (mget? s.l2 (l2Key d line)).filter fun x => x.st.owned with
  | some x => some x
  | none => mget? s.wb (l2Key d line)
/-- The line that holds the newest data of a line in this package, when a die owns it and has its data. -/
def ownerL2 (s : State) (line : Nat) : Option (Nat × L2Line) :=
  match mget? s.home line with
  | some h =>
    match h.st.owned, h.owner with
    | true, .die d => (heldBy s d line).map fun x => (d, x)
    | _, _ => none
  | none => none

/-- The newest data of a line in this package, with its poison mark. -/
def lineNow (s : State) (line : Nat) : List Byte × Bool :=
  match ownerL2 s line with
  | some (_, x) => (x.data, x.poison)
  | none => (memLine s line, mgetD s.poison line false)

/-- What the hardware's own writes that wait for a line write over a byte. -/
def hwOver (s : State) (a : Nat) (b : Byte) : Byte :=
  s.hwPend.foldl (fun b w => if w.1 ≤ a ∧ a < w.1 + w.2.length then w.2.getD (a - w.1) 0 else b) b
/-- Bytes from a physical address, as the hardware's engines read them. -/
def hwRead (s : State) (pa n : Nat) : List Byte :=
  (List.range n).map fun i => hwOver s (pa + i) ((lineNow s ((pa + i) / 128)).1.getD ((pa + i) % 128) 0)

/-- A little-endian number from a physical address. -/
def hwNat (s : State) (pa n : Nat) : Nat := leNat (hwRead s pa n)

/-- Drop every leased copy of a line: L1 copies, and L2 copies that do not own it. -/
def dropCopies (s : State) (line : Nat) : State :=
  { s with
    l1 := s.l1.filter fun e => decide (e.1 / 320 ≠ line)
    l2 := s.l2.filter fun e => decide (e.1 / 4 ≠ line) || decide (e.2.st ≠ .s) }

/-- The hardware may write a line at once: no write of its own waits, a die of the package owns the line in its L2, or no one
holds it but by leases, no request of it is served, and its stack does not recalibrate (05 R148). -/
def hwReady (s : State) (line : Nat) : Bool :=
  let h := mgetD s.home line {}
  let f := mgetD s.filt line {}
  s.hwPend.isEmpty && !mgetD s.recal (line / 2 ^ 29 % 8) false && h.fwd.isNone && h.turn.isNone && decide (f.st = .i) && decide (f.vec = 0) && decide (f.host = 0) &&
    decide (line / 2 ^ 38 % 128 = bitsN (ctlGet s 0x0000) 0 7) &&
    (!h.st.owned || match h.owner with
      | .die d => (mget? s.l2 (l2Key d line)).any fun x => decide (x.st = .m) || decide (x.st = .e)
      | .mate _ => false)
/-- Write bytes that lie in one line; where the line is not at hand, the write waits for it (notes/assumptions/128.md). -/
def hwWriteLine (s : State) (pa : Nat) (d : List Byte) : State :=
  let line := pa / 128
  if !hwReady s line then { s with hwPend := s.hwPend ++ [(pa, d)] }
  else
    let s := dropCopies s line
    match ownerL2 s line with
    | some (die, x) => { s with l2 := mset s.l2 (l2Key die line) { x with data := patchB x.data (pa % 128) d, st := .m } }
    | none => { s with mem := memSets s.mem pa d }

/-- Cut bytes into the parts that lie in one line each: address and bytes. -/
def cutLines : Nat → Nat → List Byte → List (Nat × List Byte)
  | 0, _, _ => []
  | fuel + 1, pa, d =>
    if d = [] then []
    else
      let n := 128 - pa % 128
      (pa, d.take n) :: cutLines fuel (pa + n) (d.drop n)

/-- Write bytes from a physical address, as the hardware's engines write them. -/
def hwWrite (s : State) (pa : Nat) (d : List Byte) : State :=
  (cutLines (d.length + 1) pa d).foldl (fun s x => hwWriteLine s x.1 x.2) s

/-! ## Local store (07 R201, R207) -/

/-- A byte of a context's local-store bank. -/
def lsByte (x : Ctx) (a : Nat) : Byte := mgetD x.ls a 0
/-- n bytes of the bank. -/
def lsRead (x : Ctx) (a n : Nat) : List Byte := (List.range n).map fun i => lsByte x (a + i)
/-- Whether a 32-bit word of the bank is poisoned. -/
def lsPois (x : Ctx) (a : Nat) : Bool := mgetD x.lsPoison (a / 4) false
/-- Write bytes of the bank. -/
def lsSets : Map Byte → Nat → List Byte → Map Byte
  | m, _, [] => m
  | m, a, b :: t => lsSets (mput m 0 a b) (a + 1) t
/-- Write bytes of the bank; a full-word store clears the poison of its word, and its ECC is fresh. -/
def lsWrite (x : Ctx) (a : Nat) (d : List Byte) : Ctx :=
  let full := (List.range (d.length / 4 + 1)).filter fun i =>
    decide (a ≤ 4 * (a / 4 + i)) && decide (4 * (a / 4 + i) + 4 ≤ a + d.length)
  { x with
    ls := lsSets x.ls a d
    lsPoison := full.foldl (fun m i => mput m false (a / 4 + i) false) x.lsPoison
    lsErr := full.foldl (fun m i => mdel m (a / 4 + i)) x.lsErr }

/-! ## Causes (13 R321, R326) -/

/-- The code of a cause. -/
def Cause.code : Cause → Nat
  | .illegal => 1 | .addrNoncanon => 2 | .page => 3 | .perm => 4 | .poison => 5 | .cellLost => 6
  | .peerLost => 7 | .timeout => 8 | .firewall => 9 | .haloWrite => 10 | .planeAlign => 11
  | .stackOverflow => 12 | .lnSecondUse => 13 | .lnStale => 14 | .lnForeign => 15 | .lnWidth => 16
  | .lnFull => 17 | .abft => 18 | .nv => 19 | .dz => 20 | .ovf => 21 | .unf => 22 | .nx => 23
  | .trap => 24 | .bkpt => 25

/-- $trap.cause: CODE, DETAIL and XCODE. -/
def causeWord (c : Cause) (detail xcode : Nat) : Word :=
  BitVec.ofNat 32 (Cause.code c + detail % 32 * 2 ^ 8 + xcode % 256 * 2 ^ 16)

/-! ## Halting and the supervisor (13 R322 to R325) -/

/-- Halt a context: none of its units issues again (13 R323). -/
def haltCtx (s : State) (c : Nat) : State := modCtx s c fun x => { x with halted := true }

/-- The 64 bytes of a fault record (13 R324). -/
def recordBytes (s : State) (c u : Nat) (f : PendingFault) (halted : Bool) : List Byte :=
  let x := getCtx s c
  let r := f.record
  let flags := (if halted then 1 else 0) + (if f.esc then 2 else 0) + (if f.nohnd then 4 else 0) +
    (if r.skid.getLsbD 12 then 8 else 0)
  leBytes 4 r.cause.toNat ++ leBytes 4 r.off.toNat ++ leBytes 8 r.addr.toNat ++ leBytes 4 r.lanes.toNat ++
    leBytes 4 r.mask.toNat ++ leBytes 4 r.word.toNat ++ leBytes 1 r.plane ++ leBytes 1 (r.skid.toNat % 256) ++
    leBytes 1 flags ++ leBytes 1 u ++ leBytes 2 (ctxCore x) ++ leBytes 1 (ctxBank x) ++ leBytes 1 x.cls ++
    leBytes 2 x.asid ++ leBytes 2 0 ++ leBytes 8 (fabTime s) ++ leBytes 16 0

/-- Entries of a die's fault ring: 2^SIZE, SIZE from 6 to 12. -/
def fltSize (s : State) (die : Nat) : Nat := 2 ^ (max 6 (min 12 (ctlField s (0x2608 + 0x20 * die) 16 5)))
/-- FLT_CFG.EN of a die. -/
def fltOn (s : State) (die : Nat) : Bool := decide (ctlField s (0x2608 + 0x20 * die) 31 1 = 1)

/-- Write a record to a die's fault ring and raise its interrupt; a full ring keeps it for a retry (13 R324). -/
def ringWrite (s : State) (die : Nat) (b : List Byte) : State :=
  let ptr := 0x260C + 0x20 * die
  let n := fltSize s die
  let tail := ctlField s ptr 16 16
  if (tail + 1) % n = ctlField s ptr 0 16 % n then
    post { s with ringRetry := mset s.ringRetry die (mgetD s.ringRetry die [] ++ [b]) } 1800 (.faultRingRetry die)
  else
    let s := hwWrite s (ctlGet s (0x2600 + 0x20 * die) + 64 * (tail % n)) b
    emit (ctlPut s ptr 16 16 ((tail + 1) % n)) (.faultIrq die)

/-- A supervisor fault: held, or halting the context (13 R324). The unit's slot stands at the resume offset. -/
def supFault (s : State) (c u : Nat) (f : PendingFault) : State :=
  let die := dieOf (ctxCore (getCtx s c))
  let on := fltOn s die
  let held := f.held && on
  let s := if on then ringWrite s die (recordBytes s c u f (!held)) else s
  let s := modUnit s c u fun t =>
    let sl := slotOf t f.slot
    let t := putSlot t f.slot { sl with off := f.record.off, hold := if held then .supervised else .none }
    if held then { t with helds := t.helds ++ [f] } else t
  if held then s else haltCtx s c

/-! ## Entering a handler (13 R322, R329, R330) -/

/-- An escalated fault is held for PAGE and PERM from translation and for BKPT (13 R330); a PAGE refused at a
home, DETAIL 4, is none. -/
def escHeld (f : PendingFault) : Bool :=
  (f.held && !(decide (f.cause = .page) && decide (f.record.cause.extractLsb' 8 5 = 4))) || decide (f.cause = .bkpt)

/-- A fault of an engine is held for a carter's PAGE and PERM from translation, and for BKPT; any other of a cox's halts (12 R301;
13 R321; 20 R476; notes/assumptions/37.md). -/
def engineHeld (u : Nat) (f : PendingFault) : Bool := if isCox u then decide (f.cause = .bkpt) else escHeld f

/-- The handler's offset from CODE, where $tvec lies in the region's plane-0 span (08 R221). -/
def handlerOff (x : Ctx) (fe : Ferry) : Option Word :=
  let d := x.tvec - BitVec.ofNat 64 fe.code
  if d.toNat % 4 = 0 ∧ d.toNat + 4 ≤ fe.stride ∧ fe.code ≤ x.tvec.toNat then some (d.setWidth 32) else none

/-- Step 4 of 13 R329: the $trap registers are written, INH is set, the other slot is suspended, and the faulting
slot goes to the handler with its mask, planes, registers, latches, predicates and mode as they are. -/
def enterHandler (s : State) (c u : Nat) (f : PendingFault) : State :=
  let t := getUnit s c u
  match handlerOff (getCtx s c) (getFerry s c t.ferry) with
  | none => supFault s c u { f with esc := true, held := escHeld f }
  | some o =>
    modUnit s c u fun t =>
      let sl := slotOf t f.slot
      { putSlot t f.slot { sl with off := o, hold := .none, waited := false, stage := 0 } with
        trap := f.record, inh := true, inhSlot := f.slot, chain := 0, chainLeft := 0 }

/-- Where a fault goes (13 R321, R322, R330). A user's fault of the slot that a handler of its crew suspends becomes the
pending trap (R337). -/
def deliverFault (s : State) (c u : Nat) (f : PendingFault) : State :=
  let t := getUnit s c u
  if !isCrew u then supFault s c u { f with held := engineHeld u f }
  else if t.inh && decide (t.inhSlot = f.slot) then supFault s c u { f with esc := true, held := escHeld f }
  else if f.sup then supFault s c u f
  else if t.inh then
    modUnit s c u fun t => if t.pendTrap.isNone then { t with pendTrap := some f } else { t with late := t.late ++ [f] }
  else if (getCtx s c).tvec = 0 then supFault s c u { f with nohnd := true, held := false }
  else enterHandler s c u f

/-- The oldest fault of a list. -/
def oldestFault : List PendingFault → Option PendingFault
  | [] => none
  | f :: t =>
    match oldestFault t with
    | none => some f
    | some g => if f.age ≤ g.age then some f else some g

/-- Steps 2 and 3 of 13 R329 are over: the older fault is taken. When it enters a handler the other slot's fault
becomes the pending trap; when the supervisor holds it, the other slot's fault is taken too. -/
def takeFaults (s : State) (c u : Nat) : State :=
  let t := getUnit s c u
  match oldestFault t.entering with
  | none => s
  | some f =>
    let rest := t.entering.filter fun g => decide (g.slot ≠ f.slot)
    let s := modUnit s c u fun t => { t with entering := [] }
    let s := deliverFault s c u f
    match rest with
    | [] => s
    | g :: _ =>
      let t := getUnit s c u
      if t.inh && decide (t.inhSlot ≠ g.slot) then modUnit s c u fun t => { t with pendTrap := some g }
      else if (getCtx s c).halted then
        modUnit s c u fun t => putSlot t g.slot { slotOf t g.slot with off := g.record.off, hold := .none }
      else deliverFault s c u g

/-- The counters of the unit are zero and no latch chain is in progress (13 R329 steps 1 and 2). -/
def quiet (t : Thread) : Bool := t.flight.isEmpty && decide (t.chainLeft = 0)

/-- A fault is raised: its slot stops, and it is taken once the unit's accesses have completed. Each slot keeps its
oldest fault; a deferred one that waits counts as raised by the first word that the slot has not issued, and is younger
than a fault of any issued word (13 R329). -/
def raiseFault (s : State) (c u : Nat) (f : PendingFault) : State :=
  let s := modUnit s c u fun t =>
    let mine := t.entering.filter fun g => decide (g.slot = f.slot)
    let others := t.entering.filter fun g => decide (g.slot ≠ f.slot)
    let keep := (oldestFault (mine ++ [f])).getD f
    let x := slotOf t f.slot
    let younger (g : PendingFault) : Bool :=
      g.record.skid.getLsbD 12 && decide (x.mask &&& g.record.lanes ≠ 0) && decide (f.age < t.issued)
    let t := putSlot t f.slot { x with hold := .entering }
    { t with
      entering := others ++ [keep]
      late := t.late.filter fun g => !younger g
      chainLeft := if t.chainSlot = f.slot then 0 else t.chainLeft
      chain := if t.chainSlot = f.slot then 0 else t.chain }
  if quiet (getUnit s c u) then takeFaults s c u else post s 1 (.trapEntry c u)

/-! ## Taking the faults of an offset (08 R220; 13 R333 to R335) -/

/-- The lane fault that decides $trap.cause, $trap.plane and $trap.word: the one of the lowest plane. -/
def leadFault : List LaneFault → Option LaneFault
  | [] => none
  | f :: t =>
    match leadFault t with
    | none => some f
    | some g => if f.plane ≤ g.plane then some f else some g

/-- The position of the offset in its latch chain: 0 unless one of its words reads a latch. -/
def chPos (s : State) : Nat := if s.cur.latch then (curUnit s).chain else 0

/-- The offset from which the offset that issues is executed again. -/
def resumeOff (s : State) : Word := if chPos s = 0 then s.cur.off else (curUnit s).chainOff

/-- A floating exception: NV to NX. -/
def Cause.isFloat (c : Cause) : Bool := decide (19 ≤ Cause.code c) && decide (Cause.code c ≤ 23)
/-- DETAIL of the offset's fault: for a floating exception, every exception of every lane that is named (13 R326). -/
def offsetDetail (s : State) (f : LaneFault) : Nat :=
  if Cause.isFloat f.cause then (s.cur.faults.filter fun g => Cause.isFloat g.cause).foldl (fun n g => n ||| g.detail) 0
  else f.detail
/-- The record of a precise fault at the offset that issues. -/
def preciseRecord (s : State) (f : LaneFault) (lanes : Mask) : TrapRec :=
  { cause := causeWord f.cause (offsetDetail s f) f.xcode
    off := if f.after && decide (chPos s = 0) then s.cur.off + 4 else resumeOff s
    plane := f.plane
    lanes := lanes
    mask := (curSlot s).mask
    addr := f.addr
    word := f.word
    skid := BitVec.ofNat 32 (2 ^ 8 * chPos s) }

/-- A chain that restarts gives each generator back its value at the chain's first offset (15 R372). -/
def restoreSr (s : State) : State :=
  if chPos s = 0 then s else modCurUnit s fun t => { t with sr := t.chainSr, sg := t.chainSg }

/-- The offset faults: nothing of it advances, and the record names every faulting lane of every plane. -/
def faultOffset (s : State) (f : LaneFault) : State :=
  let lanes := s.cur.faults.foldl (fun m g => m ||| g.lanes) 0
  let t := curUnit s
  let pf : PendingFault :=
    { record := preciseRecord s f lanes, cause := f.cause, sup := f.sup, held := f.held, slot := s.cur.slot,
      age := t.issued }
  let s := restoreSr s
  let s := modCurUnit s fun t => { t with issued := t.issued + 1, last := s.cur.slot }
  raiseFault s s.cur.ctx s.cur.unit pf

/-! ## Finishing an offset (07 R180, 08 R212, R214; 14 R345 to R348) -/

/-- The latches shift once; lanes without a result receive zero. -/
def shiftLatches (t : Thread) (r : Map Dword) : Thread :=
  let old := t.q.filterMap fun e => if e.1 < 96 then some (e.1 + 32, e.2) else none
  { t with q := (r.filter fun e => decide (e.1 < 32) && decide (e.2 ≠ 0)) ++ old }

/-- The chain after an offset that issued: its position, what it has read, and whether a latch reader may follow. -/
def chainAfter (t : Thread) (k : Cur) : Thread :=
  if !k.produced then { t with chain := 0, chainReads := [], chainLeft := t.chainLeft - 1 }
  else
    let cont := k.latch
    let reads := (if cont then t.chainReads else []) ++ k.reads
    let bad := (cont && t.chainBad) || k.ends || k.writes.any fun w => decide (w ∈ reads)
    { t with
      chain := if cont then t.chain + 1 else 1
      chainOff := if cont then t.chainOff else k.off
      chainNext := k.off + 4
      chainSlot := k.slot
      chainReads := reads
      chainBad := bad
      chainLeft := t.chainLeft - 1 }

/-- The guard's predicate, as a register that a per-lane word reads (07 R182). -/
def guardCode (mode : Word) : List Nat := if mode.getLsbD 6 then [0x88 + bitsN mode.toNat 2 3] else []
/-- A younger word of the slot has issued: accesses that can still fail count it. No later word writes what it reads, its guard
among it, where the failure is precise (03 R85), or what the store alone reads, where it is memory-precise (R86). -/
def countYoung (t : Thread) (k : Cur) : Thread :=
  { t with flight := t.flight.map fun a =>
      if a.slot = k.slot ∧ a.age < t.issued ∧ !a.done then
        { a with young := a.young + 1, reads := if a.firm then a.reads else a.reads ++ k.reads ++ guardCode t.mode }
      else a }

/-- The slot goes on: to the offset that a word set, or to the next one, unless a word keeps it here. -/
def advanceSlot (t : Thread) (k : Cur) : Thread :=
  if k.stay then t
  else
    let sl := slotOf t k.slot
    putSlot t k.slot { sl with off := k.goto.getD (k.off + 4), hold := .none, waited := false, stage := 0 }

/-- The offset has issued without a fault. -/
def commitOffset (s : State) : State :=
  let k := s.cur
  modCurUnit s fun t =>
    let t := countYoung t k
    let t := chainAfter t k
    let t := if k.produced then shiftLatches t k.result else t
    let t := { t with plane := k.planes.foldl (fun m e => mput m 0 e.1 e.2) t.plane }
    let t := advanceSlot t k
    { t with last := k.slot, issued := t.issued + 1
             bkptPass := if t.bkptPass = some k.off then none else t.bkptPass }

/-- A word has had its effect. After the last distinct word the offset commits, or its faults are taken. -/
def finishWord (s : State) : State :=
  if !s.cur.lastWord then s
  else
    match leadFault s.cur.faults with
    | none => commitOffset s
    | some f => faultOffset s f

/-- A fault of some lanes of the word that issues, in the lowest plane in which one of them lies (08 R220). -/
def laneFault (s : State) (cause : Cause) (detail : Nat) (lanes : Mask) (addr : Dword) : LaneFault :=
  { cause := cause, detail := detail, xcode := 0
    plane := if lanes = 0 then s.cur.plane else lowPlane (curUnit s) lanes
    word := s.cur.word, lanes := lanes, addr := addr }

/-- Record a fault of the word that issues. -/
def addFault (s : State) (f : LaneFault) : State := modCur s fun k => { k with faults := k.faults ++ [f] }

/-- The word faults as a whole before any effect: an ILLEGAL under 14 R356 and 13 R335, which stands at the word's own
offset with CHPOS 0, or another fault that stops the slot. -/
def faultNow (s : State) (f : LaneFault) : State :=
  let s := modCur s fun k => { k with faults := [f], latch := false }
  faultOffset s f

/-- Keep the slot at this offset until a wait ends. -/
def holdSlot (s : State) (h : Hold) : State :=
  let s := modCurUnit s fun t => putSlot t s.cur.slot { slotOf t s.cur.slot with hold := h }
  modCur s fun k => { k with stay := true }

/-- The slot waits before its word has any effect; the word issues again when the wait is over. -/
def holdOnly (s : State) (h : Hold) : State :=
  modCurUnit s fun t => putSlot t s.cur.slot { slotOf t s.cur.slot with hold := h }

/-! ## The divergence stack (07 R184, R185) -/

/-- The physical address of entry n of the stack of a crew slot, in its kilobyte of the context's save slot
(06 R161; 07 R184). -/
def stackPa (s : State) (c u n : Nat) : Nat := ctlGet s 0x2210 + 2 ^ 20 * c + 1024 * u + 16 * n
/-- The wait of a slot as a number and what it waits for. -/
def Hold.number : Hold → Nat × Nat
  | .none => (0, 0) | .join => (1, 0) | .arriving b _ _ _ _ => (2, b) | .barrier b k => (3, 16 * k + b)
  | .harriving a _ _ => (4, a.id) | .hbar a => (5, a.id) | .lwait r => (6, r) | .sleep t => (7, t)
  | .waitc p n => (8, 8 * n + p) | .drain _ => (9, 0) | .mint n => (11, n) | .busy => (12, 0)
  | .supervised => (13, 0) | .entering => (14, 0) | .release _ => (15, 0) | .settle _ _ => (16, 0)
/-- The 16 bytes of an entry: MASK, OFF, HOLD. -/
def stackEntry (x : Slot) : List Byte :=
  leBytes 4 x.mask.toNat ++ leBytes 4 x.off.toNat ++
    leBytes 8 (if x.hold = .none then 0 else (Config.holdCode x.hold.number.1 x.hold.number.2).toNat)

/-- A slot that is empty takes the top entry of the stack. -/
def popStack (t : Thread) : Thread :=
  match t.stack with
  | [] => t
  | e :: rest =>
    if !t.s0.occ then { t with s0 := e, stack := rest }
    else if !t.s1.occ then { t with s1 := e, stack := rest }
    else t

/-- A slot may take a fault that waits for it (11 R288, 12 R313): it is not held, or it is held in LWAIT, SLEEP or
WAITC and the fault is a deferred one. -/
def takesLate (x : Slot) (f : PendingFault) : Bool :=
  x.occ && decide (x.mask &&& f.record.lanes ≠ 0) &&
    match x.hold with
    | .none => true
    | .lwait _ => f.record.skid.getLsbD 12
    | .sleep _ => f.record.skid.getLsbD 12
    | .waitc _ _ => f.record.skid.getLsbD 12
    | _ => false

/-- A fault that waits is raised now: a slot in its handler takes only the deferred fault of an LREQ of the handler, and the
trap of a failed barrier waits until TRET (the model's choice, notes/assumptions/137.md); the slot that the handler
suspends takes none while its pending trap is there. -/
def lateNow (t : Thread) (b : Bool) (f : PendingFault) : Bool :=
  !t.inh || (if t.inhSlot = b then f.record.skid.getLsbD 12 else t.pendTrap.isNone)
/-- The oldest fault that waits for a slot is raised at the slot's offset. A deferred fault counts as raised by the first
word that the slot has not issued (13 R329). -/
def raiseLateIn (s : State) (c u : Nat) (b : Bool) : State :=
  let t := getUnit s c u
  let x := slotOf t b
  match oldestFault (t.late.filter fun f => takesLate x f && lateNow t b f) with
  | none => s
  | some f =>
    let s := modUnit s c u fun t => { t with late := t.late.erase f }
    raiseFault s c u { f with
      slot := b, age := if f.record.skid.getLsbD 12 then t.issued else f.age
      record := { f.record with off := x.off, mask := x.mask } }

/-- Faults whose slots have reached their next issue, or whose lanes have come back from the stack, are raised. -/
def raiseLate (s : State) (c u : Nat) : State := raiseLateIn (raiseLateIn s c u false) c u true

/-! ## Ending a handler (13 R331) -/

/-- TRET: the mask and the offset come back, INH is cleared and the suspended slot resumes; a pending trap is then
entered. -/
def returnFromTrap (s : State) (c u : Nat) (slot : Bool) : State :=
  let s := modUnit s c u fun t =>
    let sl := slotOf t slot
    { putSlot t slot { sl with off := t.trap.off, mask := t.trap.mask, hold := .none, waited := false, stage := 0 } with
      inh := false, chain := 0, chainLeft := 0 }
  match (getUnit s c u).pendTrap with
  | none => s
  | some g => deliverFault (modUnit s c u fun t => { t with pendTrap := none }) c u g

end Sys2Proof.Machine
end

