-- ==== Sys2Proof/Machine/Operands.lean ====
section
/-! DEFINITION. Operand forms: what each word names and reads, which forms are legal (14 R340 to R347, R355, R356, and
the entries), how operands are read and results written. -/

namespace Sys2Proof.Machine

/-! ## What a word names -/

/-- An operand of a word: its code of R343, whether it names a pair, and whether it is read and written. -/
structure Opd where
  code : Nat
  pair : Bool
  rd : Bool
  wr : Bool
  deriving DecidableEq, Repr

/-- Scopes (14 R344). Words of rules 1 and 2 have the scope their entries state. -/
inductive Scope where
  | lane | group | entry
  deriving DecidableEq, Repr

/-- The form of a word under a mode: whether its operands are legal apart from what `opdsOk` checks, its operands, its
scope, and whether it produces a result (14 R345). -/
structure Shape where
  ok : Bool
  ops : List Opd
  scope : Scope
  result : Bool
  deriving DecidableEq, Repr

/-- A source operand. -/
def rdS (x : Src) (pair : Bool) : Opd := ⟨x.code.toNat, pair, true, false⟩
/-- A destination operand. -/
def wrD (d : Dst) (pair : Bool) : Opd := ⟨d.code.toNat, pair, false, true⟩
/-- A destination that is read too. -/
def rwD (d : Dst) (pair : Bool) : Opd := ⟨d.code.toNat, pair, true, true⟩
/-- A predicate of a J-format word. -/
def rdPF (p : PredField) : Opd :=
  match p with
  | .p k => ⟨0x88 + k.val, false, true, false⟩
  | .gp k => ⟨0x90 + k.val, false, true, false⟩
  | .reserved _ => ⟨0x94, false, true, false⟩

end Sys2Proof.Machine

namespace Sys2Proof

/-! ## Classes of codes -/

/-- v or g. -/
def Src.isVG : Src → Bool
  | .v _ => true
  | .g _ => true
  | _ => false
/-- v. -/
def Src.isV : Src → Bool
  | .v _ => true
  | _ => false
/-- g. -/
def Src.isG : Src → Bool
  | .g _ => true
  | _ => false
/-- g or 0x84. -/
def Src.isG0 : Src → Bool
  | .g _ => true
  | .zero => true
  | _ => false
/-- A latch. -/
def Src.isQ : Src → Bool
  | .q _ => true
  | _ => false
/-- p or gp. -/
def Src.isPred : Src → Bool
  | .p _ => true
  | .gp _ => true
  | _ => false
/-- zero, a latch, p or gp (17 R397). -/
def Src.isPredQ : Src → Bool
  | .zero => true
  | .q _ => true
  | .p _ => true
  | .gp _ => true
  | _ => false
/-- What a group-scope word may read (14 R343). -/
def Src.isGroup : Src → Bool
  | .v _ => false
  | .lane => false
  | .p _ => false
  | .reserved _ => false
  | _ => true
/-- v, g or none. -/
def Dst.isVGN : Dst → Bool
  | .v _ => true
  | .g _ => true
  | .none => true
  | _ => false
/-- v or g. -/
def Dst.isVG : Dst → Bool
  | .v _ => true
  | .g _ => true
  | _ => false
/-- v or none. -/
def Dst.isVN : Dst → Bool
  | .v _ => true
  | .none => true
  | _ => false
/-- v. -/
def Dst.isV : Dst → Bool
  | .v _ => true
  | _ => false
/-- g. -/
def Dst.isG : Dst → Bool
  | .g _ => true
  | _ => false
/-- g or none. -/
def Dst.isGN : Dst → Bool
  | .g _ => true
  | .none => true
  | _ => false
/-- p or gp. -/
def Dst.isPred : Dst → Bool
  | .p _ => true
  | .gp _ => true
  | _ => false
/-- gp. -/
def Dst.isGp : Dst → Bool
  | .gp _ => true
  | _ => false
/-- A tile. -/
def Dst.isAcc : Dst → Bool
  | .acc _ => true
  | _ => false
/-- g or gp: a group-scope destination (14 R344 rule 3). -/
def Dst.isGroup : Dst → Bool
  | .g _ => true
  | .gp _ => true
  | _ => false
/-- P of 12 to 15. -/
def PredField.bad : PredField → Bool
  | .reserved _ => true
  | _ => false
/-- A reserved source. -/
def Src.bad : Src → Bool
  | .reserved _ => true
  | _ => false

end Sys2Proof

namespace Sys2Proof.Machine

/-- The scope of a destination. -/
def scopeOf (d : Dst) : Scope := if d.isGroup then .group else .lane

/-! ## Shapes -/

/-- Three operands, a result in D. -/
def shape3 (ok : Bool) (d : Opd) (a b : Opd) (sc : Scope) : Shape := ⟨ok, [d, a, b], sc, true⟩
/-- Two operands, a result in D. -/
def shape2 (ok : Bool) (d : Opd) (a : Opd) (sc : Scope) : Shape := ⟨ok, [d, a], sc, true⟩
/-- A word whose entry states its scope and that produces no result. -/
def shapeE (ok : Bool) (ops : List Opd) : Shape := ⟨ok, ops, .entry, false⟩

/-- Integer words on two sources at TYPE (17 R399): arith accepts TYPE 0 to 7. -/
def shInt3 (m : Word) (arith : Bool) (d : Dst) (a b : Src) : Shape :=
  let w := isWide (mTy m)
  shape3 (d.isVGN && (!arith || isInt (mTy m))) (wrD d w) (rdS a w) (rdS b w) (scopeOf d)
/-- Integer words on one source at TYPE. -/
def shInt2 (m : Word) (arith : Bool) (d : Dst) (a : Src) : Shape :=
  let w := isWide (mTy m)
  shape2 (d.isVGN && (!arith || isInt (mTy m))) (wrD d w) (rdS a w) (scopeOf d)
/-- Integer words with a control operand in B. -/
def shIntC (m : Word) (d : Dst) (a b : Src) : Shape :=
  let w := isWide (mTy m)
  shape3 (d.isVGN && isInt (mTy m)) (wrD d w) (rdS a w) (rdS b false) (scopeOf d)
/-- Integer words that read D. -/
def shIntD (m : Word) (d : Dst) (a b : Src) (wb : Bool) : Shape :=
  let w := isWide (mTy m)
  shape3 (d.isVGN && isInt (mTy m)) (rwD d w) (rdS a w) (rdS b (w && wb)) (scopeOf d)
/-- Integer compares (17 R409). -/
def shCmp (m : Word) (d : Dst) (a b : Src) : Shape :=
  let w := isWide (mTy m)
  shape3 (d.isPred && isInt (mTy m)) (wrD d false) (rdS a w) (rdS b w) (scopeOf d)
/-- Predicate words (17 R397). -/
def shPred (d : Dst) (a b : Src) : Shape :=
  shape3 (d.isPred && a.isPredQ && b.isPredQ) (wrD d false) (rdS a false) (rdS b false) (scopeOf d)
/-- Lane exchange (17 R414). -/
def shShfl (m : Word) (ok : Bool) (d : Dst) (a b : Src) : Shape :=
  let w := isWide (mTy m)
  shape3 (ok && d.isVN) (wrD d w) (rdS a w) (rdS b false) .lane
/-- Floating words on two sources at TYPE (18 R420). -/
def shF3 (m : Word) (d : Dst) (a b : Src) : Shape :=
  let w := isWide (mTy m)
  shape3 (d.isVGN && isFB (mTy m)) (wrD d w) (rdS a w) (rdS b w) (scopeOf d)
/-- Floating words that read D. -/
def shFD (m : Word) (d : Dst) (a b : Src) : Shape :=
  let w := isWide (mTy m)
  shape3 (d.isVGN && isFB (mTy m)) (rwD d w) (rdS a w) (rdS b w) (scopeOf d)
/-- Floating words on one source, for the types that ok accepts. -/
def shF2 (m : Word) (ok : Bool) (d : Dst) (a : Src) : Shape :=
  let w := isWide (mTy m)
  shape2 (d.isVGN && ok) (wrD d w) (rdS a w) (scopeOf d)
/-- Floating compares (18 R425). -/
def shFC (m : Word) (d : Dst) (a b : Src) : Shape :=
  let w := isWide (mTy m)
  shape3 (d.isPred && isFB (mTy m)) (wrD d false) (rdS a w) (rdS b w) (scopeOf d)
/-- Conversions (18 R429). -/
def shCvt (m : Word) (ok : Bool) (d : Dst) (a : Src) (tgt : BitVec 5) (rc : BitVec 3) : Shape :=
  shape2 (d.isVGN && ok && decide (rc.toNat < 6)) (wrD d (isWide tgt.toNat)) (rdS a (isWide (mTy m))) (scopeOf d)
/-- Types of PACKN and UNPKN (18 R420). -/
def packTy (ty : Nat) : Bool :=
  decide (ty = 0) || decide (ty = 1) || decide (ty = 4) || decide (ty = 5) || decide (ty = 8) || decide (ty = 9) ||
    isB8 ty || decide (ty = 27)
/-- A position of PACKN and UNPKN that the type has (18 R431). -/
def packPos (ty p : Nat) : Bool := decide (tySize ty = 1) || decide (p < 2)
/-- Loads (19 R436). -/
def shLoad (m : Word) (d : Dst) (a : Src) (pairA : Bool) : Shape :=
  ⟨d.isVG && a.isVG, [wrD d (isWide (mTy m)), rdS a pairA], scopeOf d, false⟩
/-- Stores (19 R436). -/
def shStore (m : Word) (x : Src) (a : Src) (pairA : Bool) : Shape :=
  ⟨a.isVG, [rdS x (isWide (mTy m)), rdS a pairA], if x.isG && a.isG then .group else .lane, false⟩
/-- Atomics (19 R449): the types accepted are integers of 32 and 64 bits, and floats of them where fl. -/
def shAtomic (m : Word) (fl : Bool) (cas : Bool) (d : Dst) (a b : Src) : Shape :=
  let ty := mTy m
  let okT := decide (ty = 2) || decide (ty = 3) || decide (ty = 6) || decide (ty = 7) ||
    (fl && (decide (ty = 10) || decide (ty = 11)))
  ⟨okT && (if cas then d.isVG else d.isVGN) && a.isVG,
    [(if cas then rwD d (isWide ty) else wrD d (isWide ty)), rdS a true, rdS b (isWide ty)], scopeOf d, false⟩
/-- Two registers overlap: n and, for a pair, n + 1. -/
def overlapsReg (a : Nat) (pa : Bool) (b : Nat) (pb : Bool) : Bool :=
  decide (a = b) || (pa && decide (a + 1 = b)) || (pb && decide (a = b + 1))
/-- Words of 20 R457 that name only g registers. -/
def shG (d : Dst) (okD : Bool) (a b : Src) (pa pb : Bool) : Shape :=
  shapeE (okD && a.isG && b.isG) [wrD d false, rdS a pa, rdS b pb]
/-- Special-register numbers of 14 R352. -/
def specialReg (n : Nat) : Bool :=
  decide (n ≤ 3) || decide (n = 8) || (decide (0x10 ≤ n) && decide (n ≤ 0x17)) ||
    (decide (0x20 ≤ n) && decide (n ≤ 0x24)) || decide (n = 0x28)
/-- Special registers of 64 bits: $lc, $tvec and $trap.addr. -/
def wideReg (n : Nat) : Bool := decide (n = 3) || decide (n = 8) || decide (n = 0x15)
/-- The $trap registers (13 R328). -/
def trapReg (n : Nat) : Bool := decide (0x10 ≤ n) && decide (n ≤ 0x17)

/-- The form of a word under a mode; crew says that a crew executes it, not the cox or the carter. Events have none. -/
def shape (m : Word) (crew : Bool) (i : Instr) : Shape :=
  let w := isWide (mTy m)
  match i with
  | .ill _ => shapeE false []
  | .nop => shapeE true []
  | .bra _ => shapeE true []
  | .bany p _ => shapeE (!p.bad) [rdPF p]
  | .ball p _ => shapeE (!p.bad) [rdPF p]
  | .bnone p _ => shapeE (!p.bad) [rdPF p]
  | .split p _ => shapeE (!p.bad) [rdPF p]
  | .join => shapeE true []
  | .call _ => shapeE true [wrD (.g 63) false]
  | .ret a => shapeE a.isG [rdS a false]
  | .jmpg d a => shapeE (d.isGN && a.isG) [wrD d false, rdS a false]
  | .exit => shapeE true []
  | .yield => shapeE true []
  | .bar _ => shapeE true []
  | .bara _ => shapeE true []
  | .barw _ => shapeE true []
  | .hbar a l _ => shapeE (a.isG && decide (l.toNat < 6)) [rdS a false]
  | .sleep a => shapeE a.isG [rdS a false]
  | .exset a => shapeE a.isG [rdS a false]
  | .exget d => ⟨d.isG, [wrD d false], .entry, true⟩
  | .modea i => shapeE (decide (bitsN i.toNat 0 2 = 0) && decide (bitsN i.toNat 11 5 < 28) &&
      decide (bitsN i.toNat 8 3 < 6)) []
  | .modeb i => shapeE (decide (bitsN i.toNat 0 4 = 0)) []
  | .modeg d => ⟨d.isG, [wrD d false], .entry, true⟩
  | .waitc a i => shapeE (a.isG && decide (i.toNat < 5)) [rdS a false]
  | .plset a => shapeE true [rdS a false]
  | .plsetp a _ => shapeE a.isPred [rdS a false]
  | .plocc d => ⟨d.isG, [wrD d false], .entry, true⟩
  | .repack _ => shapeE true []
  | .pand d a b => shPred d a b
  | .por d a b => shPred d a b
  | .pxor d a b => shPred d a b
  | .pnot d a => shPred d a .zero
  | .pmov d a => shPred d a .zero
  | .psetg d a => ⟨d.isGp && a.isG, [wrD d false, rdS a false], .group, true⟩
  | .pgetg d => ⟨d.isG, [wrD d false, ⟨0x90, false, true, false⟩, ⟨0x91, false, true, false⟩,
      ⟨0x92, false, true, false⟩, ⟨0x93, false, true, false⟩], .group, true⟩
  | .add d a b => shInt3 m true d a b
  | .addi d a _ => shInt2 m true d a
  | .subw d a b => shInt3 m true d a b
  | .mul d a b => shInt3 m true d a b
  | .mulh d a b => shInt3 m true d a b
  | .mad d a b => shIntD m d a b true
  | .div d a b => shInt3 m true d a b
  | .rem d a b => shInt3 m true d a b
  | .minw d a b => shInt3 m true d a b
  | .maxw d a b => shInt3 m true d a b
  | .abs d a => shInt2 m true d a
  | .neg d a => shInt2 m true d a
  | .andw d a b => shInt3 m false d a b
  | .andi d a _ => shInt2 m false d a
  | .orw d a b => shInt3 m false d a b
  | .ori d a _ => shInt2 m false d a
  | .xorw d a b => shInt3 m false d a b
  | .xori d a _ => shInt2 m false d a
  | .andn d a b => shInt3 m false d a b
  | .notw d a => shInt2 m false d a
  | .shl d a b => shIntC m d a b
  | .shli d a _ => shInt2 m true d a
  | .shr d a b => shIntC m d a b
  | .shri d a _ => shInt2 m true d a
  | .sra d a b => shIntC m d a b
  | .srai d a _ => shInt2 m true d a
  | .rol d a b => shIntC m d a b
  | .clz d a => shInt2 m true d a
  | .popc d a => shInt2 m true d a
  | .brev d a => shInt2 m true d a
  | .bfx d a b => shIntC m d a b
  | .bfi d a b => shIntD m d a b false
  | .sel d a b => shape3 (d.isVGN && b.isPred) (rwD d w) (rdS a w) (rdS b false) (scopeOf d)
  | .mov d a => shInt2 m false d a
  | .li d _ => ⟨d.isVGN, [wrD d w], scopeOf d, true⟩
  | .lih d _ => ⟨d.isVGN, [rwD d false], scopeOf d, true⟩
  | .lea d a b => shape3 (d.isVGN && isInt (mTy m)) (wrD d true) (rdS a true) (rdS b w) (scopeOf d)
  | .addc d a b => shInt3 m true d a b
  | .clamp d a b => shIntD m d a b true
  | .cmpeq d a b => shCmp m d a b
  | .cmpne d a b => shCmp m d a b
  | .cmplt d a b => shCmp m d a b
  | .cmple d a b => shCmp m d a b
  | .cmpeqi d a _ => shCmp m d a .zero
  | .cmplti d a _ => shCmp m d a .zero
  | .vget d a b => ⟨d.isG && a.isV && b.isG0, [wrD d w, rdS a w, rdS b false], .entry, true⟩
  | .vput d a b => ⟨d.isV && a.isGroup && b.isG0, [wrD d w, rdS a w, rdS b false], .entry, true⟩
  | .shfl d a b => shShfl m true d a b
  | .shflx d a b => shShfl m true d a b
  | .shflup d a b => shShfl m true d a b
  | .shfldn d a b => shShfl m true d a b
  | .bcast d a b => shShfl m b.isG0 d a b
  | .vote d a => ⟨d.isG && a.isPred, [wrD d false, rdS a false], .entry, true⟩
  | .cred d a o => ⟨d.isG && isInt (mTy m) && decide (o.toNat < 6), [wrD d w, rdS a w], .entry, true⟩
  | .fadd d a b => shF3 m d a b
  | .fsub d a b => shF3 m d a b
  | .fmul d a b => shF3 m d a b
  | .fma d a b => shFD m d a b
  | .fms d a b => shFD m d a b
  | .fnma d a b => shFD m d a b
  | .fmin d a b => shF3 m d a b
  | .fmax d a b => shF3 m d a b
  | .fabs d a => shF2 m (isFB (mTy m)) d a
  | .fneg d a => shF2 m (isFB (mTy m)) d a
  | .fcps d a b => shF3 m d a b
  | .fcmpeq d a b => shFC m d a b
  | .fcmplt d a b => shFC m d a b
  | .fcmple d a b => shFC m d a b
  | .fcmpun d a b => shFC m d a b
  | .fclass d a => shape2 (d.isVGN && isFB (mTy m)) (wrD d false) (rdS a w) (scopeOf d)
  | .frnd d a => shF2 m (isFB (mTy m)) d a
  | .fscale d a b => shape3 (d.isVGN && isFB (mTy m)) (wrD d w) (rdS a w) (rdS b false) (scopeOf d)
  | .fgete d a => shF2 m (isFB (mTy m)) d a
  | .fcvt d a t r => shCvt m ((isFB (mTy m) || decide (mTy m = 27)) && (isFB t.toNat || decide (t.toNat = 27))) d a t r
  | .fcvti d a t r => shCvt m (isFB (mTy m) && isInt t.toNat) d a t r
  | .icvtf d a t r => shCvt m (isInt (mTy m) && isFB t.toNat) d a t r
  | .fdiv d a b => shF3 m d a b
  | .fsqrt d a => shF2 m (isFB (mTy m)) d a
  | .frcp d a => shF2 m (isIeee (mTy m)) d a
  | .frsq d a => shF2 m (isIeee (mTy m)) d a
  | .fexp2 d a => shF2 m (isIeee (mTy m) && decide (mTy m ≠ 11)) d a
  | .flog2 d a => shF2 m (isIeee (mTy m) && decide (mTy m ≠ 11)) d a
  | .fsin d a => shF2 m (isIeee (mTy m) && decide (mTy m ≠ 11)) d a
  | .fcos d a => shF2 m (isIeee (mTy m) && decide (mTy m ≠ 11)) d a
  | .ftanh d a => shF2 m (isIeee (mTy m) && decide (mTy m ≠ 11)) d a
  | .fdot2 d a b => shape3 (d.isVGN && (decide (mTy m = 8) || decide (mTy m = 9))) (rwD d false) (rdS a false)
      (rdS b false) (scopeOf d)
  | .fdot4 d a b => shape3 (d.isVGN && isB8 (mTy m)) (rwD d false) (rdS a false) (rdS b false) (scopeOf d)
  | .packn d a p c => shape2 (d.isVGN && packTy (mTy m) && packPos (mTy m) p.toNat && decide (c.toNat < 6))
      (rwD d false) (rdS a false) (scopeOf d)
  | .unpkn d a p => shape2 (d.isVGN && packTy (mTy m) && packPos (mTy m) p.toNat) (wrD d false) (rdS a false)
      (scopeOf d)
  | .ternp d a b => shape3 (d.isVGN && (isInt (mTy m) || isFB (mTy m))) (rwD d false) (rdS a w) (rdS b false)
      (scopeOf d)
  | .ternu d a b => shape3 (d.isVGN && (isInt (mTy m) || isFB (mTy m))) (wrD d w) (rdS a false) (rdS b false)
      (scopeOf d)
  | .srseed d a => shape2 d.isVGN (wrD d false) (rdS a false) (scopeOf d)
  | .fflags d a => ⟨d.isG && a.isG0, [wrD d false, rdS a false], .group, true⟩
  | .ld d a _ => shLoad m d a true
  | .st d a _ => shStore m d a true
  | .ldacq d a _ => shLoad m d a true
  | .strel d a _ => shStore m d a true
  | .ldl d a _ => shLoad m d a false
  | .stl d a _ => shStore m d a false
  | .ldx d a _ => shLoad m d a true
  | .stx d a _ => shStore m d a true
  | .atadd d a b => shAtomic m true false d a b
  | .atmin d a b => shAtomic m false false d a b
  | .atmax d a b => shAtomic m false false d a b
  | .atand d a b => shAtomic m false false d a b
  | .ator d a b => shAtomic m false false d a b
  | .atxor d a b => shAtomic m false false d a b
  | .atxch d a b => shAtomic m true false d a b
  | .atcas d a b => shAtomic m true true d a b
  | .fence _ => shapeE true []
  | .pref a _ => ⟨a.isVG, [rdS a true], .lane, false⟩
  | .resid a _ => ⟨a.isVG, [rdS a true], .lane, false⟩
  | .lmint d a b => shapeE (d.isV && a.isV && b.isG) [wrD d true, rdS b false]
  | .lmintc d a b => shapeE (d.isG && a.isV && b.isG) [wrD d true, rdS b false]
  | .lmintg d a b => shapeE (d.isG && a.isG && b.isG) [wrD d true, rdS b false]
  | .lsto a b => shapeE (a.isVG && !b.isQ && (crew || (a.isG && b.isGroup))) [rdS a true, rdS b w]
  | .lreq a b => shapeE ((a.isV && b.isV) || (a.isG && b.isG)) [rdS a true, rdS b true]
  | .ldrop a => shapeE a.isVG [rdS a true]
  | .lstat d a => ⟨d.isG && a.isVG, [wrD d false, ⟨a.code.toNat, false, false, false⟩], .entry, true⟩
  | .lwait a => shapeE a.isVG [⟨a.code.toNat, false, false, false⟩]
  | .cpy a b => shG .none true a b true true
  | .cpyt a b => shG .none true a b false true
  | .shopen d a => shG d d.isG a a false false
  | .publ a b => shG .none true a b false true
  | .shdisc d a => shG d d.isG a a false false
  | .cpyres a b => shG .none true a b false true
  | .halo d a => shG d d.isG a a false false
  | .halop => shapeE true []
  | .replh a => shG .none true a a true false
  | .fmtb a => shG .none true a a false false
  | .mma d a b => shapeE (d.isAcc && a.isG && b.isG) [rdS a false, rdS b false]
  | .mmas d a b => shapeE (d.isAcc && a.isG && b.isG) [rdS a true, rdS b false]
  | .acz d => shapeE d.isAcc []
  | .acld d a => shapeE (d.isAcc && a.isG) [rdS a false]
  | .acst d a b => shapeE (d.isAcc && a.isG && b.isG) [rdS a false, rdS b true]
  | .accvt d a b => shapeE (d.isAcc && a.isG && b.isG) [rdS a false, rdS b true]
  | .acchk d a => shapeE (d.isG && a.isG) [wrD d false, rdS a false]
  | .mill a => shapeE a.isG [rdS a false]
  | .fork a b => shapeE (a.isG0 && b.isG0 && !(decide (a = .zero) && decide (b = .zero))) [rdS a false, rdS b false]
  | .rdv _ => shapeE true []
  | .spawn d a => shapeE (d.isG && a.isG) [wrD d false, rdS a true]
  | .srd d a => ⟨d.isG && specialReg a.toNat && (crew || !trapReg a.toNat),
      [wrD d (w || wideReg a.toNat)], .entry, true⟩
  | .swr a b => shapeE (a.isG && specialReg b.toNat && (crew || !trapReg b.toNat)) [rdS a (wideReg b.toNat)]
  | .trap _ => shapeE true []
  | .tret => shapeE true []
  | .bkpt _ => shapeE true []
  | .rdtim d => ⟨d.isG, [wrD d true], .entry, true⟩
  | .rdlc d => ⟨d.isG, [wrD d true], .entry, true⟩
  | .lpinv => shapeE true []
  | .scrub d a => shapeE (d.isG && a.isG) [wrD d false, rdS a true]
  | .finj d a b => shapeE (d.isAcc && a.isG && b.isG) [rdS a false, rdS b false]
  | .powerOn => shapeE true []
  | .packageReset => shapeE true []
  | .bootImageFetched _ => shapeE true []
  | .bootFetchRetryTimer => shapeE true []
  | .firmwareUpdateCheck _ => shapeE true []
  | .linkTransferError _ => shapeE true []
  | .patrolScrubRead _ _ => shapeE true []
  | .powerWindow _ => shapeE true []
  | .thermalThrottleStart _ => shapeE true []
  | .thermalThrottleStop _ => shapeE true []
  | .thermalTrip _ => shapeE true []
  | .registerWrite _ _ => shapeE true []
  | .fabPlanLoad => shapeE true []
  | .fabPlanSwitch => shapeE true []
  | .fabTimeLoRead => shapeE true []
  | .planSwitchTime => shapeE true []
  | .planSwitchRxRetune => shapeE true []
  | .fabPacketReceive _ _ _ => shapeE true []
  | .fabPacketTransmit _ _ => shapeE true []
  | .selectiveAck _ _ _ _ => shapeE true []
  | .ackTimer _ _ => shapeE true []
  | .replayTimeout _ _ _ => shapeE true []
  | .channelErrorWindow _ _ _ _ _ => shapeE true []
  | .channelNotice _ _ => shapeE true []
  | .spdmMessage _ _ => shapeE true []
  | .spdmGetMeasurements _ _ => shapeE true []
  | .spdmKeyUpdate _ => shapeE true []
  | .spdmBusyRetry _ => shapeE true []
  | .oldKeySlotRetire _ => shapeE true []
  | .retiredTagExpiry _ => shapeE true []
  | .heartbeatTimer => shapeE true []
  | .heartbeat _ _ _ _ _ _ => shapeE true []
  | .silenceTimeout _ => shapeE true []
  | .sessionEndNotice _ => shapeE true []
  | .fabBudgetPeriod => shapeE true []
  | .transactionTimeout _ => shapeE true []
  | .rds _ => shapeE true []
  | .rdown _ => shapeE true []
  | .wrbk _ => shapeE true []
  | .data _ => shapeE true []
  | .refuse _ => shapeE true []
  | .cmp _ => shapeE true []
  | .cmpack _ => shapeE true []
  | .inv _ => shapeE true []
  | .fwds _ => shapeE true []
  | .fwdown _ => shapeE true []
  | .fwdrec _ => shapeE true []
  | .binv _ => shapeE true []
  | .ack _ => shapeE true []
  | .binvResendTimer _ => shapeE true []
  | .fwdrecTimeout _ => shapeE true []
  | .cellCfgWrite _ => shapeE true []
  | .cellLeave => shapeE true []
  | .sfCfgWrite _ => shapeE true []
  | .sfRecallGo => shapeE true []
  | .fwSync => shapeE true []
  | .recoveryEngineStart _ => shapeE true []
  | .recoverySweepEnd => shapeE true []
  | .hostMemRead _ _ _ => shapeE true []
  | .hostMemWrite _ _ _ => shapeE true []
  | .hostBinvAck _ _ _ => shapeE true []
  | .hostBinvTimeout _ _ => shapeE true []
  | .hostLinkDown _ => shapeE true []
  | .extGrant => shapeE true []
  | .extRevoke => shapeE true []
  | .extRevokeComplete _ _ => shapeE true []
  | .cwEnq _ _ _ _ => shapeE true []
  | .cwBindWrite _ _ _ => shapeE true []
  | .rtbExtend _ => shapeE true []
  | .audAppend _ => shapeE true []
  | .audRelease => shapeE true []
  | .audExport => shapeE true []
  | .audRead => shapeE true []
  | .ctxRelGo _ => shapeE true []
  | .ctxReleaseDone _ _ _ => shapeE true []
  | .drainDie _ => shapeE true []
  | .readmitDie _ => shapeE true []
  | .stkDrain _ => shapeE true []
  | .stkRecalibrate _ => shapeE true []
  | .stkRecalibrateDone _ => shapeE true []
  | .stkResume _ => shapeE true []
  | .qSubmit _ _ => shapeE true []
  | .qSkip _ => shapeE true []
  | .xlatInvGo _ => shapeE true []
  | .sweepComplete _ => shapeE true []
  | .repArmGo _ => shapeE true []
  | .replicaArmDone _ => shapeE true []
  | .replicaCollapseDone _ => shapeE true []
  | .fltRetry _ _ _ => shapeE true []
  | .fltReflect _ _ _ => shapeE true []
  | .fltHalt _ _ => shapeE true []
  | .fltUnhalt _ _ => shapeE true []
  | .quadFuseWrite _ _ => shapeE true []
  | .cohCfgWrite _ => shapeE true []
  | .leaseTransitionEnd => shapeE true []
  | .logicalClockTick _ => shapeE true []
  | .clockSync => shapeE true []
  | .dispatchDecision => shapeE true []
  | .gangFallbackTimer _ => shapeE true []
  | .spanComplete _ => shapeE true []
  | .continuationRetry _ => shapeE true []
  | .schedPeriodBoundary => shapeE true []
  | .contextSwitch _ => shapeE true []
  | .activeIdleTimeout _ => shapeE true []
  | .residentWaitTimeout _ => shapeE true []
  | .streamOut _ => shapeE true []
  | .streamIn _ _ => shapeE true []
  | .streamComplete _ => shapeE true []
  | .loadDataReturn _ => shapeE true []
  | .storeComplete _ => shapeE true []
  | .itemFailReturn _ _ _ _ => shapeE true []
  | .walkComplete _ _ _ => shapeE true []
  | .arrivalRecord _ _ _ => shapeE true []
  | .hbarArrival _ => shapeE true []
  | .sleepExpiry _ _ _ => shapeE true []
  | .haloPushWrite _ _ => shapeE true []
  | .landingStore _ => shapeE true []
  | .landingOutcome _ _ _ => shapeE true []
  | .lreqDeferredFault _ _ _ _ => shapeE true []
  | .nameDeadline _ _ _ => shapeE true []
  | .nameReclaimCellLost _ _ => shapeE true []
  | .lnFullTimeout _ _ _ => shapeE true []
  | .trapEntry _ _ => shapeE true []
  | .faultRingRetry _ => shapeE true []
  | .copySegmentIssue _ _ _ => shapeE true []
  | .copySegmentDone _ _ _ _ => shapeE true []
  | .copyComplete _ _ _ => shapeE true []
  | .publComplete _ => shapeE true []
  | .coxCommandIssue _ => shapeE true []
  | .mmaComplete _ => shapeE true []
  | .drainComplete _ => shapeE true []
  | .millComplete _ => shapeE true []
  | .drds _ => shapeE true []
  | .drdown _ => shapeE true []
  | .ddata _ => shapeE true []
  | .dfwds _ => shapeE true []
  | .dfwdown _ => shapeE true []
  | .dack _ => shapeE true []
  | .drecall _ => shapeE true []
  | .dwrbk _ => shapeE true []
  | .dcmp _ => shapeE true []
  | .leaseWaitEnd _ => shapeE true []
  | .planSwitchDone => shapeE true []
  | .readmissionDone _ _ => shapeE true []
  | .hostLinkUp _ _ _ _ => shapeE true []
  | .coolantInletTemperature _ => shapeE true []
  | .cellJoinComplete => shapeE true []
  | .lreqRead _ => shapeE true []
  | .homeAtomic _ => shapeE true []
  | .fwSyncDone => shapeE true []
  | .bootMeasurementExtend _ _ => shapeE true []

/-- A mint whose name destination overlaps its bound register or pair, or that binds an odd pair; one that binds nothing binds no
odd pair (11 R283, R284). -/
def mintBad (d : Dst) (a : Src) (ctl : Word) (binds : Bool) : Bool :=
  let pair := ctl.getLsbD 2
  (binds && pair && decide (a.code.toNat % 2 = 1)) || overlapsReg d.code.toNat true a.code.toNat pair

/-! ## Reading operands (14 R343) -/

/-- Widen 32 bits. -/
def zext64 (x : Word) : Dword := x.setWidth 64
/-- A truth value as 0 or 1. -/
def bit64 (b : Bool) : Dword := if b then 1 else 0

/-- A source in a lane of a per-lane word. -/
def srcLane (s : State) (x : Src) (wide : Bool) (l : Nat) : Dword :=
  let t := curUnit s
  match x with
  | .v n => if wide then rdVV t n.val l else zext64 (rdV t n.val l)
  | .q k => rdQ t k.val l
  | .zero => 0
  | .lane => BitVec.ofNat 64 l
  | .plane => BitVec.ofNat 64 (lanePlane t l)
  | .crew => BitVec.ofNat 64 (laneCrew t l)
  | .p k => bit64 ((rdP t k.val).getLsbD l)
  | .gp k => bit64 (rdGp t k.val)
  | .g n => if wide then rdGG t n.val else zext64 (rdG t n.val)
  | .reserved _ => 0

/-- A source of a group-scope word. -/
def srcGroup (s : State) (x : Src) (wide : Bool) : Dword :=
  let t := curUnit s
  match x with
  | .v _ => 0
  | .q k => rdQ t k.val 0
  | .zero => 0
  | .lane => 0
  | .plane => BitVec.ofNat 64 (lowPlane t (curSlot s).mask)
  | .crew => BitVec.ofNat 64 (if isCrew s.cur.unit then t.num else 0)
  | .p _ => 0
  | .gp k => bit64 (rdGp t k.val)
  | .g n => if wide then rdGG t n.val else zext64 (rdG t n.val)
  | .reserved _ => 0

/-- A source, in the scope of a word: group, or lane l. -/
def srcIn (s : State) (grp : Bool) (l : Nat) (x : Src) (wide : Bool) : Dword :=
  if grp then srcGroup s x wide else srcLane s x wide l

/-- The low bits that a type takes of a source. -/
def srcTy (s : State) (grp : Bool) (l : Nat) (x : Src) (ty : Nat) : Nat :=
  (srcIn s grp l x (isWide ty)).toNat % 2 ^ tyBits ty

/-- A control operand (17 R387). -/
def srcCtl (s : State) (grp : Bool) (l : Nat) (x : Src) : Nat := (srcIn s grp l x false).toNat % 2 ^ 32

/-- The value that a destination held at issue; none names no register, and the value is free
(notes/assumptions/11.md). -/
def oldDst (s : State) (grp : Bool) (l : Nat) (d : Dst) (wide : Bool) : Dword :=
  let t := curUnit s
  match d with
  | .v n => if grp then 0 else if wide then rdVV t n.val l else zext64 (rdV t n.val l)
  | .none => Config.freeDword (s.free + l)
  | .p k => bit64 ((rdP t k.val).getLsbD l)
  | .gp k => bit64 (rdGp t k.val)
  | .acc _ => 0
  | .g n => if wide then rdGG t n.val else zext64 (rdG t n.val)
  | .reserved _ => 0

/-- A word that read `none` has used 32 free values. -/
def spendFree (s : State) (d : Dst) : State := if d = .none then { s with free := s.free + 32 } else s

/-! ## Writing results (14 R342, R345, R346) -/

/-- What one lane, or a group-scope word, writes: the register's value and what enters q0. -/
structure Res where
  reg : Dword
  lat : Dword
  deriving DecidableEq, Repr

/-- The register form of a typed result: i8 and i16 copy their sign into the upper bits of the register, every other
narrow type fills them with zero (14 R342). -/
def regForm (ty x : Nat) : Dword :=
  if ty = 0 ∨ ty = 1 then BitVec.ofNat 64 (wrapN (sextN x (tyBits ty)) 32) else BitVec.ofNat 64 x
/-- A result at a type; it enters the latches zero-extended. -/
def resTy (ty x : Nat) : Res := ⟨regForm ty x, BitVec.ofNat 64 x⟩
/-- A result that is not narrower than its register. -/
def resOf (x : Dword) : Res := ⟨x, x⟩
/-- A 32-bit result. -/
def res32 (x : Nat) : Res := resOf (BitVec.ofNat 64 (x % 2 ^ 32))

/-- Write a destination in a lane. -/
def wrLane (t : Thread) (d : Dst) (wide : Bool) (l : Nat) (x : Dword) : Thread :=
  match d with
  | .v n => if wide then wrVV t n.val l x else wrV t n.val l (x.setWidth 32)
  | .p k => wrP t k.val l (x.getLsbD 0)
  | .none => t
  | .gp _ => t
  | .acc _ => t
  | .g _ => t
  | .reserved _ => t
/-- Write a group-scope destination. -/
def wrGroup (t : Thread) (d : Dst) (wide : Bool) (x : Dword) : Thread :=
  match d with
  | .g n => if wide then wrGG t n.val x else wrG t n.val (x.setWidth 32)
  | .gp k => wrGp t k.val (x.getLsbD 0)
  | .v _ => t
  | .p _ => t
  | .none => t
  | .acc _ => t
  | .reserved _ => t

/-- A write to a register clears its RCL mark (11 R291). -/
def clearRcl (t : Thread) (d : Dst) (wide : Bool) (m : Mask) : Thread :=
  match d with
  | .v n =>
    let f (t : Thread) (k : Nat) : Thread := { t with vrcl := mput t.vrcl 0 k (mgetD t.vrcl k 0 &&& ~~~ m) }
    if wide then f (f t n.val) (n.val + 1) else f t n.val
  | .g n =>
    let f (t : Thread) (k : Nat) : Thread := { t with grcl := mput t.grcl false k false }
    if wide then f (f t n.val) (n.val + 1) else f t n.val
  | _ => t

/-- Per-lane results: each lane writes its destination, and the results enter q0 in those lanes. -/
def writeLanes (s : State) (d : Dst) (wide : Bool) (rs : List (Nat × Res)) : State :=
  let s := modCurUnit s fun t =>
    clearRcl (rs.foldl (fun t r => wrLane t d wide r.1 r.2.reg) t) d wide (maskOf (rs.map Prod.fst))
  modCur s fun k => { k with produced := true, result := rs.foldl (fun m r => mset m r.1 r.2.lat) k.result }

/-- A result that enters q0 in every lane. -/
def latchAll (s : State) (x : Dword) : State :=
  modCur s fun k => { k with produced := true, result := (List.range 32).map fun l => (l, x) }

/-- A result of a per-lane word that enters q0 in every lane, but in those of planes that hold another word at the offset
(08 R214; 17 R411). -/
def latchOwn (s : State) (x : Dword) : State :=
  let others := lanesOf ((curSlot s).mask &&& ~~~ s.cur.lanes)
  modCur s fun k => { k with
    produced := true
    result := (List.range 32).foldl (fun m l => if l ∈ others then m else mset m l x) k.result }

/-- A group-scope result: one write, and q0 in every lane. -/
def writeGroup (s : State) (d : Dst) (wide : Bool) (r : Res) : State :=
  latchAll (modCurUnit s fun t => clearRcl (wrGroup t d wide r.reg) d wide 0) r.lat

/-- A word that computes a value: once in group scope, or in each lane of Exec(slot), every source read before any
destination is written (17 R387). -/
def valueWord (s : State) (d : Dst) (wide : Bool) (f : Bool → Nat → Res) : State :=
  if d.isGroup then writeGroup s d wide (f true 0)
  else writeLanes s d wide ((execLanes s).map fun l => (l, f false l))

/-! ## Legality (14 R355, R356; 13 R330) -/

/-- The units that may execute an opcode: bit 0 crew, bit 1 cox, bit 2 carter (14 R355). -/
def unitsOf (op : Nat) : Nat :=
  if op = 0 then 0
  else if op = 0x06 ∨ op = 0x07 ∨ op = 0x0C ∨ op = 0x17 ∨ (0x18 ≤ op ∧ op ≤ 0x1B) then 1
  else if op ≤ 0x54 then 7
  else if op ≤ 0x5E then 1
  else if op ≤ 0x8D then 7
  else if op = 0x8E ∨ op = 0x8F ∨ op = 0x99 ∨ op = 0x9A ∨ op = 0xA0 ∨ op = 0xA1 then 1
  else if op ≤ 0x98 then 7
  else if op = 0xA3 ∨ op = 0xA4 then 5
  else if op ≤ 0xA7 then 7
  else if op ≤ 0xB0 then 4
  else if op ≤ 0xC0 ∨ op = 0xD9 then 2
  else if op = 0xC8 ∨ op = 0xCA ∨ op = 0xD2 ∨ op = 0xD3 ∨ op = 0xD7 then 1
  else if op = 0xC9 then 6
  else if op = 0xD8 then 5
  else 7

/-- Whether a unit may execute an opcode. -/
def unitMay (u op : Nat) : Bool :=
  bitN (unitsOf op) (if isCrew u then 0 else if isCox u then 1 else 2)

/-- Words that a crew in its handler may not execute (13 R330). -/
def handlerBars (op : Nat) : Bool :=
  decide (op = 0x06) || decide (op = 0x07) || decide (op = 0x0B) || (decide (0x0D ≤ op) && decide (op ≤ 0x10)) ||
    decide (op = 0x1B)

/-- Opcodes that the cox and the carter may execute in group scope only (14 R355). -/
def groupOnly (op : Nat) : Bool :=
  (decide (0x20 ≤ op) && decide (op ≤ 0x54)) || (decide (0x60 ≤ op) && decide (op ≤ 0x8D)) ||
    (decide (0x90 ≤ op) && decide (op ≤ 0x97))

/-- The opcode of an instruction; an event has none. -/
def opOf (i : Instr) : Nat :=
  match encode i with
  | some w => (w.extractLsb' 24 8).toNat
  | none => 0

/-- The instruction that issues is of a slot in the handler. -/
def inHandler (s : State) : Bool :=
  let t := curUnit s
  t.inh && decide (t.inhSlot = s.cur.slot)

/-- Order 2 of 14 R356, and TRET outside a handler (13 R331). -/
def opAllowed (s : State) (op : Nat) : Bool :=
  unitMay s.cur.unit op && !(inHandler s && handlerBars op) && !(decide (op = 0xD3) && !inHandler s)

/-- The highest v register that the crew's shape allocates (07 R178). -/
def vLimit (s : State) : Nat := 16 * ((curFerry s).regs + 1)

/-- A code names a v register. -/
def isVCode (c : Nat) : Bool := decide (c < 0x80)
/-- A code names a latch. -/
def isQCode (c : Nat) : Bool := decide (0x80 ≤ c) && decide (c < 0x84)
/-- A code that names registers, of which a pair must be even. -/
def isRegCode (c : Nat) : Bool := decide (c < 0x80) || decide (0xC0 ≤ c)

/-- One operand is legal: an even register in a pair, a v register that the shape allocates, and what a group-scope
word and the engines may name (orders 3 to 5 of 14 R356). -/
def opdOk (s : State) (sc : Scope) (o : Opd) : Bool :=
  let c := o.code
  let engine := !isCrew s.cur.unit
  !(o.pair && isRegCode c && decide (c % 2 = 1)) &&
  !(isVCode c && decide (vLimit s ≤ c + (if o.pair then 1 else 0))) &&
  !(o.rd && !o.wr && decide (0x94 ≤ c) && decide (c < 0xC0)) &&
  !(o.rd && (decide (sc = .group) || engine) && (isVCode c || decide (c = 0x85) ||
      (decide (0x88 ≤ c) && decide (c < 0x90)))) &&
  !(engine && !o.rd && (isVCode c || (decide (0x88 ≤ c) && decide (c < 0x90))))

/-- The codes of registers that operands name, pairs spread out; w chooses those written, else those read. -/
def opdRegs (ops : List Opd) (w : Bool) : List Nat :=
  ops.flatMap fun o =>
    if (if w then o.wr else o.rd) && !isQCode o.code && decide (o.code ≠ 0x80) &&
        !(decide (0x84 ≤ o.code) && decide (o.code < 0x88)) then
      (if o.pair && isRegCode o.code then [o.code, o.code + 1] else [o.code])
    else []

/-- The latches that operands read. -/
def opdLatches (ops : List Opd) : List Nat :=
  ops.filterMap fun o => if o.rd && !o.wr && isQCode o.code then some (o.code - 0x80) else none

/-- The latch reads of a word are legal (14 R347, 17 R388): it stands at position 1 to 3 of a chain of the same slot,
reads only results of the chain, and writes nothing that an earlier word of the chain reads. -/
def latchOk (s : State) (ops : List Opd) : Bool :=
  let t := curUnit s
  let qs := opdLatches ops
  if qs.isEmpty then true
  else
    decide (1 ≤ t.chain) && decide (t.chain ≤ 3) && decide (t.chainSlot = s.cur.slot) &&
    decide (t.chainNext = s.cur.off) && !t.chainBad && qs.all (fun k => decide (k < t.chain)) &&
    (opdRegs ops true).all fun w => decide (w ∉ t.chainReads)

/-- The tile that a word names (20 R457). -/
def tileOf (i : Instr) : Option Nat :=
  match i with
  | .mma (.acc k) _ _ => some k.val
  | .mmas (.acc k) _ _ => some k.val
  | .acz (.acc k) => some k.val
  | .acld (.acc k) _ => some k.val
  | .acst (.acc k) _ _ => some k.val
  | .accvt (.acc k) _ _ => some k.val
  | .finj (.acc k) _ _ => some k.val
  | _ => none

/-- The operands of a word are legal under the mode, unit and chain in force (orders 3 to 6 of 14 R356). -/
def operandsOk (s : State) (i : Instr) : Bool :=
  let t := curUnit s
  let sh := shape t.mode (isCrew s.cur.unit) i
  sh.ok && sh.ops.all (opdOk s sh.scope) && latchOk s sh.ops &&
    !(!isCrew s.cur.unit && groupOnly (opOf i) && decide (sh.scope ≠ .group)) &&
    !(match i with
      | .lmint d a b => mintBad d a ((srcGroup s b false).setWidth 32) !(execLanes s).isEmpty
      | .lmintc d a b => mintBad d a ((srcGroup s b false).setWidth 32) true
      | .lmintg d a b => mintBad d a ((srcGroup s b false).setWidth 32) true
      | _ => false) &&
    (tileOf i).all (fun k => decide (k < (curFerry s).acc)) &&
    !(match i with
      | .lmint _ a b => decide (vLimit s ≤ a.code.toNat + (if (srcGroup s b false).getLsbD 2 && !(execLanes s).isEmpty then 1 else 0))
      | .lmintc _ a b => decide (vLimit s ≤ a.code.toNat + (if (srcGroup s b false).getLsbD 2 then 1 else 0))
      | _ => false)

/-- An ILLEGAL of the word that issues (13 R335): the lanes are the slot's lanes in the planes that hold it. -/
def illegalFault (s : State) (operand : Bool) : LaneFault :=
  let t := curUnit s
  laneFault s .illegal (if operand then 1 else 0) (lanesIn t s.cur.lanes s.cur.plane) 0

/-- The first check of 14 R356 that an instruction breaks. -/
def wordFault (s : State) (i : Instr) : Option LaneFault :=
  if !opAllowed s (opOf i) then some (illegalFault s false)
  else if !operandsOk s i then some (illegalFault s true)
  else none

/-- The same for a word that the decoder rejects. -/
def decodeFault (s : State) (w : Word) : Option LaneFault :=
  match decodeWord w with
  | .instr i => wordFault s i
  | .reservedOpcode => some (illegalFault s false)
  | .fixedField =>
    if opAllowed s (w.extractLsb' 24 8).toNat then some (illegalFault s true) else some (illegalFault s false)

/-- Note what a word reads and writes, for the chain and for the accesses that can still fail. -/
def noteOps (s : State) (i : Instr) : State :=
  let sh := shape (curUnit s).mode (isCrew s.cur.unit) i
  modCur s fun k => { k with
    reads := k.reads ++ opdRegs sh.ops false
    writes := k.writes ++ opdRegs sh.ops true
    latch := k.latch || !(opdLatches sh.ops).isEmpty }

/-- What a meaning answers. -/
abbrev Ans := Host.Outcome State Fault Refusal

/-- Run a word: the checks of decode, its effect, and the end of its offset. -/
def runWord (i : Instr) (s : State) (effect : State → State) : Ans :=
  match wordFault s i with
  | some f => .next (faultNow s f)
  | none => .next (finishWord (effect (noteOps s i)))

end Sys2Proof.Machine
end

