-- ==== Sys2Proof/Machine/Flags.lean ====
section
/-! DEFINITION. Floating exceptions: what a lane of a floating word answers, the sticky flags (15 R374), the traps that
the mode enables (13 R334) and the generators of stochastic rounding (15 R372). -/

namespace Sys2Proof.Machine

/-- What a floating word answers in a lane: its result, the exceptions it raises, and whether it took a rounding step. -/
structure FOut where
  res : Res
  flags : Flags
  step : Bool
  deriving DecidableEq, Repr

/-- The exceptions that the mode turns into traps, in the order of the sticky flags (14 R349). -/
def trapEnables (m : Word) : Flags := (m.extractLsb' 20 5).setWidth 6

/-- The rounding step's context under the mode, with rounding mode rm and a generator's next value x. -/
def rctx (m : Word) (rm : Nat) (x : Word) : RCtx :=
  { rm := rm, sat := mSat m, inf := mInf m, ftz := mFtz m, x := x.toNat }

/-- The generator of a lane. Unlisted lanes hold the launch value 32 c + L + 1 (15 R372). -/
def laneSr (t : Thread) (l : Nat) : Word := mgetD t.sr l (BitVec.ofNat 32 (32 * laneCrew t l + l + 1))

/-- The cause of the highest-ranked exception among some (13 R334). -/
def rankCause (f : Flags) : Cause :=
  if f.getLsbD 4 then .nv else if f.getLsbD 3 then .dz else if f.getLsbD 2 then .ovf
  else if f.getLsbD 1 then .unf else .nx

/-- The flags of outcomes together. -/
def orFlags (l : List Flags) : Flags := l.foldl (· ||| ·) 0

/-- A floating fault: the cause of the highest-ranked enabled exception of the lowest plane in which a lane faults (08 R220),
and every exception of the named lanes. -/
def floatFault (s : State) (en all : Flags) (lanes : Mask) : LaneFault :=
  laneFault s (rankCause en) (all.toNat % 32) lanes 0

/-- A floating word (13 R334): the lanes that raise no enabled exception write their results, set the sticky flags and
keep their generator's step; the others fault and are left as they were. A group-scope word faults as a whole. -/
def floatWord (s : State) (d : Dst) (wide : Bool) (rm : Nat) (f : Bool → Nat → RCtx → FOut) : State :=
  let t := curUnit s
  let en := trapEnables t.mode
  let sr := decide (rm = 5)
  if d.isGroup then
    let x := srStep t.sg
    let o := f true 0 (rctx t.mode rm x)
    if o.flags &&& en ≠ 0 then addFault s (floatFault s (o.flags &&& en) o.flags (curSlot s).mask)
    else
      let s := modCurUnit s fun t => { t with sticky := t.sticky ||| o.flags, sg := if sr && o.step then x else t.sg }
      writeGroup s d wide o.res
  else
    let outs := (execLanes s).map fun l => (l, f false l (rctx t.mode rm (srStep (laneSr t l))))
    let bad := outs.filter fun o => decide (o.2.flags &&& en ≠ 0)
    let good := outs.filter fun o => decide (o.2.flags &&& en = 0)
    let s := modCurUnit s fun t =>
      { t with
        sticky := t.sticky ||| orFlags (good.map fun o => o.2.flags)
        sr := good.foldl (fun m o => if sr && o.2.step then mset m o.1 (srStep (laneSr t o.1)) else m) t.sr }
    let s := writeLanes s d wide (good.map fun o => (o.1, o.2.res))
    if bad.isEmpty then s
    else
      let all := orFlags (bad.map fun o => o.2.flags)
      let p := lowPlane t (maskOf (bad.map Prod.fst))
      let low := orFlags ((bad.filter fun o => decide (lanePlane t o.1 % 8 = p)).map fun o => o.2.flags)
      addFault s (floatFault s (low &&& en) all (maskOf (bad.map Prod.fst)))

/-- The value that an operand has in a lane, under the mode's domain and FTZ. -/
def numIn (s : State) (grp : Bool) (l : Nat) (x : Src) : Num :=
  let m := (curUnit s).mode
  valOf (mTy m) (mInf m) (mFtz m) (srcTy s grp l x (mTy m))

/-- A rounded result of a type, as a floating word's outcome. A step of the generator is taken for every finite value
that is rounded (notes/assumptions/13.md). -/
def roundOut (ty : Nat) (c : RCtx) (v : Num) (fl : Flags) (opInf : Bool := false) : FOut :=
  let r := roundNum ty c v opInf
  { res := resTy ty r.bits, flags := r.flags ||| fl, step := !(v.isNan || v.isInf) }

end Sys2Proof.Machine
end

