-- ==== Sys2Proof/Machine/Approx.lean ====
section
/-! DEFINITION. The approximate functions (18 R428). The spec bounds each result and leaves its bits open:
Config.approx proposes bits, which stand when they lie within the bound of the exact value and are replaced by the
rounded exact value otherwise. Exact values are computed here as integers scaled by 2^512. -/

namespace Sys2Proof.Machine

/-- The scale of the exact values. -/
def fixK : Nat := 512
/-- 2 pi, scaled. -/
def fixTwoPi : Nat := 0x6487ed5110b4611a62633145c06e0e68948127044533e63a0105df531d89cd9128a5043cc71a026ef7ca8cd9e69d218d98158536f92f8a1ba7f09ab6b6a8e122f
/-- log2 e, scaled. -/
def fixLog2e : Nat := 0x171547652b82fe1777d0ffda0d23a7d11d6aef551bad2b4b1164a2cd9a342648fbc3887eeaa2ed9ac49b25eeb82d7c167d52173cc1895213f897f5e06a7be7366

/-- A finite value, scaled and rounded down. -/
def toFix (neg : Bool) (m : Nat) (e : Int) : Int :=
  let k := e + fixK
  let v : Nat := if 0 ≤ k then m * 2 ^ k.toNat else m / 2 ^ (-k).toNat
  if neg then -(v : Int) else v

/-- A scaled value. -/
def ofFix (x : Int) : Num := .fin (decide (x < 0)) x.natAbs (-(fixK : Int))

/-- 2^f for a scaled f in [0, 1), scaled: the product of 2^(2^-j) over the bits of f. -/
def exp2Frac (f : Nat) : Nat :=
  ((List.range 300).foldl (fun (a : Nat × Nat) j =>
    let c := sqrtN (a.2 * 2 ^ fixK)
    (if bitN f (fixK - 1 - j) then a.1 * c / 2 ^ fixK else a.1, c)) (2 ^ fixK, 2 * 2 ^ fixK)).1

/-- 2^x for a scaled x of moderate size, as a value. -/
def exp2Fix (x : Int) : Num :=
  let i := x / (2 ^ fixK : Nat)
  .fin false (exp2Frac (x % (2 ^ fixK : Nat)).toNat) (i - fixK)

/-- log2 of m * 2^e, scaled. -/
def log2Fix (m : Nat) (e : Int) : Int :=
  let l := log2N m
  let y := m * 2 ^ fixK / 2 ^ l
  let r := (List.range 240).foldl (fun (a : Nat × Nat) _ =>
    let y := a.2 * a.2 / 2 ^ fixK
    if y ≥ 2 ^ (fixK + 1) then (2 * a.1 + 1, y / 2) else (2 * a.1, y)) (0, y)
  (e + l) * (2 ^ fixK : Nat) + (r.1 * 2 ^ (fixK - 240) : Nat)

/-- tanh of a scaled x, scaled: (E - 1) / (E + 1) with E = 2^(2 x log2 e). -/
def tanhFix (x : Int) : Int :=
  let a := x.natAbs
  let r : Nat :=
    if a < 2 ^ (fixK - 100) then a
    else if a ≥ 64 * 2 ^ fixK then 2 ^ fixK - 1
    else
      match exp2Fix ((2 * a * fixLog2e / 2 ^ fixK : Nat) : Int) with
      | .fin _ m e =>
        let v := (toFix false m e).toNat
        (v - 2 ^ fixK) * 2 ^ fixK / (v + 2 ^ fixK)
      | _ => 0
  if x < 0 then -(r : Int) else r

/-- A Taylor sum from its first term: each next term is the last one times -x^2 / ((k + 1)(k + 2)). -/
def taylor (x2 first : Int) (k : Nat) : Int :=
  ((List.range 80).foldl (fun (a : Int × Int × Nat) _ =>
    let (s, t, k) := a
    (s + t, -(t * x2 / (2 ^ fixK : Nat)) / (((k + 1) * (k + 2) : Nat) : Int), k + 2)) (0, first, k)).1

/-- sin of a scaled x. -/
def sinFix (x : Int) : Int :=
  let r := x % (fixTwoPi : Int)
  taylor (r * r / (2 ^ fixK : Nat)) r 1
/-- cos of a scaled x. -/
def cosFix (x : Int) : Int :=
  let r := x % (fixTwoPi : Int)
  taylor (r * r / (2 ^ fixK : Nat)) (2 ^ fixK : Nat) 0

/-- The rounding context under which approximate functions deliver: RNE, whatever RND holds. -/
def approxCtx (c : RCtx) : RCtx := { c with rm := 0 }

/-- Deliver bits chosen for an inexact result: NX, UF when the result is below the least normal, and FTZ. -/
def approxDeliver (ty : Nat) (c : RCtx) (bits : Nat) : Rounded :=
  let f := fmtOf ty c.inf
  let code := bits % 2 ^ (tyBits ty - 1)
  if code < 2 ^ (f.p - 1) then
    ⟨if c.ftz then bits - code else bits, fUF ||| fNX⟩
  else ⟨bits, fNX⟩

/-- An inexact result with exact value near v: the proposed bits when they lie within bound (scaled) of it, and its
rounding otherwise. -/
def approxNear (op ty : Nat) (c : RCtx) (operand : Nat) (v : Int) (ulps : Bool) : Rounded :=
  let x := ofFix v
  let base := roundNum ty (approxCtx c) x
  if base.flags &&& fOF ≠ 0 then base
  else
    let ulp : Nat := match x with
      | .fin _ m e => if m = 0 then 0 else (toFix false 1 (ulpOf (fmtOf ty c.inf) m e)).toNat
      | _ => 0
    let bound : Nat := if ulps then 2 * ulp else 2 ^ (fixK - 21) + (if ty = 10 then 0 else ulp)
    let prop := Config.approx op ty operand % 2 ^ tyBits ty
    match valOf ty c.inf false prop with
    | .fin n m e =>
      if (toFix n m e - v).natAbs ≤ bound then approxDeliver ty c prop
      else approxDeliver ty c (roundNum ty { approxCtx c with ftz := false } x).bits
    | _ => approxDeliver ty c (roundNum ty { approxCtx c with ftz := false } x).bits

/-- An inexact result within one unit in the last place: Config.approx picks the neighbour below or above. -/
def approxOne (op ty : Nat) (c : RCtx) (operand : Nat) (v : Num) : Rounded :=
  let base := roundNum ty (approxCtx c) v
  if base.flags &&& fNX = 0 ∨ base.flags &&& fOF ≠ 0 then base
  else
    let rm := if Config.approx op ty operand % 2 = 0 then 2 else 3
    let r := roundNum ty { c with rm := rm, ftz := false } v
    if r.flags &&& fOF ≠ 0 then base else approxDeliver ty c r.bits

/-- Deliver an exact special result. -/
def approxExact (ty : Nat) (c : RCtx) (v : Num) (fl : Flags) : Rounded :=
  let r := roundNum ty (approxCtx c) v
  ⟨r.bits, r.flags ||| fl⟩

/-- 1/A (18 R428). -/
def rcpFn (ty : Nat) (c : RCtx) (operand : Nat) (a : Num) : Rounded :=
  match a with
  | .nan s => ⟨nanOf ty, if s then fNV else 0⟩
  | .inf n => approxExact ty c (.fin n 0 0) 0
  | .fin n m e =>
    if m = 0 then approxExact ty c (.inf n) fDZ
    else approxOne 0x78 ty c operand (divNum (.fin false 1 0) (.fin n m e)).1

/-- 1/sqrt A. -/
def rsqFn (ty : Nat) (c : RCtx) (operand : Nat) (a : Num) : Rounded :=
  match a with
  | .nan s => ⟨nanOf ty, if s then fNV else 0⟩
  | .inf n => if n then ⟨nanOf ty, fNV⟩ else approxExact ty c (.fin false 0 0) 0
  | .fin n m e =>
    if m = 0 then approxExact ty c (.inf n) fDZ
    else if n then ⟨nanOf ty, fNV⟩
    else approxOne 0x79 ty c operand (sqrtNum (divNum (.fin false 1 0) (.fin false m e)).1).1

/-- 2^A. -/
def exp2Fn (ty : Nat) (c : RCtx) (operand : Nat) (a : Num) : Rounded :=
  match a with
  | .nan s => ⟨nanOf ty, if s then fNV else 0⟩
  | .inf n => approxExact ty c (if n then .fin false 0 0 else .inf false) 0
  | .fin n m e =>
    let x := toFix n m e
    let one : Int := (2 ^ fixK : Nat)
    if x % one = 0 ∧ (m = 0 ∨ -(fixK : Int) ≤ e) then
      if x / one > 1024 then approxExact ty c (.fin false 1 1024) 0
      else if x / one < -1024 then approxExact ty c (.fin false 1 (-1024)) 0
      else approxExact ty c (.fin false 1 (x / one)) 0
    else if x > 512 * one then approxExact ty c (.fin false 1 512) 0
    else if x < -400 * one then approxDeliver ty c 0
    else
      match exp2Fix x with
      | .fin _ m' e' => approxNear 0x7A ty c operand (toFix false m' e') true
      | _ => ⟨nanOf ty, 0⟩

/-- log2 A. -/
def log2Fn (ty : Nat) (c : RCtx) (operand : Nat) (a : Num) : Rounded :=
  match a with
  | .nan s => ⟨nanOf ty, if s then fNV else 0⟩
  | .inf n => if n then ⟨nanOf ty, fNV⟩ else approxExact ty c (.inf false) 0
  | .fin n m e =>
    if m = 0 then approxExact ty c (.inf true) fDZ
    else if n then ⟨nanOf ty, fNV⟩
    else if m = 2 ^ log2N m then approxExact ty c (.ofInt (e + log2N m)) 0
    else approxNear 0x7B ty c operand (log2Fix m e) true

/-- sin A or cos A. -/
def trigFn (cosine : Bool) (ty : Nat) (c : RCtx) (operand : Nat) (a : Num) : Rounded :=
  match a with
  | .nan s => ⟨nanOf ty, if s then fNV else 0⟩
  | .inf _ => ⟨nanOf ty, fNV⟩
  | .fin n m e =>
    if m = 0 then approxExact ty c (if cosine then .fin false 1 0 else .fin n 0 0) 0
    else if ltNum (.fin false 1 20) (.fin false m e) then ⟨nanOf ty, fNV⟩
    else if cosine then approxNear 0x7D ty c operand (cosFix (toFix n m e)) false
    else approxNear 0x7C ty c operand (sinFix (toFix n m e)) false

/-- tanh A. -/
def tanhFn (ty : Nat) (c : RCtx) (operand : Nat) (a : Num) : Rounded :=
  match a with
  | .nan s => ⟨nanOf ty, if s then fNV else 0⟩
  | .inf n => approxExact ty c (.fin n 1 0) 0
  | .fin n m e =>
    if m = 0 then approxExact ty c (.fin n 0 0) 0
    else approxNear 0x7E ty c operand (tanhFix (toFix n m e)) true

end Sys2Proof.Machine
end

