-- ==== Sys2Proof/Machine/Float.lean ====
section
/-! DEFINITION. Floating-point and conversion words (18 R417 to R434). -/

namespace Sys2Proof.Machine

/-- The mode of the unit that issues. -/
def curMode (s : State) : Word := (curUnit s).mode

/-- A floating word on two sources, rounded once to TYPE under RND. -/
def fOp3 (s : State) (d : Dst) (a b : Src) (f : Nat → Num → Num → Num × Flags) : State :=
  let m := curMode s
  let ty := mTy m
  floatWord s d (isWide ty) (mRnd m) fun grp l c =>
    let x := numIn s grp l a
    let y := numIn s grp l b
    let (v, fl) := f c.rm x y
    roundOut ty c v fl (x.isInf || y.isInf)

/-- FADD (18 R421). -/
def execFadd (d : Dst) (a b : Src) (s : State) : Ans := runWord (.fadd d a b) s fun s => fOp3 s d a b addNum
/-- FSUB (18 R421). -/
def execFsub (d : Dst) (a b : Src) (s : State) : Ans :=
  runWord (.fsub d a b) s fun s => fOp3 s d a b fun rm x y => addNum rm x y.negate
/-- FMUL (18 R421). -/
def execFmul (d : Dst) (a b : Src) (s : State) : Ans :=
  runWord (.fmul d a b) s fun s => fOp3 s d a b fun _ x y => mulNum x y
/-- FDIV (18 R421). -/
def execFdiv (d : Dst) (a b : Src) (s : State) : Ans :=
  runWord (.fdiv d a b) s fun s => fOp3 s d a b fun _ x y => divNum x y
/-- FSQRT (18 R421). -/
def execFsqrt (d : Dst) (a : Src) (s : State) : Ans :=
  runWord (.fsqrt d a) s fun s => fOp3 s d a .zero fun _ x _ => sqrtNum x

/-- A fused multiply-add: the product and the destination, as they are or negated, added and rounded once. -/
def fmaOp (s : State) (d : Dst) (a b : Src) (np nd : Bool) : State :=
  let m := curMode s
  let ty := mTy m
  let wide := isWide ty
  spendFree (floatWord s d wide (mRnd m) fun grp l c =>
    let x := numIn s grp l a
    let y := numIn s grp l b
    let z := valOf ty c.inf c.ftz ((oldDst s grp l d wide).toNat % 2 ^ tyBits ty)
    let (v, fl) := fmaNum c.rm (if np then x.negate else x) y (if nd then z.negate else z)
    roundOut ty c v fl (x.isInf || y.isInf || z.isInf)) d

/-- FMA (18 R422). -/
def execFma (d : Dst) (a b : Src) (s : State) : Ans := runWord (.fma d a b) s fun s => fmaOp s d a b false false
/-- FMS (18 R422). -/
def execFms (d : Dst) (a b : Src) (s : State) : Ans := runWord (.fms d a b) s fun s => fmaOp s d a b false true
/-- FNMA (18 R422). -/
def execFnma (d : Dst) (a b : Src) (s : State) : Ans := runWord (.fnma d a b) s fun s => fmaOp s d a b true false

/-- Bits as an operand is read under FTZ: a subnormal is the zero of its sign. -/
def readBits (m : Word) (ty x : Nat) : Nat :=
  if isIeee ty && mFtz m && isSubCode (fmtOf ty false) (x % 2 ^ (tyBits ty - 1)) then x - x % 2 ^ (tyBits ty - 1) else x

/-- FMIN and FMAX (18 R423): -0 lies below +0, a number beats a NaN. -/
def minMaxOp (s : State) (d : Dst) (a b : Src) (wantMax : Bool) : State :=
  let m := curMode s
  let ty := mTy m
  floatWord s d (isWide ty) (mRnd m) fun grp l _ =>
    let xb := readBits m ty (srcTy s grp l a ty)
    let yb := readBits m ty (srcTy s grp l b ty)
    let x := numIn s grp l a
    let y := numIn s grp l b
    let fl := x.snan ||| y.snan
    let below (p q : Num) : Bool := ltNum p q || (eqNum p q && p.neg? && !q.neg?)
    let r :=
      if x.isNan && y.isNan then nanOf ty
      else if x.isNan then yb
      else if y.isNan then xb
      else if (if wantMax then below x y else below y x) then yb
      else xb
    { res := resTy ty r, flags := fl, step := false }

/-- FMIN (18 R423). -/
def execFmin (d : Dst) (a b : Src) (s : State) : Ans := runWord (.fmin d a b) s fun s => minMaxOp s d a b false
/-- FMAX (18 R423). -/
def execFmax (d : Dst) (a b : Src) (s : State) : Ans := runWord (.fmax d a b) s fun s => minMaxOp s d a b true

/-- A word that changes the sign only: no exception but the NV that it names (18 R424). -/
def signOp (s : State) (d : Dst) (a b : Src) (f : Nat → Nat → Nat → Nat × Flags) : State :=
  let m := curMode s
  let ty := mTy m
  floatWord s d (isWide ty) (mRnd m) fun grp l _ =>
    let (r, fl) := f ty (srcTy s grp l a ty) (srcTy s grp l b ty)
    { res := resTy ty r, flags := fl, step := false }

/-- The sign of bits at a type set to some value; 0x00 and 0x80 of a signed binary8pP format stay. -/
def withSign (ty x : Nat) (neg : Bool) : Nat :=
  if isB8 ty && decide (x % 128 = 0) then x
  else x % 2 ^ (tyBits ty - 1) + signBit ty neg

/-- FABS (18 R424). -/
def execFabs (d : Dst) (a : Src) (s : State) : Ans :=
  runWord (.fabs d a) s fun s => signOp s d a .zero fun ty x _ => (if isB8n ty then x else withSign ty x false, 0)
/-- FNEG (18 R424). -/
def execFneg (d : Dst) (a : Src) (s : State) : Ans :=
  runWord (.fneg d a) s fun s => signOp s d a .zero fun ty x _ =>
    if isB8n ty then (if x = 0 ∨ x = 0xFF then (x, 0) else (0xFF, fNV))
    else (withSign ty x (!bitN x (tyBits ty - 1)), 0)
/-- FCPS (18 R424): B = 0x80 of a signed binary8pP format is read as positive. -/
def execFcps (d : Dst) (a b : Src) (s : State) : Ans :=
  runWord (.fcps d a b) s fun s => signOp s d a b fun ty x y =>
    (if isB8n ty then x
     else withSign ty x (bitN y (tyBits ty - 1) && !(isB8 ty && decide (y = 0x80))), 0)

/-- A floating compare (18 R425): the predicate and the exceptions. -/
def fcmpOp (s : State) (d : Dst) (a b : Src) (quiet : Bool) (f : Num → Num → Bool) : State :=
  let m := curMode s
  floatWord s d false (mRnd m) fun grp l _ =>
    let x := numIn s grp l a
    let y := numIn s grp l b
    let fl : Flags := if quiet then x.snan ||| y.snan else if x.isNan || y.isNan then fNV else 0
    { res := resOf (bit64 (f x y)), flags := fl, step := false }

/-- FCMPEQ (18 R425). -/
def execFcmpeq (d : Dst) (a b : Src) (s : State) : Ans := runWord (.fcmpeq d a b) s fun s => fcmpOp s d a b true eqNum
/-- FCMPLT (18 R425). -/
def execFcmplt (d : Dst) (a b : Src) (s : State) : Ans := runWord (.fcmplt d a b) s fun s => fcmpOp s d a b false ltNum
/-- FCMPLE (18 R425). -/
def execFcmple (d : Dst) (a b : Src) (s : State) : Ans :=
  runWord (.fcmple d a b) s fun s => fcmpOp s d a b false fun x y => ltNum x y || eqNum x y
/-- FCMPUN (18 R425). -/
def execFcmpun (d : Dst) (a b : Src) (s : State) : Ans :=
  runWord (.fcmpun d a b) s fun s => fcmpOp s d a b true fun x y => x.isNan || y.isNan

/-- The class bit of a value (18 R426), read without FTZ. -/
def classBit (ty : Nat) (inf : Bool) (x : Nat) : Nat :=
  let f := fmtOf ty inf
  match valOf ty inf false x with
  | .nan s => if s then 8 else 9
  | .inf n => if n then 0 else 7
  | .fin n m e =>
    if m = 0 then (if n then 3 else 4)
    else
      let sub := decide (e = f.umin) && decide (m < 2 ^ (f.p - 1))
      if n then (if sub then 2 else 1) else (if sub then 5 else 6)

/-- FCLASS (18 R426). -/
def execFclass (d : Dst) (a : Src) (s : State) : Ans :=
  runWord (.fclass d a) s fun s =>
    let m := curMode s
    floatWord s d false (mRnd m) fun grp l _ =>
      { res := res32 (2 ^ classBit (mTy m) (mInf m) (srcTy s grp l a (mTy m))), flags := 0, step := false }

/-- FRND (18 R427): an integral value of the same type; no NX, UF or OF. -/
def execFrnd (d : Dst) (a : Src) (s : State) : Ans :=
  runWord (.frnd d a) s fun s =>
    let m := curMode s
    let ty := mTy m
    floatWord s d (isWide ty) (mRnd m) fun grp l c =>
      match numIn s grp l a with
      | .nan sg => { res := resTy ty (nanOf ty), flags := if sg then fNV else 0, step := false }
      | .inf _ => { res := resTy ty (srcTy s grp l a ty), flags := 0, step := false }
      | .fin n k e =>
        if k = 0 then { res := resTy ty (roundNum ty c (.fin n 0 0)).bits, flags := 0, step := false }
        else
          let r := (roundInt c.rm c.x n k e).1
          { res := resTy ty (roundNum ty { c with rm := 0 } (.fin n r.natAbs 0)).bits, flags := 0, step := true }

/-- FSCALE (18 R427): A * 2^n, rounded once. -/
def execFscale (d : Dst) (a b : Src) (s : State) : Ans :=
  runWord (.fscale d a b) s fun s =>
    let m := curMode s
    let ty := mTy m
    floatWord s d (isWide ty) (mRnd m) fun grp l c =>
      match numIn s grp l a with
      | .nan sg => { res := resTy ty (nanOf ty), flags := if sg then fNV else 0, step := false }
      | .inf _ => { res := resTy ty (srcTy s grp l a ty), flags := 0, step := false }
      | .fin n k e =>
        if k = 0 then { res := resTy ty (roundNum ty c (.fin n 0 0)).bits, flags := 0, step := false }
        else roundOut ty c (.fin n k (e + sextN (srcCtl s grp l b) 32)) 0

/-- FGETE (18 R427): floor(log2 |A|) as a value of the type. -/
def execFgete (d : Dst) (a : Src) (s : State) : Ans :=
  runWord (.fgete d a) s fun s =>
    let m := curMode s
    let ty := mTy m
    floatWord s d (isWide ty) (mRnd m) fun grp l c =>
      match numIn s grp l a with
      | .nan sg => { res := resTy ty (nanOf ty), flags := if sg then fNV else 0, step := false }
      | .inf _ => { res := resTy ty (infOf ty c.inf false), flags := 0, step := false }
      | .fin _ k e =>
        if k = 0 then
          { res := resTy ty (if isB8n ty || (isB8 ty && !c.inf) then nanOf ty else infOf ty c.inf true),
            flags := fDZ, step := false }
        else roundOut ty c (.ofInt (e + log2N k)) 0

/-- An approximate function (18 R428): RND and the generator are not used. -/
def approxOp (s : State) (d : Dst) (a : Src) (f : Nat → RCtx → Nat → Num → Rounded) : State :=
  let m := curMode s
  let ty := mTy m
  floatWord s d (isWide ty) 0 fun grp l c =>
    let r := f ty c (readBits m ty (srcTy s grp l a ty)) (numIn s grp l a)
    { res := resTy ty r.bits, flags := r.flags, step := false }

/-- FRCP (18 R428). -/
def execFrcp (d : Dst) (a : Src) (s : State) : Ans := runWord (.frcp d a) s fun s => approxOp s d a rcpFn
/-- FRSQ (18 R428). -/
def execFrsq (d : Dst) (a : Src) (s : State) : Ans := runWord (.frsq d a) s fun s => approxOp s d a rsqFn
/-- FEXP2 (18 R428). -/
def execFexp2 (d : Dst) (a : Src) (s : State) : Ans := runWord (.fexp2 d a) s fun s => approxOp s d a exp2Fn
/-- FLOG2 (18 R428). -/
def execFlog2 (d : Dst) (a : Src) (s : State) : Ans := runWord (.flog2 d a) s fun s => approxOp s d a log2Fn
/-- FSIN (18 R428). -/
def execFsin (d : Dst) (a : Src) (s : State) : Ans := runWord (.fsin d a) s fun s => approxOp s d a (trigFn false)
/-- FCOS (18 R428). -/
def execFcos (d : Dst) (a : Src) (s : State) : Ans := runWord (.fcos d a) s fun s => approxOp s d a (trigFn true)
/-- FTANH (18 R428). -/
def execFtanh (d : Dst) (a : Src) (s : State) : Ans := runWord (.ftanh d a) s fun s => approxOp s d a tanhFn

/-- A conversion to tgt under the rounding rc (18 R429). A conversion of a type into itself rounds nothing, so it takes no
step of a stochastic generator, and one of a binary8pP type into itself keeps an infinity. -/
def cvtOp (s : State) (d : Dst) (a : Src) (tgt rc : Nat) : State :=
  let m := curMode s
  let ty := mTy m
  floatWord s d (isWide tgt) rc fun grp l c =>
    let bits := srcTy s grp l a ty
    if ty = 27 ∧ tgt = 27 then { res := resTy 27 bits, flags := 0, step := false }
    else
      let v := valOf ty c.inf c.ftz bits
      let r := if isInt tgt then toIntType tgt rc c.x v else roundNum tgt c v (decide (tgt = ty))
      { res := resTy tgt r.bits, flags := r.flags, step := !(v.isNan || v.isInf) && decide (tgt ≠ ty) }

/-- FCVT (18 R429). -/
def execFcvt (d : Dst) (a : Src) (t : BitVec 5) (r : BitVec 3) (s : State) : Ans :=
  runWord (.fcvt d a t r) s fun s => cvtOp s d a t.toNat r.toNat
/-- FCVTI (18 R429). -/
def execFcvti (d : Dst) (a : Src) (t : BitVec 5) (r : BitVec 3) (s : State) : Ans :=
  runWord (.fcvti d a t r) s fun s => cvtOp s d a t.toNat r.toNat
/-- ICVTF (18 R429). -/
def execIcvtf (d : Dst) (a : Src) (t : BitVec 5) (r : BitVec 3) (s : State) : Ans :=
  runWord (.icvtf d a t r) s fun s => cvtOp s d a t.toNat r.toNat

/-- A dot product (15 R375): terms summed exactly, NV for 0 times infinity and infinities of opposite sign anywhere. -/
def dotSum (rm : Nat) (prods : List (Num × Num)) (addend : Num) : Num × Flags :=
  let ps := prods.map fun p => mulNum p.1 p.2
  let terms := ps.map Prod.fst ++ [addend]
  let fl := orFlags (ps.map Prod.snd) ||| orFlags (prods.map fun p => p.1.snan ||| p.2.snan) ||| addend.snan
  let clash := terms.any (fun x => decide (x = .inf false)) && terms.any (fun x => decide (x = .inf true))
  match terms with
  | [] => (addend, fl)
  | t :: ts =>
    let r := ts.foldl (fun a x => (addNum rm a x).1) t
    (if clash then .nan false else r, fl ||| (if clash then fNV else 0))

/-- FDOT2 and FDOT4 (18 R430): n elements of the mode's TYPE, an f32 addend, an f32 result. -/
def dotOp (s : State) (d : Dst) (a b : Src) (n : Nat) : State :=
  let m := curMode s
  let ty := mTy m
  let w := tyBits ty
  spendFree (floatWord s d false (mRnd m) fun grp l c =>
    let x := srcCtl s grp l a
    let y := srcCtl s grp l b
    let el (z j : Nat) : Num := valOf ty c.inf c.ftz (bitsN z (w * j) w)
    let z := valOf 10 c.inf c.ftz ((oldDst s grp l d false).toNat % 2 ^ 32)
    let prods := (List.range n).map fun j => (el x j, el y j)
    let (v, fl) := dotSum c.rm prods z
    roundOut 10 c (if v.isNan then .nan false else v) fl) d

/-- FDOT2 (18 R430). -/
def execFdot2 (d : Dst) (a b : Src) (s : State) : Ans := runWord (.fdot2 d a b) s fun s => dotOp s d a b 2
/-- FDOT4 (18 R430). -/
def execFdot4 (d : Dst) (a b : Src) (s : State) : Ans := runWord (.fdot4 d a b) s fun s => dotOp s d a b 4

/-- PACKN (18 R431): one narrow element of D from an f32. -/
def execPackn (d : Dst) (a : Src) (p : BitVec 2) (c : BitVec 3) (s : State) : Ans :=
  runWord (.packn d a p c) s fun s =>
    let m := curMode s
    let ty := mTy m
    let w := tyBits ty
    spendFree (floatWord s d false c.toNat fun grp l rc =>
      let v := valOf 10 rc.inf rc.ftz (srcCtl s grp l a)
      let r := convert ty rc v
      let old := (oldDst s grp l d false).toNat % 2 ^ 32
      { res := res32 (putBits old (w * p.toNat) w r.bits), flags := r.flags, step := !(v.isNan || v.isInf) }) d
/-- UNPKN (18 R431): one narrow element of A as f32, exactly. -/
def execUnpkn (d : Dst) (a : Src) (p : BitVec 2) (s : State) : Ans :=
  runWord (.unpkn d a p) s fun s =>
    let m := curMode s
    let ty := mTy m
    let w := tyBits ty
    floatWord s d false 0 fun grp l c =>
      let r := roundNum 10 { c with ftz := false } (valOf ty c.inf c.ftz (bitsN (srcCtl s grp l a) (w * p.toNat) w)) true
      { res := res32 r.bits, flags := r.flags, step := false }

/-- TERNP (18 R432): one trit of the tern byte in D. -/
def execTernp (d : Dst) (a b : Src) (s : State) : Ans :=
  runWord (.ternp d a b) s fun s =>
    let m := curMode s
    let ty := mTy m
    spendFree (floatWord s d false (mRnd m) fun grp l c =>
      let i := srcCtl s grp l b
      let old := (oldDst s grp l d false).toNat % 2 ^ 32
      if i > 4 then { res := res32 old, flags := 0, step := false }
      else
        let v := numIn s grp l a
        let (t, fl) := toTrit c.rm c.x v
        let y := old % 256
        let y' := if y > 242 then 0 else y
        { res := res32 (y' - tritOf y' i * 3 ^ i + t * 3 ^ i),
          flags := (if isInt ty then 0 else fl) ||| (if y > 242 then fTI else 0),
          step := !(isInt ty || v.isNan || v.isInf) }) d
/-- TERNU (18 R432): one trit of the tern byte in A as a value. -/
def execTernu (d : Dst) (a b : Src) (s : State) : Ans :=
  runWord (.ternu d a b) s fun s =>
    let m := curMode s
    let ty := mTy m
    floatWord s d (isWide ty) (mRnd m) fun grp l c =>
      let i := srcCtl s grp l b
      let y := srcCtl s grp l a % 256
      if i > 4 then { res := resTy ty 0, flags := 0, step := false }
      else
        let v := tritVal (tritOf y i)
        let ti : Flags := if y > 242 then fTI else 0
        if isInt ty then
          { res := resTy ty (fitInt c.sat (isSigned ty) (tyBits ty) v), flags := ti, step := false }
        else
          let r := roundNum ty c (.ofInt v)
          { res := resTy ty r.bits, flags := r.flags ||| ti, step := false }

/-! ## Rounding state and flags (18 R433, R434) -/

/-- The launch value of a unit's SG (15 R372). -/
def launchSg (u num : Nat) : Word :=
  if isCrew u then BitVec.ofNat 32 (0x800 + num) else if isCox u then 0x900 else 0xA00

/-- SRSEED (18 R433). -/
def execSrseed (d : Dst) (a : Src) (s : State) : Ans :=
  runWord (.srseed d a) s fun s =>
    let t := curUnit s
    if d.isGroup then
      let n := BitVec.ofNat 32 (srcCtl s true 0 a)
      let s := modCurUnit s fun t => { t with sg := if n = 0 then launchSg s.cur.unit t.num else n }
      writeGroup s d false (res32 t.sg.toNat)
    else
      let ls := execLanes s
      let news := ls.map fun l =>
        let n := BitVec.ofNat 32 (srcCtl s false l a)
        (l, if n = 0 then BitVec.ofNat 32 (32 * laneCrew t l + l + 1) else n)
      let s := modCurUnit s fun t => { t with sr := news.foldl (fun m e => mset m e.1 e.2) t.sr }
      writeLanes s d false (ls.map fun l => (l, res32 (laneSr t l).toNat))

/-- FFLAGS (18 R434). -/
def execFflags (d : Dst) (a : Src) (s : State) : Ans :=
  runWord (.fflags d a) s fun s =>
    let f := (curUnit s).sticky
    let clr := (BitVec.ofNat 6 (srcCtl s true 0 a))
    let s := modCurUnit s fun t => { t with sticky := f &&& ~~~ clr }
    writeGroup s d false (res32 f.toNat)

end Sys2Proof.Machine
end

