-- ==== Sys2Proof/Machine/Integer.lean ====
section
/-! DEFINITION. Predicate, integer and address words, the words that gather and set single lanes, and lane exchange
(17 R397 to R415). -/

namespace Sys2Proof.Machine

/-! ## Predicates (17 R397, R398) -/

/-- A predicate word: a Boolean function of two predicates. -/
def predOp (s : State) (d : Dst) (a b : Src) (f : Bool → Bool → Bool) : State :=
  valueWord s d false fun grp l =>
    resOf (bit64 (f ((srcIn s grp l a false).getLsbD 0) ((srcIn s grp l b false).getLsbD 0)))

/-- PAND (17 R397). -/
def execPand (d : Dst) (a b : Src) (s : State) : Ans := runWord (.pand d a b) s fun s => predOp s d a b (· && ·)
/-- POR (17 R397). -/
def execPor (d : Dst) (a b : Src) (s : State) : Ans := runWord (.por d a b) s fun s => predOp s d a b (· || ·)
/-- PXOR (17 R397). -/
def execPxor (d : Dst) (a b : Src) (s : State) : Ans := runWord (.pxor d a b) s fun s => predOp s d a b (· != ·)
/-- PNOT (17 R397). -/
def execPnot (d : Dst) (a : Src) (s : State) : Ans := runWord (.pnot d a) s fun s => predOp s d a .zero fun x _ => !x
/-- PMOV (17 R397). -/
def execPmov (d : Dst) (a : Src) (s : State) : Ans := runWord (.pmov d a) s fun s => predOp s d a .zero fun x _ => x
/-- PSETG (17 R398): 1 when the g register is not 0. -/
def execPsetg (d : Dst) (a : Src) (s : State) : Ans :=
  runWord (.psetg d a) s fun s => writeGroup s d false (resOf (bit64 (decide (srcCtl s true 0 a ≠ 0))))
/-- PGETG (17 R398): gp0 to gp3 as bits 0 to 3. -/
def execPgetg (d : Dst) (s : State) : Ans :=
  runWord (.pgetg d) s fun s =>
    let t := curUnit s
    let b (k : Nat) : Nat := if rdGp t k then 2 ^ k else 0
    writeGroup s d false (res32 (b 0 + b 1 + b 2 + b 3))

/-! ## Integer words (17 R399 to R408) -/

/-- The integer type in force: SAT, signedness and width. -/
structure ICtx where
  ty : Nat
  sat : Bool
  signed : Bool
  w : Nat
  deriving DecidableEq, Repr

/-- The integer type in force. -/
def ictx (s : State) : ICtx :=
  let m := (curUnit s).mode
  { ty := mTy m, sat := mSat m, signed := isSigned (mTy m), w := tyBits (mTy m) }

/-- Bits read in the type. -/
def ICtx.val (c : ICtx) (x : Nat) : Int := intOf c.signed c.w x
/-- Fit (17 R399). -/
def ICtx.fit (c : ICtx) (x : Int) : Nat := fitInt c.sat c.signed c.w x
/-- A value that lies in the type. -/
def ICtx.bits (c : ICtx) (x : Int) : Nat := wrapN x c.w
/-- A sign-extended immediate, as bits of the type. -/
def ICtx.imm (c : ICtx) (i : BitVec 8) : Nat := wrapN (sextN i.toNat 8) c.w

/-- A word on two sources at TYPE. -/
def intOp3 (s : State) (d : Dst) (a b : Src) (f : ICtx → Nat → Nat → Nat) : State :=
  let c := ictx s
  valueWord s d (isWide c.ty) fun grp l => resTy c.ty (f c (srcTy s grp l a c.ty) (srcTy s grp l b c.ty))
/-- A word on one source at TYPE. -/
def intOp2 (s : State) (d : Dst) (a : Src) (f : ICtx → Nat → Nat) : State :=
  let c := ictx s
  valueWord s d (isWide c.ty) fun grp l => resTy c.ty (f c (srcTy s grp l a c.ty))
/-- A word on a source at TYPE and a control operand. -/
def intOpC (s : State) (d : Dst) (a b : Src) (f : ICtx → Nat → Nat → Nat) : State :=
  let c := ictx s
  valueWord s d (isWide c.ty) fun grp l => resTy c.ty (f c (srcTy s grp l a c.ty) (srcCtl s grp l b))
/-- A word that reads its destination too; none leaves the destination as it is, and its value enters the latches. -/
def intOpD (s : State) (d : Dst) (f : ICtx → Bool → Nat → Nat → Option Nat) : State :=
  let c := ictx s
  spendFree (valueWord s d (isWide c.ty) fun grp l =>
    let old := oldDst s grp l d (isWide c.ty)
    match f c grp l (old.toNat % 2 ^ c.w) with
    | some x => resTy c.ty x
    | none => ⟨old, BitVec.ofNat 64 (old.toNat % 2 ^ c.w)⟩) d

/-- MULH: the high half of the exact product (17 R400). -/
def mulHigh (c : ICtx) (x y : Nat) : Nat := c.bits (c.val x * c.val y / (2 ^ c.w : Nat))
/-- DIV (17 R402). -/
def divBits (c : ICtx) (x y : Nat) : Nat :=
  if c.val y = 0 then 2 ^ c.w - 1 else c.fit (Int.tdiv (c.val x) (c.val y))
/-- REM (17 R402). -/
def remBits (c : ICtx) (x y : Nat) : Nat := if c.val y = 0 then x else c.bits (Int.tmod (c.val x) (c.val y))
/-- ADDC: the carry of the unsigned sum (17 R400). -/
def carryBits (c : ICtx) (x y : Nat) : Nat := if x + y ≥ 2 ^ c.w then 1 else 0
/-- NOT (17 R403). -/
def notBits (c : ICtx) (x : Nat) : Nat := 2 ^ c.w - 1 - x
/-- CLZ (17 R403). -/
def clzBits (c : ICtx) (x : Nat) : Nat := if x = 0 then c.w else c.w - 1 - Nat.log2 x
/-- POPC (17 R403). -/
def popBits (c : ICtx) (x : Nat) : Nat := ((List.range c.w).filter fun i => bitN x i).length
/-- BREV (17 R403). -/
def revBits (c : ICtx) (x : Nat) : Nat :=
  (List.range c.w).foldl (fun r i => if bitN x i then r + 2 ^ (c.w - 1 - i) else r) 0
/-- SHL (17 R404). -/
def shlBits (c : ICtx) (x n : Nat) : Nat := if n % 256 ≥ c.w then 0 else x * 2 ^ (n % 256) % 2 ^ c.w
/-- SHR (17 R404). -/
def shrBits (_c : ICtx) (x n : Nat) : Nat := x / 2 ^ (n % 256)
/-- SRA: the fill is bit w - 1, under unsigned types too (17 R404). -/
def sraBits (c : ICtx) (x n : Nat) : Nat := wrapN (sextN x c.w / (2 ^ (n % 256) : Nat)) c.w
/-- ROL (17 R404). -/
def rolBits (c : ICtx) (x n : Nat) : Nat :=
  let k := n % 256 % c.w
  (x * 2 ^ k + x / 2 ^ (c.w - k)) % 2 ^ c.w
/-- BFX (17 R405). -/
def bfxBits (c : ICtx) (x ctl : Nat) : Nat :=
  let p := ctl % 256
  let n := ctl / 256 % 256
  if n = 0 ∨ p ≥ c.w then 0
  else
    let n2 := min n (c.w - p)
    let f := x / 2 ^ p % 2 ^ n2
    if c.signed then wrapN (sextN f n2) c.w else f
/-- BFI (17 R405); none leaves D unchanged. -/
def bfiBits (c : ICtx) (old x ctl : Nat) : Option Nat :=
  let p := ctl % 256
  let n := ctl / 256 % 256
  if n = 0 ∨ p ≥ c.w then none else some (putBits old p (min n (c.w - p)) x)

/-- ADD (17 R400). -/
def execAdd (d : Dst) (a b : Src) (s : State) : Ans :=
  runWord (.add d a b) s fun s => intOp3 s d a b fun c x y => c.fit (c.val x + c.val y)
/-- ADDI (17 R400). -/
def execAddi (d : Dst) (a : Src) (i : BitVec 8) (s : State) : Ans :=
  runWord (.addi d a i) s fun s => intOp2 s d a fun c x => c.fit (c.val x + c.val (c.imm i))
/-- SUB (17 R400). -/
def execSubw (d : Dst) (a b : Src) (s : State) : Ans :=
  runWord (.subw d a b) s fun s => intOp3 s d a b fun c x y => c.fit (c.val x - c.val y)
/-- MUL (17 R400). -/
def execMul (d : Dst) (a b : Src) (s : State) : Ans :=
  runWord (.mul d a b) s fun s => intOp3 s d a b fun c x y => c.fit (c.val x * c.val y)
/-- MULH (17 R400). -/
def execMulh (d : Dst) (a b : Src) (s : State) : Ans := runWord (.mulh d a b) s fun s => intOp3 s d a b mulHigh
/-- MAD (17 R401). -/
def execMad (d : Dst) (a b : Src) (s : State) : Ans :=
  runWord (.mad d a b) s fun s => intOpD s d fun c grp l old =>
    some (c.fit (c.val (srcTy s grp l a c.ty) * c.val (srcTy s grp l b c.ty) + c.val old))
/-- DIV (17 R402). -/
def execDiv (d : Dst) (a b : Src) (s : State) : Ans := runWord (.div d a b) s fun s => intOp3 s d a b divBits
/-- REM (17 R402). -/
def execRem (d : Dst) (a b : Src) (s : State) : Ans := runWord (.rem d a b) s fun s => intOp3 s d a b remBits
/-- MIN (17 R400). -/
def execMinw (d : Dst) (a b : Src) (s : State) : Ans :=
  runWord (.minw d a b) s fun s => intOp3 s d a b fun c x y => c.bits (min (c.val x) (c.val y))
/-- MAX (17 R400). -/
def execMaxw (d : Dst) (a b : Src) (s : State) : Ans :=
  runWord (.maxw d a b) s fun s => intOp3 s d a b fun c x y => c.bits (max (c.val x) (c.val y))
/-- ABS (17 R403). -/
def execAbs (d : Dst) (a : Src) (s : State) : Ans :=
  runWord (.abs d a) s fun s => intOp2 s d a fun c x => c.fit (c.val x).natAbs
/-- NEG (17 R403). -/
def execNeg (d : Dst) (a : Src) (s : State) : Ans :=
  runWord (.neg d a) s fun s => intOp2 s d a fun c x => c.fit (-(c.val x))
/-- AND (17 R404). -/
def execAndw (d : Dst) (a b : Src) (s : State) : Ans :=
  runWord (.andw d a b) s fun s => intOp3 s d a b fun _ x y => x &&& y
/-- ANDI (17 R404). -/
def execAndi (d : Dst) (a : Src) (i : BitVec 8) (s : State) : Ans :=
  runWord (.andi d a i) s fun s => intOp2 s d a fun _ x => x &&& i.toNat
/-- OR (17 R404). -/
def execOrw (d : Dst) (a b : Src) (s : State) : Ans :=
  runWord (.orw d a b) s fun s => intOp3 s d a b fun _ x y => x ||| y
/-- ORI (17 R404). -/
def execOri (d : Dst) (a : Src) (i : BitVec 8) (s : State) : Ans :=
  runWord (.ori d a i) s fun s => intOp2 s d a fun _ x => x ||| i.toNat
/-- XOR (17 R404). -/
def execXorw (d : Dst) (a b : Src) (s : State) : Ans :=
  runWord (.xorw d a b) s fun s => intOp3 s d a b fun _ x y => x ^^^ y
/-- XORI (17 R404). -/
def execXori (d : Dst) (a : Src) (i : BitVec 8) (s : State) : Ans :=
  runWord (.xori d a i) s fun s => intOp2 s d a fun _ x => x ^^^ i.toNat
/-- ANDN (17 R404). -/
def execAndn (d : Dst) (a b : Src) (s : State) : Ans :=
  runWord (.andn d a b) s fun s => intOp3 s d a b fun c x y => x &&& notBits c y
/-- NOT (17 R403). -/
def execNotw (d : Dst) (a : Src) (s : State) : Ans := runWord (.notw d a) s fun s => intOp2 s d a notBits
/-- SHL (17 R404). -/
def execShl (d : Dst) (a b : Src) (s : State) : Ans := runWord (.shl d a b) s fun s => intOpC s d a b shlBits
/-- SHLI (17 R404). -/
def execShli (d : Dst) (a : Src) (i : BitVec 8) (s : State) : Ans :=
  runWord (.shli d a i) s fun s => intOp2 s d a fun c x => shlBits c x i.toNat
/-- SHR (17 R404). -/
def execShr (d : Dst) (a b : Src) (s : State) : Ans := runWord (.shr d a b) s fun s => intOpC s d a b shrBits
/-- SHRI (17 R404). -/
def execShri (d : Dst) (a : Src) (i : BitVec 8) (s : State) : Ans :=
  runWord (.shri d a i) s fun s => intOp2 s d a fun c x => shrBits c x i.toNat
/-- SRA (17 R404). -/
def execSra (d : Dst) (a b : Src) (s : State) : Ans := runWord (.sra d a b) s fun s => intOpC s d a b sraBits
/-- SRAI (17 R404). -/
def execSrai (d : Dst) (a : Src) (i : BitVec 8) (s : State) : Ans :=
  runWord (.srai d a i) s fun s => intOp2 s d a fun c x => sraBits c x i.toNat
/-- ROL (17 R404). -/
def execRol (d : Dst) (a b : Src) (s : State) : Ans := runWord (.rol d a b) s fun s => intOpC s d a b rolBits
/-- CLZ (17 R403). -/
def execClz (d : Dst) (a : Src) (s : State) : Ans := runWord (.clz d a) s fun s => intOp2 s d a clzBits
/-- POPC (17 R403). -/
def execPopc (d : Dst) (a : Src) (s : State) : Ans := runWord (.popc d a) s fun s => intOp2 s d a popBits
/-- BREV (17 R403). -/
def execBrev (d : Dst) (a : Src) (s : State) : Ans := runWord (.brev d a) s fun s => intOp2 s d a revBits
/-- BFX (17 R405). -/
def execBfx (d : Dst) (a b : Src) (s : State) : Ans := runWord (.bfx d a b) s fun s => intOpC s d a b bfxBits
/-- BFI (17 R405). -/
def execBfi (d : Dst) (a b : Src) (s : State) : Ans :=
  runWord (.bfi d a b) s fun s => intOpD s d fun c grp l old =>
    bfiBits c old (srcTy s grp l a c.ty) (srcCtl s grp l b)
/-- SEL (17 R406): D takes A where the predicate is 1 and keeps its value elsewhere. -/
def execSel (d : Dst) (a b : Src) (s : State) : Ans :=
  runWord (.sel d a b) s fun s => intOpD s d fun c grp l _ =>
    if (srcIn s grp l b false).getLsbD 0 then some (srcTy s grp l a c.ty) else none
/-- MOV (17 R403). -/
def execMov (d : Dst) (a : Src) (s : State) : Ans := runWord (.mov d a) s fun s => intOp2 s d a fun _ x => x
/-- LI (17 R407). -/
def execLi (d : Dst) (i : BitVec 16) (s : State) : Ans :=
  runWord (.li d i) s fun s => intOp2 s d .zero fun c _ => wrapN (sextN i.toNat 16) c.w
/-- LIH (17 R407): the high half of one 32-bit register. -/
def execLih (d : Dst) (i : BitVec 16) (s : State) : Ans :=
  runWord (.lih d i) s fun s =>
    spendFree (valueWord s d false fun grp l =>
      res32 (i.toNat * 2 ^ 16 + (oldDst s grp l d false).toNat % 2 ^ 16)) d
/-- LEA (17 R408). -/
def execLea (d : Dst) (a b : Src) (s : State) : Ans :=
  runWord (.lea d a b) s fun s =>
    let c := ictx s
    valueWord s d true fun grp l =>
      resOf (BitVec.ofNat 64 (wrapN ((srcIn s grp l a true).toNat + c.val (srcTy s grp l b c.ty) * tySize c.ty) 64))
/-- ADDC (17 R400). -/
def execAddc (d : Dst) (a b : Src) (s : State) : Ans := runWord (.addc d a b) s fun s => intOp3 s d a b carryBits
/-- CLAMP (17 R406): B decides when A > B. -/
def execClamp (d : Dst) (a b : Src) (s : State) : Ans :=
  runWord (.clamp d a b) s fun s => intOpD s d fun c grp l old =>
    some (c.bits (min (max (c.val old) (c.val (srcTy s grp l a c.ty))) (c.val (srcTy s grp l b c.ty))))

/-! ## Compares (17 R409) -/

/-- A compare of two values read in the type. -/
def cmpOp (s : State) (d : Dst) (a : Src) (y : Bool → Nat → Nat) (f : Int → Int → Bool) : State :=
  let c := ictx s
  valueWord s d false fun grp l => resOf (bit64 (f (c.val (srcTy s grp l a c.ty)) (c.val (y grp l))))

/-- A compare of two sources. -/
def cmpSrc (s : State) (d : Dst) (a b : Src) (f : Int → Int → Bool) : State :=
  cmpOp s d a (fun grp l => srcTy s grp l b (ictx s).ty) f

/-- CMPEQ (17 R409). -/
def execCmpeq (d : Dst) (a b : Src) (s : State) : Ans :=
  runWord (.cmpeq d a b) s fun s => cmpSrc s d a b fun x y => decide (x = y)
/-- CMPNE (17 R409). -/
def execCmpne (d : Dst) (a b : Src) (s : State) : Ans :=
  runWord (.cmpne d a b) s fun s => cmpSrc s d a b fun x y => decide (x ≠ y)
/-- CMPLT (17 R409). -/
def execCmplt (d : Dst) (a b : Src) (s : State) : Ans :=
  runWord (.cmplt d a b) s fun s => cmpSrc s d a b fun x y => decide (x < y)
/-- CMPLE (17 R409). -/
def execCmple (d : Dst) (a b : Src) (s : State) : Ans :=
  runWord (.cmple d a b) s fun s => cmpSrc s d a b fun x y => decide (x ≤ y)
/-- CMPEQI (17 R409). -/
def execCmpeqi (d : Dst) (a : Src) (i : BitVec 8) (s : State) : Ans :=
  runWord (.cmpeqi d a i) s fun s => cmpOp s d a (fun _ _ => (ictx s).imm i) fun x y => decide (x = y)
/-- CMPLTI (17 R409). -/
def execCmplti (d : Dst) (a : Src) (i : BitVec 8) (s : State) : Ans :=
  runWord (.cmplti d a i) s fun s => cmpOp s d a (fun _ _ => (ictx s).imm i) fun x y => decide (x < y)

/-! ## Single lanes (17 R410 to R413) -/

/-- VGET (17 R411). -/
def execVget (d : Dst) (a b : Src) (s : State) : Ans :=
  runWord (.vget d a b) s fun s =>
    let ty := (ictx s).ty
    writeGroup s d (isWide ty) (resTy ty (srcTy s false (srcCtl s true 0 b % 32) a ty))
/-- VPUT (17 R411). -/
def execVput (d : Dst) (a b : Src) (s : State) : Ans :=
  runWord (.vput d a b) s fun s =>
    let ty := (ictx s).ty
    let l := srcCtl s true 0 b % 32
    let r := resTy ty (srcTy s true 0 a ty)
    let s := modCurUnit s fun t =>
      clearRcl (wrLane t d (isWide ty) l r.reg) d (isWide ty) (laneBit l)
    latchOwn s r.lat
/-- VOTE (17 R412). -/
def execVote (d : Dst) (a : Src) (s : State) : Ans :=
  runWord (.vote d a) s fun s =>
    writeGroup s d false
      (res32 (maskOf ((execLanes s).filter fun l => (srcLane s a false l).getLsbD 0)).toNat)

/-- A reduction of CRED over the values of the lanes (17 R413). -/
def credOp (c : ICtx) (op : Nat) (xs : List Nat) : Nat :=
  if op = 0 then c.fit ((xs.map c.val).foldl (· + ·) 0)
  else if op = 1 then c.bits ((xs.map c.val).foldl min (intMax c.signed c.w))
  else if op = 2 then c.bits ((xs.map c.val).foldl max (intMin c.signed c.w))
  else if op = 3 then xs.foldl (· &&& ·) (2 ^ c.w - 1)
  else if op = 4 then xs.foldl (· ||| ·) 0
  else xs.foldl (· ^^^ ·) 0

/-- CRED (17 R413). -/
def execCred (d : Dst) (a : Src) (o : BitVec 3) (s : State) : Ans :=
  runWord (.cred d a o) s fun s =>
    let c := ictx s
    writeGroup s d (isWide c.ty) (resTy c.ty (credOp c o.toNat ((execLanes s).map fun l => srcTy s false l a c.ty)))

/-! ## Lane exchange (17 R414, R415) -/

/-- Each lane takes A of its source lane, or of itself when it finds none. -/
def exchange (s : State) (d : Dst) (a b : Src) (pick : Nat → Nat → Option Nat) : State :=
  let ty := (ictx s).ty
  writeLanes s d (isWide ty) ((execLanes s).map fun l =>
    (l, resTy ty (srcTy s false ((pick l (srcCtl s false l b)).getD l) a ty)))

/-- SHFL (17 R415). -/
def execShfl (d : Dst) (a b : Src) (s : State) : Ans :=
  runWord (.shfl d a b) s fun s => exchange s d a b fun _ x => some (x % 32)
/-- SHFLX (17 R415). -/
def execShflx (d : Dst) (a b : Src) (s : State) : Ans :=
  runWord (.shflx d a b) s fun s => exchange s d a b fun l x => some (l ^^^ (x % 32))
/-- SHFLUP (17 R415). -/
def execShflup (d : Dst) (a b : Src) (s : State) : Ans :=
  runWord (.shflup d a b) s fun s => exchange s d a b fun l x => if x > l then none else some (l - x)
/-- SHFLDN (17 R415). -/
def execShfldn (d : Dst) (a b : Src) (s : State) : Ans :=
  runWord (.shfldn d a b) s fun s => exchange s d a b fun l x => if l + x > 31 then none else some (l + x)
/-- BCAST (17 R415). -/
def execBcast (d : Dst) (a b : Src) (s : State) : Ans :=
  runWord (.bcast d a b) s fun s => exchange s d a b fun _ x => some (x % 32)

end Sys2Proof.Machine
end

