-- ==== Sys2Proof/Machine/Send.lean ====
section
/-! DEFINITION. Endpoints, cells and sessions as the other parts ask for them, and sending a message to a peer
(02 R41 to R43; 03 R59 to R62, R64; 04 R106). -/

namespace Sys2Proof.Machine

/-- This endpoint's number (01 R27). -/
def ownEp (s : State) : Nat := ctlField s 0x0000 0 7
/-- A session with a peer is live (02 R46). -/
def sessLive (s : State) (ep : Nat) : Bool := (mget? s.sess ep).isSome
/-- The cell of an endpoint, as far as this one knows it (03 R59). -/
def cellOf (s : State) (ep : Nat) : Option Nat :=
  if ep = ownEp s then
    if ctlField s 0x0200 31 1 = 1 then some (ctlField s 0x0200 0 6) else none
  else mget? s.peerCell ep
/-- A cell has been declared lost (03 R62). -/
def cellLost (s : State) (c : Nat) : Bool :=
  if c < 32 then bitN (ctlGet s 0x0208) c else bitN (ctlGet s 0x020C) (c - 32)
/-- An endpoint lies in a cell declared lost. -/
def epLost (s : State) (ep : Nat) : Bool :=
  decide (ep ≠ ownEp s) && !sessLive s ep && (cellOf s ep).any (cellLost s)
/-- An endpoint lies in this endpoint's cell. -/
def sameCell (s : State) (ep : Nat) : Bool :=
  decide (ep = ownEp s) || ((cellOf s ep).isSome && decide (cellOf s ep = cellOf s (ownEp s)))
/-- This endpoint's cell number; 0 when it has none. -/
def ownCell (s : State) : Nat := (cellOf s (ownEp s)).getD 0

/-- The stream of a message (02 R42; 03 R64; 04 R106). Arrivals at a home's barrier count as requests and its answers
as responses (notes/assumptions/14.md). -/
def msgStream : Msg → Nat
  | .rds _ => 0 | .rdown _ => 0 | .wrbk _ => 0
  | .data _ => 1 | .refuse _ => 1 | .cmp _ => 1 | .cmpack _ => 1
  | .inv _ => 2 | .fwds _ => 2 | .fwdown _ => 2 | .fwdrec _ => 2 | .binv _ => 2 | .ack _ => 2
  | .drds _ => 0 | .drdown _ => 0 | .dwrbk _ => 0
  | .ddata _ => 1 | .dcmp _ => 1
  | .dfwds _ => 2 | .dfwdown _ => 2 | .drecall _ => 2 | .dack _ => 2
  | .land _ => 3 | .landResult _ _ => 1
  | .lreq _ => 0 | .lreqResult _ _ => 1
  | .atomic _ => 0 | .atomicResult _ _ _ => 1
  | .harrive _ => 0 | .hdone _ => 1
  | .selack _ _ _ => 7 | .heartbeat _ _ _ _ _ => 7 | .channelNotice _ => 7 | .sessionEnd => 7
  | .spdm _ => 6

/-- Data bytes that a message carries. -/
def msgBytes : Msg → Nat
  | .wrbk _ => 128 | .data _ => 128 | .ack m => if m.data.isSome then 128 else 0
  | .ddata m => if m.data.isSome then 128 else 0
  | .dack m => if m.data.isSome then 128 else 0
  | .dwrbk _ => 128
  | .land m => m.data.length
  | .selack _ _ _ => 16
  | .heartbeat _ _ _ _ _ => 32
  | .atomic _ => 32
  | _ => 0

/-- Data flits of the packet that carries a message: one holds its fields where it carries no line or landing data
(02 R41; notes/assumptions/14.md). -/
def msgFlits (m : Msg) : Nat := min 8 (max 1 ((msgBytes m + 31) / 32))

/-- Hand a message to the port, charged to a context or to none: it waits in its stream and is sent as soon as the
window, the budget and a channel admit it (02 R43, R52). Without a session nothing is sent (02 R46). -/
def sendMsg (s : State) (ep : Nat) (charge : Option Nat) (m : Msg) : State :=
  match mget? s.sess ep with
  | none => s
  | some x =>
    let k := msgStream m
    let st := mgetD x.streams k {}
    let x := { x with streams := mset x.streams k { st with waiting := st.waiting ++ [(charge, m)] } }
    post { s with sess := mset s.sess ep x } 0 (.fabPacketTransmit ep k)

/-- A fabric transaction is timed by its context's TMO (02 R52, R54), in cycles. -/
def timeoutOf (x : Ctx) : Nat :=
  let t := bitsN x.fabcfg.toNat 0 13
  if t = 0 then 1800000 else 18000 * min t 6400

end Sys2Proof.Machine
end

