-- ==== Sys2Proof/Machine/Names.lean ====
section
/-! DEFINITION. Landing names and the landing table: the fields of a name, minting an entry, delivery, reclamation and
what a storer hears (11 R277 to R297; 10 R272). -/

namespace Sys2Proof.Machine

/-! ## The name (11 R277, R278) -/

/-- EP. -/
def nmEp (n : Dword) : Nat := bitsN n.toNat 57 7
/-- The core number of R13: DIE and CORE. -/
def nmCore (n : Dword) : Nat := 80 * bitsN n.toNat 55 2 + bitsN n.toNat 48 7
/-- ENTRY. -/
def nmEntry (n : Dword) : Nat := bitsN n.toNat 40 8
/-- NONCE. -/
def nmNonce (n : Dword) : Word := n.extractLsb' 8 32
/-- WIDTH. -/
def nmWidth (n : Dword) : Nat := bitsN n.toNat 4 4
/-- A malformed name. -/
def nmMalformed (n : Dword) : Bool :=
  decide (bitsN n.toNat 0 4 ≠ 0) || decide (5 < nmWidth n) || decide (79 < bitsN n.toNat 48 7) || decide (nmNonce n = 0)
/-- The name of an entry. -/
def mkName (ep core entry : Nat) (nonce : Word) (width : Nat) : Dword :=
  BitVec.ofNat 64 (ep * 2 ^ 57 + core / 80 * 2 ^ 55 + core % 80 * 2 ^ 48 + entry * 2 ^ 40 + nonce.toNat * 2 ^ 8 +
    width * 2 ^ 4)
/-- Bytes that a width code delivers. -/
def widthBytes (w : Nat) : Nat :=
  if w = 0 then 4 else if w = 1 then 8 else if w = 2 then 4 else if w = 3 then 8 else if w = 4 then 128 else 256
/-- A width code that binds a pair. -/
def widthPair (w : Nat) : Bool := decide (w % 2 = 1)

/-- The checks of a name at an issuer: its form and its endpoint (11 R278, R286). -/
def nameCheck (s : State) (n : Dword) : Option Cause :=
  if nmMalformed n then some .lnForeign
  else if nmEp n = ownEp s ∨ sessLive s (nmEp n) then none
  else if epLost s (nmEp n) then some .peerLost
  else some .lnForeign
/-- The checks at the storer (11 R286). -/
def storerCheck (s : State) (n : Dword) (width : Nat) : Option Cause :=
  match nameCheck s n with
  | some c => some c
  | none => if nmWidth n ≠ width then some .lnWidth else none

/-! ## Nonces and minting (11 R279, R280, R283) -/

/-- The next value of a core's shift register. -/
def nonceNext (x : Word) : Word := if x.getLsbD 0 then (x >>> 1) ^^^ 0x80200003 else x >>> 1
/-- The register of a core: the seed that the RTB drew is never 0 (notes/assumptions/4.md). -/
def nonceOf (s : State) (core : Nat) : Word :=
  match (getCore s core).nonce with
  | some x => x
  | none =>
    let x := Config.nonceSeed (320 * s.resetAt + core)
    if x = 0 then 1 else x
/-- An entry of a core's table. -/
def getEntry (s : State) (core e : Nat) : LEntry := mgetD (getCore s core).landing e {}
/-- Replace an entry. -/
def putEntry (s : State) (core e : Nat) (x : LEntry) : State :=
  modCore s core fun k => { k with landing := mset k.landing e x }
/-- The entries of a core that are LIVE. -/
def liveEntries (s : State) (core : Nat) : List (Nat × LEntry) :=
  (getCore s core).landing.filter fun e => decide (e.2.state = .live)
/-- The entries that a context holds LIVE. -/
def ctxLive (s : State) (core c : Nat) : Nat := ((liveEntries s core).filter fun e => decide (e.2.ctx = c)).length
/-- The lowest-numbered entry that is not LIVE. -/
def freeEntry (s : State) (core : Nat) : Option Nat :=
  (List.range 256).find? fun e => decide ((getEntry s core e).state ≠ .live)
/-- LIVE entries that one context may hold (11 R281). -/
def maxCtx (s : State) : Nat := max 1 (min 256 (ctlField s 0x2500 0 9))
/-- Entries are free for a mint of a context. -/
def mintRoom (s : State) (core c need : Nat) : Bool :=
  decide (need + (liveEntries s core).length ≤ 256) && decide (ctxLive s core c + need ≤ maxCtx s)

/-! ## Bound registers -/

/-- The registers that a code and a width name: code and, for a pair, the next one. -/
def boundCodes (reg width : Nat) : List Nat := if widthPair width then [reg, reg + 1] else [reg]
/-- The lanes that a width binds. -/
def boundLanes (width lane : Nat) : List Nat := if width < 2 then [lane] else if width < 4 then [] else List.range 32

/-- Set or clear the pending and RCL marks of a register: v registers by lane, g registers by unit. -/
def markReg (t : Thread) (pend rcl : Bool) (lanes : Mask) (code : Nat) : Thread :=
  let m (b : Bool) (x : Mask) : Mask := if b then x ||| lanes else x &&& ~~~ lanes
  if code < 0x80 then
    { t with
      vpend := mput t.vpend 0 code (m pend (mgetD t.vpend code 0))
      vrcl := mput t.vrcl 0 code (m rcl (mgetD t.vrcl code 0)) }
  else
    { t with gpend := mput t.gpend false (code - 0xC0) pend, grcl := mput t.grcl false (code - 0xC0) rcl }
/-- The same for each register of a binding. -/
def markBound (t : Thread) (pend rcl : Bool) (reg width lane : Nat) : Thread :=
  (boundCodes reg width).foldl (fun t c => markReg t pend rcl (maskOf (boundLanes width lane)) c) t
/-- A register is pending in the lanes that count. -/
def isPend (t : Thread) (code : Nat) (lanes : Mask) : Bool :=
  if code < 0x80 then decide (mgetD t.vpend code 0 &&& lanes ≠ 0) else mgetD t.gpend (code - 0xC0) false
/-- A register carries RCL in the lanes that count. -/
def isRcl (t : Thread) (code : Nat) (lanes : Mask) : Bool :=
  if code < 0x80 then decide (mgetD t.vrcl code 0 &&& lanes ≠ 0) else mgetD t.grcl (code - 0xC0) false

/-- The 4-byte element k of data. -/
def elem32 (d : List Byte) (k : Nat) : Word := BitVec.ofNat 32 (fieldB d (4 * k) 4)
/-- Write delivered bytes into a bound register (11 R277). -/
def writeBound (t : Thread) (reg width lane : Nat) (d : List Byte) : Thread :=
  if width = 0 then wrV t reg lane (elem32 d 0)
  else if width = 1 then wrV (wrV t reg lane (elem32 d 0)) (reg + 1) lane (elem32 d 1)
  else if width = 2 then wrG t (reg - 0xC0) (elem32 d 0)
  else if width = 3 then wrG (wrG t (reg - 0xC0) (elem32 d 0)) (reg + 1 - 0xC0) (elem32 d 1)
  else if width = 4 then (List.range 32).foldl (fun t l => wrV t reg l (elem32 d l)) t
  else (List.range 32).foldl (fun t l => wrV (wrV t reg l (elem32 d (2 * l))) (reg + 1) l (elem32 d (2 * l + 1))) t

/-- The status word of a reclamation (11 R294). -/
def statusReclaimed (reason : Nat) : Word := BitVec.ofNat 32 (0x18000000 + reason * 2 ^ 24)
/-- The status word of an engine: done, or failed, with a detail. -/
def statusEngine (ok : Bool) (detail : Nat) : Word :=
  BitVec.ofNat 32 ((if ok then 0 else 0x20000000) + detail % 2 ^ 24)
/-- The same word in every element of a width. -/
def fillWord (w : Word) (width : Nat) : List Byte :=
  (List.range (widthBytes width / 4)).flatMap fun _ => leBytes 4 w.toNat

/-! ## Delivery and reclamation (11 R286, R293; 10 R272) -/

/-- A later of two stamps (04 R99). -/
def stampMax (a b : Stamp) : Stamp :=
  if 0 < (b - a).toNat ∧ (b - a).toNat < 2 ^ 47 then b else a
/-- Raise a core's clock. -/
def raiseClock (s : State) (core : Nat) (t : Stamp) : State := modCore s core fun k => { k with lc := stampMax k.lc t }

/-- The landing store at the core that its name names: one step on the entry. It wins over a reclamation of the same cycle
(11 R293, R298). -/
def landAt (s : State) (m : LandMsg) : State × Option Cause :=
  let core := nmCore m.name
  let e := getEntry s core (nmEntry m.name)
  if e.state = .free then (s, some .lnStale)
  else if m.cls ≠ e.cls ∨ nmWidth m.name ≠ e.width then (s, some .lnForeign)
  else if e.nonce = nmNonce m.name ∧ (e.state = .live ∨ (e.state = .reclaimed ∧ e.ended = s.now + 1)) then
    let s := modUnit s e.ctx e.unit fun t => markBound (writeBound t e.reg e.width e.lane m.data) false false e.reg e.width e.lane
    let s := putEntry s core (nmEntry m.name) { e with state := .spent }
    let s := match m.clock with
      | some c => raiseClock s core c
      | none => s
    (s, none)
  else if e.nonce = nmNonce m.name ∧ e.state = .reclaimed then (s, some .lnStale)
  else (s, some .lnSecondUse)

/-- Reclaim a LIVE entry; reasons 2 and 3 write no status, and no store reaches a unit that is gone. -/
def reclaimEntry (s : State) (core e reason : Nat) : State :=
  let x := getEntry s core e
  if x.state ≠ .live then s
  else
    if reason = 2 ∨ reason = 3 then putEntry s core e { x with state := .reclaimed }
    else modUnit (putEntry s core e { x with state := .reclaimed, ended := s.now + 1 }) x.ctx x.unit fun t =>
        markBound (writeBound t x.reg x.width x.lane (fillWord (statusReclaimed reason) x.width)) false true x.reg
          x.width x.lane

/-- Reclaim every LIVE entry of a core that satisfies a test, lowest first. -/
def reclaimWhere (s : State) (core reason : Nat) (f : LEntry → Bool) : State :=
  (liveEntries s core).foldl (fun s e => if f e.2 then reclaimEntry s core e.1 reason else s) s

/-- The record of a fault of an engine that works for a unit, which stands at its own offset (13 R324). -/
def engineRecord (s : State) (c u : Nat) (cause : Cause) (detail xcode : Nat) (word : Word) (addr : Dword) : PendingFault :=
  let t := getUnit s c u
  { record := { cause := causeWord cause detail xcode, off := t.s0.off, mask := t.s0.mask, addr := addr, word := word }
    cause := cause, sup := true, held := false, slot := false, age := t.issued }
/-- A supervisor fault of an engine that works for a unit: the record is written and the context halts. No slot of the
unit is moved (11 R295; 13 R323, R324). -/
def engineHalt (s : State) (c u : Nat) (f : PendingFault) : State :=
  let die := dieOf (ctxCore (getCtx s c))
  haltCtx (if fltOn s die then ringWrite s die (recordBytes s c u f true) else s) c
/-- The same with no detail and no translation code. -/
def engineFault (s : State) (c u : Nat) (cause : Cause) (word : Word) (addr : Dword) : State :=
  engineHalt s c u (engineRecord s c u cause 0 0 word addr)

/-- A mill whose result sets out under this name waits for its delivery (12 R318). -/
def MillJob.awaits (j : MillJob) (c u : Nat) (name : Dword) : Bool :=
  decide (j.ctx = c) && decide (j.unit = u) && decide (j.phase = 1) && decide (leNat (sliceB j.desc 0x28 8) = name.toNat)
/-- A mill hears whether its result has been delivered. -/
def millHeard (s : State) (c u : Nat) (name : Dword) (ok : Bool) : State :=
  match s.mills.find? fun e => e.2.any fun j => j.awaits c u name with
  | none => s
  | some e =>
    let js := e.2.map fun j => if j.awaits c u name then { j with phase := if ok then 2 else 3 } else j
    post { s with mills := mset s.mills e.1 js } 0 (.millComplete e.1)
/-- MILLs of a cox that are outstanding (12 R299). -/
def millsOut (s : State) (c u : Nat) : Nat :=
  let fe := getFerry s c (getUnit s c u).ferry
  (s.mills.flatMap Prod.snd).countP fun j =>
    decide (j.ctx = c) && decide (j.unit = u) && decide (j.span = fe.span) && decide (j.index = fe.index)
/-- What the storer hears of a landing store: the outcome goes to its access, its engine or its endpoint. -/
def landHeard (s : State) (o : LandFrom) (name : Dword) (res : Option Cause) : State :=
  match o with
  | .unit r lane => post s 0 (.landingOutcome r lane res)
  | .engine c u word =>
    let s := if isCox u then modUnit s c u fun t => { t with cox := { t.cox with sent := t.cox.sent.erase name } } else s
    let s := millHeard s c u name res.isNone
    match res with
    | none => s
    | some cause => engineFault s c u cause word name
  | .peer ep tid => sendMsg s ep none (.landResult tid res)

/-- A landing store of this endpoint sets out: to a core of its own, or to a peer on stream 3. The storer of a peer's
answer is found again by its transaction number, and an engine's is timed here (02 R54). -/
def sendLanding (s : State) (charge : Nat) (m : LandMsg) : State :=
  if nmEp m.name = ownEp s then post s 0 (.landingStore m)
  else
    let tid := s.nextTxn
    let s := { s with nextTxn := tid + 1, landTxns := mset s.landTxns tid (m.name, m.origin) }
    let s := match m.origin with
      | .engine c _ _ => post s (timeoutOf (getCtx s c)) (.transactionTimeout (.landing tid))
      | _ => s
    sendMsg s (nmEp m.name) (some charge) (.land { m with origin := .peer (ownEp s) tid, clock := if sameCell s (nmEp m.name) then m.clock else none })

/-- An engine's completion through its name (11 R295): the status word, a second word for a register pair. -/
def deliverStatus (s : State) (c u : Nat) (name : Dword) (word status second : Word) : State :=
  let x := getCtx s c
  let data := leBytes 4 status.toNat ++ (if widthPair (nmWidth name) then leBytes 4 second.toNat else [])
  sendLanding s c { name := name, data := data, width := nmWidth name, cls := x.cls,
                    clock := some (getCore s (ctxCore x)).lc, origin := .engine c u word }

end Sys2Proof.Machine
end

