-- ==== Sys2Proof/Machine/Crews.lean ====
section
/-! DEFINITION. What crews do together: joins (07 R187), ferry barriers (07 R189 to R192), the regroup of REPACK
(08 R228 to R230), hierarchical barriers (07 R193 to R196), the exit of units and ferries (07 R188, 06 R173), and the
waits that end by themselves. -/

namespace Sys2Proof.Machine

/-! ## Slots that are held -/

/-- A held slot goes on past the word that holds it. -/
def passSlot (x : Slot) : Slot := { x with off := x.off + 4, hold := .none, waited := false, stage := 0 }
/-- The word that waits issues again and acts. -/
def rearmSlot (x : Slot) : Slot := { x with hold := .none, waited := true }
/-- Change the occupied slots and the stack entries of a unit. -/
def mapSlots (t : Thread) (f : Slot → Slot) : Thread :=
  let g (x : Slot) : Slot := if x.occ then f x else x
  { t with s0 := g t.s0, s1 := g t.s1, stack := t.stack.map f }
/-- The keys of a context's units. -/
def unitKeys (s : State) (c : Nat) : List Nat := (getCtx s c).units.map Prod.fst
/-- The units of a ferry. -/
def ferryUnits (s : State) (c f : Nat) : List Nat :=
  (unitKeys s c).filter fun u => (getUnit s c u).live && decide ((getUnit s c u).ferry = f)
/-- Every slot of some units that passes a test goes on. -/
def passWhere (s : State) (c : Nat) (us : List Nat) (p : Slot → Bool) : State :=
  us.foldl (fun s u => modUnit s c u fun t => mapSlots t fun x => if p x then passSlot x else x) s

/-! ## JOIN (07 R185, R187) -/

/-- A load or an atomic that has not completed. -/
def returning (a : Access) : Bool :=
  !a.done && match a.kind with
    | .load => true
    | .acquire => true
    | .atomic _ => true
    | .ldl => true
    | .ldx => true
    | _ => false
/-- A word of the slot can still fault: the slot is not past it (03 R85, R86). -/
def slotOpen (t : Thread) (b : Bool) : Bool :=
  t.flight.any fun a => decide (a.slot = b) && (returning a || (a.firm && !a.done))
/-- A slot at the offset of a JOIN is merged whatever it waits for there, unless a fault has stopped it or its arrival at a
barrier is being recorded (13 R324, R329; 07 R192; notes/assumptions/55.md). -/
def joinable (x : Slot) : Bool :=
  match x.hold with
  | .entering => false
  | .supervised => false
  | .arriving _ _ _ _ _ => false
  | .harriving _ _ _ => false
  | _ => true
/-- Re-examine slot b, held at a JOIN. A slot that has not executed the JOIN is merged once its earlier words can fail no more. -/
def joinStep (t : Thread) (b : Bool) : Thread :=
  let x := slotOf t b
  let y := slotOf t (!b)
  if !x.occ || decide (x.hold ≠ .join) then t
  else if y.occ && decide (y.off = x.off) && joinable y && (decide (y.hold = .join) || !slotOpen t (!b)) then
    popStack { t with s0 := { occ := true, off := x.off + 4, mask := x.mask ||| y.mask }, s1 := {} }
  else if !y.occ then putSlot t b (passSlot x)
  else if decide (y.hold = .join) && decide (y.off ≠ x.off) then
    if x.off.toNat < y.off.toNat then putSlot t b (passSlot x) else putSlot t (!b) (passSlot y)
  else t
/-- A slot that has become empty: the other one is released from its JOIN before the stack pops into it. -/
def afterEmpty (t : Thread) (b : Bool) : Thread := popStack (joinStep t (!b))

/-! ## REPACK's regroup (08 R229, R230) -/

/-- What travels with a lane. -/
structure Column where
  v : Map Word
  p : List Nat
  plane : Nat
  crew : Nat
  lp : Option Xlat
  sr : Option Word
  pend : List Nat
  rcl : List Nat
  deriving DecidableEq, Repr

/-- The state of lane l of a crew. -/
def takeColumn (t : Thread) (l : Nat) : Column :=
  { v := t.v.filterMap fun e => if e.1 % 32 = l then some (e.1 / 32, e.2) else none
    p := (List.range 8).filter fun k => (rdP t k).getLsbD l
    plane := lanePlane t l
    crew := laneCrew t l
    lp := mget? t.lp l
    sr := mget? t.sr l
    pend := t.vpend.filterMap fun e => if e.2.getLsbD l then some e.1 else none
    rcl := t.vrcl.filterMap fun e => if e.2.getLsbD l then some e.1 else none }
/-- Set or clear a lane's bit in the masks of some keys. -/
def putMarks (m : Map Mask) (l : Nat) (ks : List Nat) : Map Mask :=
  let cleared := m.filterMap fun e =>
    let x := e.2 &&& ~~~ laneBit l
    if x = 0 then none else some (e.1, x)
  ks.foldl (fun m k => mput m 0 k (mgetD m k 0 ||| laneBit l)) cleared
/-- Give lane l of a crew another lane's state. -/
def putColumn (t : Thread) (l : Nat) (k : Column) : Thread :=
  let v := k.v.foldl (fun m e => mput m 0 (32 * e.1 + l) e.2) (t.v.filter fun e => decide (e.1 % 32 ≠ l))
  { t with
    v := v
    p := putMarks t.p l k.p
    plane := mput t.plane 0 l k.plane
    crewId := mset t.crewId l k.crew
    lp := match k.lp with | some x => mset t.lp l x | none => mdel t.lp l
    sr := match k.sr with | some x => mset t.sr l x | none => mdel t.sr l
    vpend := putMarks t.vpend l k.pend
    vrcl := putMarks t.vrcl l k.rcl }

/-- Insert a crew into a list sorted by plane; crews come in ascending order, so ties keep it. -/
def insertByPlane (x : Nat × Nat) : List (Nat × Nat) → List (Nat × Nat)
  | [] => [x]
  | y :: t => if x.1 < y.1 then x :: y :: t else y :: insertByPlane x t
/-- For lane l, the crews in the order in which the crews take their lanes. -/
def laneOrder (ts : List (Nat × Thread)) (l : Nat) : List Nat :=
  (ts.foldl (fun acc u => insertByPlane (lanePlane u.2 l, u.1) acc) []).map Prod.snd
/-- The lane names of an entry after the regroup: the unit that now holds lane l of unit u. -/
def newHolder (ts : List (Nat × Thread)) (u l : Nat) : Nat :=
  (((laneOrder ts l).zip (ts.map Prod.fst)).find? fun e => decide (e.1 = u)).elim u Prod.snd
/-- Regroup the lanes of crews, given in ascending crew number. -/
def regroup (s : State) (c : Nat) (us : List Nat) : State :=
  let ts := us.map fun u => (u, getUnit s c u)
  let colOf (u l : Nat) : Column := takeColumn (getUnit s c u) l
  let placed := us.zipIdx.map fun e =>
    (e.1, (List.range 32).foldl (fun t l => putColumn t l (colOf ((laneOrder ts l).getD e.2 e.1) l)) (getUnit s c e.1))
  let s' := placed.foldl (fun s e => putUnit s c e.1 { e.2 with q := [] }) s
  let core := (getCtx s c).home
  modCore s' core fun k => { k with landing := k.landing.map fun e =>
    if e.2.ctx = c ∧ e.2.width < 2 ∧ e.2.unit ∈ us then (e.1, { e.2 with unit := newHolder ts e.2.unit e.2.lane })
    else e }

/-! ## Ferry barriers (07 R189 to R192; 12 R313) -/

/-- A barrier of a ferry. -/
def getBar (s : State) (c f b : Nat) : Bar := mgetD (getFerry s c f).bars b {}
/-- Replace it. -/
def putBar (s : State) (c f b : Nat) (x : Bar) : State := modFerry s c f fun fe => { fe with bars := mset fe.bars b x }
/-- A unit of a ferry is still expected: it has not exited. -/
def goesOn (s : State) (c u : Nat) : Bool := (getUnit s c u).live && !(getUnit s c u).exited
/-- The expected set of an instance that opens now. -/
def expectedAt (s : State) (c f b : Nat) : List Nat :=
  (ferryUnits s c f).filter fun u =>
    goesOn s c u &&
      (isCrew u || (isCox u && (getFerry s c f).bexp.getLsbD b) || (isCarter u && (getFerry s c f).bexp.getLsbD (16 + b)))
/-- An instance that no unit keeps open. -/
def instDone (s : State) (c : Nat) (i : BarInst) : Bool :=
  i.expected.all fun u => decide (u ∈ i.arrived) || !goesOn s c u
/-- Instance k of a barrier has completed. -/
def barOver (x : Bar) (k : Nat) : Bool := (x.inst.map BarInst.num) ≠ some k
/-- The crews of an instance that take part in a regroup, in ascending crew number. -/
def regroupCrews (s : State) (c : Nat) (i : BarInst) : List Nat :=
  let us := i.arrived.filter fun u => isCrew u && goesOn s c u
  (List.range 64).flatMap fun n => us.filter fun u => decide ((getUnit s c u).num = n)
/-- The ABFT fault of a crew slot that arrived at a failed instance (13 R482). -/
def abftFault (r : TrapRec) (age : Nat) : PendingFault :=
  { record := { r with cause := causeWord .abft 0 0 }, cause := .abft, sup := false, held := false, slot := false, age := age }
/-- Complete the open instance of a barrier if nothing keeps it open: the regroup, the release of every waiting slot,
and the traps of a failed instance. -/
def completeBar (s : State) (c f b : Nat) : State :=
  match (getBar s c f b).inst with
  | none => s
  | some i =>
    if !instDone s c i then s
    else
      let s := putBar s c f b { getBar s c f b with inst := none }
      let s := if i.repack.isSome then regroup s c (regroupCrews s c i) else s
      let s := passWhere s c (ferryUnits s c f) fun x => decide (x.hold = .barrier b i.num)
      if i.failed then
        i.slots.foldl (fun s e => modUnit s c e.1 fun t => { t with late := t.late ++ [abftFault e.2.1 e.2.2] }) s
      else s
/-- Every open instance of a ferry is looked at again. -/
def completeBars (s : State) (c f : Nat) : State := (List.range 16).foldl (fun s b => completeBar s c f b) s

/-- How a unit arrives. -/
inductive ArriveAs where
  | plain
  | repack (off : Word)
  | rdv
  deriving DecidableEq, Repr

/-- A crew's arrival breaks R228: a plain arrival at a repack instance, or a REPACK at another instance. -/
def arriveBad (s : State) (c u b : Nat) (w : ArriveAs) : Bool :=
  if !isCrew u then false
  else match (getBar s c (getUnit s c u).ferry b).inst with
    | none => false
    | some i =>
      match w with
      | .plain => i.repack.isSome
      | .repack o => i.plain || (i.repack.isSome && decide (i.repack ≠ some o))
      | .rdv => false
/-- A word of the cox marks the instance failed and reports the first failing drain (12 R313). -/
def coxFails (s : State) (c u : Nat) : Bool := isCox u && (getUnit s c u).cox.failed.isSome
/-- The engine writes the $abft registers and forgets the failing drain. -/
def coxReports (s : State) (c u : Nat) : State :=
  match (getUnit s c u).cox.failed with
  | none => s
  | some a =>
    let s := modCtx s c fun x => { x with abft := a }
    modUnit s c u fun t => { t with cox := { t.cox with failed := none } }
/-- Record an arrival of a unit at barrier b; r is what an ABFT trap of the arriving slot records,
and age the issue order of the word. -/
def recordArrival (s : State) (c u b : Nat) (w : ArriveAs) (r : TrapRec) (age : Nat) : State :=
  let f := (getUnit s c u).ferry
  let fails := coxFails s c u
  let s := if fails then coxReports s c u else s
  let x := getBar s c f b
  let i : BarInst := x.inst.getD { num := x.opened + 1, expected := expectedAt s c f b, arrived := [] }
  let i := { i with
    arrived := addOnce i.arrived u
    failed := i.failed || fails
    plain := i.plain || (isCrew u && decide (w = .plain))
    repack := match w with
      | .repack o => some o
      | _ => i.repack
    slots := if isCrew u then i.slots ++ [(u, r, age)] else i.slots }
  let s := putBar s c f b { opened := i.num, inst := some i }
  modUnit s c u fun t => { t with barAt := mset t.barAt b i.num }

/-- The accesses of a unit that an arrival waits for: XS, GS and FB, or every path for a REPACK (07 R192, 08 R228). -/
def arrivalIds (t : Thread) (repack : Bool) : List Nat :=
  (t.flight.filter fun a => !a.done && (repack || decide (1 ∈ a.paths) || decide (3 ∈ a.paths) || decide (4 ∈ a.paths))).map
    Access.id
/-- The halo pushes of a context that have not been written. -/
def pushIds (s : State) (c : Nat) : List Nat := (getCtx s c).pushes.map Push.id
/-- Every push of some numbers has been written (04 R118). -/
def pushesOver (s : State) (c : Nat) (ids : List Nat) : Bool := ids.all fun k => decide (k ∉ pushIds s c)
/-- The unit has arrived at the open instance of a barrier: another slot that reaches it joins it (07 R191). -/
def hasArrived (s : State) (c u b : Nat) : Bool :=
  (getBar s c (getUnit s c u).ferry b).inst.any fun i => decide (u ∈ i.arrived)
/-- None of some accesses is in flight. -/
def idsDone (t : Thread) (ids : List Nat) : Bool := t.flight.all fun a => a.done || decide (a.id ∉ ids)
/-- How the word of an arriving slot arrives. -/
def arriveKind (repack : Option Word) : ArriveAs :=
  match repack with
  | some o => .repack o
  | none => .plain

/-! ## Hierarchical barriers (07 R193 to R197) -/

/-- Two arrivals name one instance: ASID, level, scope unit and id. -/
def sameKey (a b : HArrival) : Bool :=
  decide (a.asid = b.asid) && decide (a.level = b.level) && decide (a.scope = b.scope) && decide (a.id = b.id)
/-- Two arrivals are of one ferry. -/
def sameFerry (a b : HArrival) : Bool :=
  decide (a.ep = b.ep) && decide (a.span = b.span) && decide (a.index = b.index)
/-- Two waits are of one engine. -/
def sameEngine (a b : HArrival) : Bool :=
  decide (a.ep = b.ep) && decide (a.ctx = b.ctx) && decide (a.ferry = b.ferry)
/-- The ferries that count at an instance: those that arrived, and standing arrivals that did not. -/
def hCounted (s : State) (i : HInst) : List HArrival :=
  i.arrived ++ (s.hstand.filter fun a => sameKey a i.key && !(i.arrived.any (sameFerry a)))
/-- The highest clock that arrivals from a cell carry. -/
def hClock (cell : Nat) (as : List HArrival) : Option Stamp :=
  (as.filter fun a => decide (a.cell = cell)).foldl
    (fun m a => some (match m with | none => a.clock | some t => stampMax t a.clock)) none
/-- A slot waits in an arrival that passes a test, recorded or not. -/
def hWaits (p : HArrival → Bool) (x : Slot) : Bool :=
  match x.hold with
  | .hbar a => p a
  | .harriving a _ _ => p a
  | _ => false
/-- A slot or a stack entry of a unit passes a test. -/
def anySlot (t : Thread) (p : Slot → Bool) : Bool := (t.s0.occ && p t.s0) || (t.s1.occ && p t.s1) || t.stack.any p
/-- An instance has completed for a ferry that arrived at it, or for an engine that waits: its core's clock rises, and its
slots go on (07 R196). -/
def hRelease (s : State) (clock : Option Stamp) (a : HArrival) : State :=
  let here (x : Slot) : Bool :=
    match x.hold with
    | .hbar h => sameKey h a
    | _ => false
  match a.kind with
  | .waiter => passWhere s a.ctx [a.ferry] here
  | .now =>
    let s := match clock with
      | some t => raiseClock s a.core t
      | none => s
    let fe := getFerry s a.ctx a.ferry
    if fe.span = a.span ∧ fe.index = a.index then
      let s := modFerry s a.ctx a.ferry fun fe => { fe with hmade := fe.hmade.filter fun x => !sameKey x a }
      passWhere s a.ctx ((ferryUnits s a.ctx a.ferry).filter isCrew) here
    else s
  | _ => s
/-- The instance of a key completes when enough ferries have arrived: each of them and every engine that waits is told. -/
def hComplete (s : State) (key : HArrival) : State :=
  match s.hbars.find? fun i => sameKey i.key key with
  | none => s
  | some i =>
    let as := hCounted s i
    if as.length < i.count then s
    else
      let told := as.filter (fun a => decide (a.kind = .now)) ++ s.hwait.filter fun a => sameKey a key
      let s := { s with
        hbars := s.hbars.filter fun x => !sameKey x.key key
        hwait := s.hwait.filter fun a => !sameKey a key }
      let clock := hClock (ownCell s) as
      told.foldl (fun s a => if a.ep = ownEp s then hRelease s clock a
        else sendMsg s a.ep none (.hdone { a with home := ownEp s, clock := clock.getD 0 })) s
/-- An arrival reaches the hardware or the home that combines the instance. -/
def hArrive (s : State) (a : HArrival) : State :=
  match a.kind with
  | .discard => { s with hstand := s.hstand.filter fun x => !(sameKey x a && sameFerry x a) }
  | .standing => hComplete { s with hstand := (s.hstand.filter fun x => !(sameKey x a && sameFerry x a)) ++ [a] } a
  | .waiter => { s with hwait := (s.hwait.filter fun x => !(sameKey x a && sameEngine x a)) ++ [a] }
  | .now =>
    let s := match s.hbars.find? fun i => sameKey i.key a with
      | none => { s with hbars := s.hbars ++ [{ key := a, count := max 1 a.count, arrived := [a] }] }
      | some _ =>
        let add (i : HInst) : HInst :=
          if sameKey i.key a && !(i.arrived.any (sameFerry a)) then { i with arrived := i.arrived ++ [a] } else i
        { s with hbars := s.hbars.map add }
    hComplete s a
/-- Where an instance is combined: at H for CELL and DOMAIN levels. -/
def hRemote (s : State) (a : HArrival) : Bool :=
  (decide (a.level = .cell) || decide (a.level = .domain)) && decide (a.home ≠ ownEp s)
/-- A ferry arrives at a hierarchical barrier (07 R194). -/
def ferryArrives (s : State) (a : HArrival) : State :=
  let s := if a.kind = .now then
      modFerry s a.ctx a.ferry fun fe => { fe with
        hcrews := fe.hcrews.filter fun x => !sameKey x.1 a
        hmade := fe.hmade ++ [a]
        hbarUsed := if fe.hbarUsed.any (sameKey a) then fe.hbarUsed else fe.hbarUsed ++ [a] }
    else s
  post s 0 (.hbarArrival { a with clock := (getCore s a.core).lc })
/-- The ferry arrives once every crew that has not exited has arrived; the arrival is the one of its first crew. -/
def ferryCheck (s : State) (c f : Nat) (a : HArrival) : State :=
  let hs := (getFerry s c f).hcrews
  match hs.find? fun x => sameKey x.1 a with
  | none => s
  | some x =>
    if ((ferryUnits s c f).filter isCrew).all fun u =>
        !goesOn s c u || hs.any (fun y => sameKey y.1 a && decide (y.2 = u)) then ferryArrives s x.1
    else s
/-- Record a crew's arrival at a hierarchical barrier. A slot that comes after its ferry's arrival joins the instance
(07 R191, R194). -/
def recordHbar (s : State) (c u : Nat) (a : HArrival) : State :=
  let f := (getUnit s c u).ferry
  if (getFerry s c f).hmade.any (sameKey a) then s
  else ferryCheck (modFerry s c f fun fe => { fe with hcrews := fe.hcrews ++ [(a, u)] }) c f a

/-! ## Arrivals that are recorded later (07 R192; 12 R300) -/

/-- The cox has no command left that a barrier waits for, and no drain status on its way (12 R300). -/
def coxIdle (t : Thread) : Bool := t.cox.cmds.isEmpty && t.cox.sent.isEmpty

/-- Nothing is left that a waiting arrival waits for: what its record needs has completed, or its unit has arrived at the
instance already (07 R191, R192). -/
def arriveReady (s : State) (c u : Nat) (x : Slot) : Bool :=
  match x.hold with
  | .arriving b ids ps rp _ =>
    (rp.isNone && hasArrived s c u b) ||
      (idsDone (getUnit s c u) ids && pushesOver s c ps && coxIdle (getUnit s c u))
  | .harriving a ids ps =>
    (getFerry s c (getUnit s c u).ferry).hmade.any (sameKey a) || (idsDone (getUnit s c u) ids && pushesOver s c ps)
  | _ => false
/-- A PLANE_ALIGN of a slot that waits at a barrier word (08 R228). -/
def alignLate (s : State) (c u : Nat) (b : Bool) : State :=
  let t := getUnit s c u
  let x := slotOf t b
  raiseFault s c u { record := { x.barRec with cause := causeWord .planeAlign 0 0, off := x.off, mask := x.mask },
                     cause := .planeAlign, sup := false, held := false, slot := b, age := x.barAge }
/-- Where the slot stands once its arrival is recorded. -/
def afterArrival (s : State) (c u : Nat) (x : Slot) : Slot :=
  match x.hold with
  | .arriving b _ _ _ on =>
    if on then passSlot x else { x with hold := .barrier b (mgetD (getUnit s c u).barAt b 0) }
  | .harriving a _ _ => { x with hold := .hbar a }
  | _ => x
/-- Record the arrival in which slot x of a unit waits; put says where its slot stands afterwards, and bad what a
PLANE_ALIGN does. -/
def recordSlot (s : State) (c u : Nat) (x : Slot) (put : Thread → Slot → Thread) (bad : State → State) : State :=
  if !arriveReady s c u x then s
  else
    match x.hold with
    | .arriving n _ _ rp _ =>
      if arriveBad s c u n (arriveKind rp) then bad s
      else
        let s := recordArrival s c u n (arriveKind rp) x.barRec x.barAge
        modUnit s c u fun t => put t (afterArrival s c u x)
    | .harriving a _ _ =>
      let s := modUnit s c u fun t => put t (afterArrival s c u x)
      if isCrew u then recordHbar s c u a else s
    | _ => s
/-- Record the arrival of slot b, when nothing it waits for is left. -/
def recordReady (s : State) (c u : Nat) (b : Bool) : State :=
  let x := slotOf (getUnit s c u) b
  if x.occ then recordSlot s c u x (fun t y => putSlot t b y) (fun s => alignLate s c u b) else s
/-- The same for the entries of the divergence stack. -/
def recordStack (s : State) (c u : Nat) : State :=
  (getUnit s c u).stack.zipIdx.foldl (fun s e =>
    recordSlot s c u e.1 (fun t y => { t with stack := t.stack.set e.2 y }) id) s
/-- Every slot and stack entry of a unit whose arrival can be recorded is: one that is recorded lets the others join its
instance, before the instance is looked at (07 R191). -/
def recordUnit (s : State) (c u : Nat) : State :=
  let go (s : State) : State := recordStack (recordReady (recordReady s c u false) c u true) c u
  completeBars (go (go s)) c (getUnit s c u).ferry

/-! ## Exits (07 R188, R195; 06 R173; 11 R293) -/

/-- The span of a ferry has lost one more of its ferries; the last one completes it. -/
def spanExit (s : State) (k : Nat) (standing : List HArrival) : State :=
  match mget? s.spans k with
  | none => s
  | some x =>
    let x := { x with exited := x.exited + 1, standing := x.standing ++ standing }
    let s := { s with spans := mset s.spans k x }
    if x.exited = x.total ∧ !x.abandoned then post s 0 (.spanComplete k) else s
/-- Every unit of a ferry is over. -/
def ferryOver (s : State) (c f : Nat) : Bool := (ferryUnits s c f).all fun u => !goesOn s c u
/-- A ferry exits: its standing arrivals are left behind, its resources are free, and its span counts it. -/
def ferryExit (s : State) (c f : Nat) : State :=
  let fe := getFerry s c f
  let st := fe.hbarUsed.map fun a => { a with kind := .standing }
  let s := st.foldl (fun s a => ferryArrives s a) s
  let s := modCtx s c fun x => { x with
    ferries := mdel x.ferries f
    units := x.units.map fun e => if e.2.ferry = f then (e.1, { e.2 with live := false }) else e
    tiles := x.tiles.filter fun e => decide (e.1 ∉ fe.accTiles) }
  spanExit s fe.span st
/-- A unit has executed EXIT for its last lanes: it counts as arrived wherever it was expected, its names end, and the
ferry exits with its last unit. -/
def exitUnit (s : State) (c u : Nat) : State :=
  let f := (getUnit s c u).ferry
  let s := modUnit s c u fun t => { t with exited := true, susp := [] }
  let s := reclaimWhere s (getCtx s c).home 2 fun e => decide (e.ctx = c) && decide (e.unit = u)
  let s := completeBars s c f
  let s := ((getFerry s c f).hcrews.map Prod.fst).foldl (fun s a => ferryCheck s c f a) s
  if ferryOver s c f then ferryExit s c f else s

/-! ## Waits that end by themselves -/

/-- The count of a path (07 R198). -/
def pathCount (t : Thread) (p : Nat) : Nat := (t.flight.filter fun a => decide (p ∈ a.paths)).length
/-- A completed access lowers each of its counters once every older access on that path has completed (07 R198). -/
def popFlight (t : Thread) : Thread :=
  let older (a : Access) (p : Nat) : Bool := t.flight.any fun b => !b.done && decide (b.id < a.id) && decide (p ∈ b.paths)
  let g (a : Access) : Option Access :=
    if !a.done then some a
    else
      let ps := a.paths.filter (older a)
      if ps.isEmpty then none else some { a with paths := ps }
  { t with flight := t.flight.filterMap g }
/-- An LWAIT's register is clear in the lanes that count (11 R289, R290). -/
def lwaitOver (t : Thread) (x : Slot) (reg : Nat) : Bool := !isPend t reg (guardMask t x.mask)
/-- A hold whose condition has ended. -/
def waitOver (s : State) (c u : Nat) (x : Slot) : Slot :=
  let t := getUnit s c u
  match x.hold with
  | .lwait reg => if lwaitOver t x reg then passSlot x else x
  | .waitc p n => if pathCount t p ≤ n then passSlot x else x
  | .drain ids => if idsDone t ids then rearmSlot x else x
  | .release ids => if idsDone t ids then { x with hold := .none, stage := 1 } else x
  | .settle keys lines =>
    if keys.any (fun k => (mget? s.wb k).isSome) || lines.any (fun l => decide (l ∈ t.invs)) then x
    else { x with hold := .none, stage := 2 }
  | .mint need => if mintRoom s (getCtx s c).home c need then rearmSlot x else x
  | .busy => if isCarter u && decide (t.copies.length < 8) || isCox u && decide (millsOut s c u < 4) && decide (s.throttle = 0) then rearmSlot x else x
  | _ => x
/-- A stack entry whose LWAIT or WAITC has ended is past it, and stays so when it is popped (07 R186). -/
def stackWait (t : Thread) (x : Slot) : Slot :=
  match x.hold with
  | .lwait reg => if lwaitOver t x reg then passSlot x else x
  | .waitc p n => if pathCount t p ≤ n then passSlot x else x
  | _ => x
/-- Look at a unit's slots again after a step: counters, waits, joins and faults that wait. -/
def settleUnit (s : State) (c u : Nat) : State :=
  let s := modUnit s c u popFlight
  let s := modUnit s c u fun t =>
    let g (x : Slot) : Slot := if x.occ then waitOver s c u x else x
    let t := { t with s0 := g t.s0, s1 := g t.s1, stack := t.stack.map (stackWait t), block := t.block.filter fun k => !idsDone t [k] }
    if t.inh then t else joinStep (joinStep t false) true
  raiseLate s c u
/-- A context becomes active: a mint that waited at the switch point has not taken effect and is issued again, with a wait
of its own (11 R296). -/
def resumeMints (s : State) (c : Nat) : State :=
  let g (x : Slot) : Slot := match x.hold with
    | .mint _ => { x with hold := .none, waited := false, stage := 0 }
    | _ => x
  (unitKeys s c).foldl (fun s u => modUnit s c u fun t => mapSlots t g) s
/-- Settle every unit of every context. -/
def settle (s : State) : State :=
  (s.ctxs.map Prod.fst).foldl (fun s c => (unitKeys s c).foldl (fun s u => settleUnit s c u) s) s

end Sys2Proof.Machine
end

