-- ==== Sys2Proof/Machine/Control.lean ====
section
/-! DEFINITION. Control and crew words, opcodes 0x00 to 0x1B: branches, divergence, barriers, modes, waits and planes
(07 R182 to R200; 08 R224 to R231; 17 R390 to R396). -/

namespace Sys2Proof.Machine

/-! ## Branches (07 R183; 17 R391 to R393) -/

/-- Go to an offset instead of the next one. -/
def goTo (s : State) (o : Word) : State := modCur s fun k => { k with goto := some o }
/-- Go to the branch's own offset + 4 × DISP, modulo 2^32. -/
def branchTo (s : State) (t : BitVec 20) : State := goTo s (s.cur.off + 4 * t.signExtend 32)
/-- The lanes of Exec(slot) in which the P field is 1; every lane or none for a gp bit. -/
def predMask (s : State) (p : PredField) : Mask :=
  match p with
  | .p k => execMask s &&& rdP (curUnit s) k.val
  | .gp k => if rdGp (curUnit s) k.val then execMask s else 0
  | .reserved _ => 0
/-- BANY is taken. -/
def takenAny (s : State) (p : PredField) : Bool :=
  match p with
  | .gp k => rdGp (curUnit s) k.val
  | .p _ => decide (predMask s p ≠ 0)
  | .reserved _ => false
/-- BALL is taken. -/
def takenAll (s : State) (p : PredField) : Bool :=
  match p with
  | .gp k => rdGp (curUnit s) k.val
  | .p _ => decide (predMask s p = execMask s)
  | .reserved _ => false
/-- BNONE is taken. -/
def takenNone (s : State) (p : PredField) : Bool :=
  match p with
  | .gp k => !rdGp (curUnit s) k.val
  | .p _ => decide (predMask s p = 0)
  | .reserved _ => false

/-- ILL (17 R391): ILLEGAL (instruction) in every unit. -/
def execIll (x : BitVec 24) (s : State) : Ans := runWord (.ill x) s id
/-- NOP (17 R391). -/
def execNop (s : State) : Ans := runWord .nop s id
/-- BRA (07 R183). -/
def execBra (t : BitVec 20) (s : State) : Ans := runWord (.bra t) s fun s => branchTo s t
/-- BANY (07 R183). -/
def execBany (p : PredField) (t : BitVec 20) (s : State) : Ans :=
  runWord (.bany p t) s fun s => if takenAny s p then branchTo s t else s
/-- BALL (07 R183). -/
def execBall (p : PredField) (t : BitVec 20) (s : State) : Ans :=
  runWord (.ball p t) s fun s => if takenAll s p then branchTo s t else s
/-- BNONE (07 R183). -/
def execBnone (p : PredField) (t : BitVec 20) (s : State) : Ans :=
  runWord (.bnone p t) s fun s => if takenNone s p then branchTo s t else s
/-- Write a g register from a word that is no value word. -/
def putG (s : State) (n : Nat) (x : Word) : State :=
  modCurUnit s fun t => { wrG t n x with grcl := mput t.grcl false n false }
/-- CALL (17 R392). -/
def execCall (t : BitVec 20) (s : State) : Ans :=
  runWord (.call t) s fun s => branchTo (putG s 63 (s.cur.off + 4)) t
/-- A g register that a source names. -/
def gOf (s : State) (a : Src) : Word := (srcGroup s a false).setWidth 32
/-- The g pair that a source names. -/
def ggOf (s : State) (a : Src) : Dword := srcGroup s a true
/-- Write the g register that a destination names, if it names one. -/
def putD (s : State) (d : Dst) (x : Word) : State :=
  match d with
  | .g n => putG s n.val x
  | _ => s
/-- RET (17 R393). -/
def execRet (a : Src) (s : State) : Ans :=
  runWord (.ret a) s fun s => goTo s (gOf s a &&& 0xFFFFFFFC)
/-- JMPG (17 R393): G[D] is written after G[N] is read. -/
def execJmpg (d : Dst) (a : Src) (s : State) : Ans :=
  runWord (.jmpg d a) s fun s => goTo (putD s d (s.cur.off + 4)) (gOf s a &&& 0xFFFFFFFC)

/-! ## Divergence (07 R184 to R188) -/

/-- Keep the slots as the word leaves them. -/
def stay (s : State) : State := modCur s fun k => { k with stay := true }
/-- The slots after a SPLIT that moves the lanes m to the offset o; the other slot is pushed when it is occupied. -/
def splitSlots (t : Thread) (b : Bool) (m : Mask) (o : Word) : Thread :=
  let x := slotOf t b
  let y := slotOf t (!b)
  let t := if y.occ then { t with stack := y :: t.stack } else t
  let t := putSlot t (!b) { occ := true, off := o, mask := m }
  if x.mask &&& ~~~ m = 0 then popStack (putSlot t b {})
  else putSlot t b { occ := true, off := x.off + 4, mask := x.mask &&& ~~~ m }
/-- SPLIT (07 R186). -/
def execSplit (p : PredField) (t : BitVec 20) (s : State) : Ans :=
  runWord (.split p t) s fun s =>
    let m := predMask s p
    let u := curUnit s
    if m = 0 then s
    else if (slotOf u (!s.cur.slot)).occ ∧ 64 ≤ u.stack.length then
      addFault s (laneFault s .stackOverflow 0 (curSlot s).mask 0)
    else
      let s := if (slotOf u (!s.cur.slot)).occ then
          hwWrite s (stackPa s s.cur.ctx s.cur.unit u.stack.length) (stackEntry (slotOf u (!s.cur.slot)))
        else s
      stay (modCurUnit s fun u => splitSlots u s.cur.slot m (s.cur.off + 4 * t.signExtend 32))
/-- The slots after slot b has arrived at the JOIN at its offset. -/
def joinSlots (t : Thread) (b : Bool) : Thread :=
  let t := putSlot t b { slotOf t b with hold := .join }
  joinStep (joinStep t b) (!b)
/-- JOIN (07 R187). -/
def execJoin (s : State) : Ans :=
  runWord .join s fun s => stay (modCurUnit s fun t => joinSlots t s.cur.slot)
/-- The unit after slot b has executed EXIT. -/
def exitSlots (t : Thread) (b : Bool) : Thread := afterEmpty (putSlot t b {}) b
/-- EXIT (07 R188; 06 R173). The unit's own end comes after the offset has been counted. -/
def execExit (s : State) : Ans :=
  runWord .exit s fun s =>
    let s := stay (modCurUnit s fun t => exitSlots t s.cur.slot)
    let t := curUnit s
    if t.s0.occ || t.s1.occ || !t.stack.isEmpty then s else exitUnit s s.cur.ctx s.cur.unit
/-- YIELD (17 R394): no architectural state changes; which crew issues next is the schedule's. -/
def execYield (s : State) : Ans := runWord .yield s id

/-! ## Barriers (07 R189 to R197; 12 R313) -/

/-- What a fault at the barrier word that issues records (13 R482). -/
def barRecord (s : State) : TrapRec :=
  { word := s.cur.word, plane := lowPlane (curUnit s) (curSlot s).mask, lanes := (curSlot s).mask,
    mask := (curSlot s).mask, off := s.cur.off }
/-- A PLANE_ALIGN at the REPACK or barrier that issues (08 R228). -/
def alignFault (s : State) : LaneFault := laneFault s .planeAlign 0 (curSlot s).mask 0
/-- Hold the slot while its arrival is recorded, with what a fault at its word records. -/
def holdArrival (s : State) (h : Hold) : State :=
  let r := barRecord s
  let s := modCurUnit s fun t => putSlot t s.cur.slot { slotOf t s.cur.slot with barRec := r, barAge := t.issued }
  let s := holdSlot s h
  post s 1 (.arrivalRecord s.cur.ctx s.cur.unit s.cur.slot)
/-- The accesses in flight that can still fail leave nothing to wait for. -/
def arriveNow (s : State) (repack : Bool) : Bool :=
  (arrivalIds (curUnit s) repack).isEmpty && (pushIds s s.cur.ctx).isEmpty && coxIdle (curUnit s)
/-- Arrive at ferry barrier n: at once when nothing has to complete first or the unit has arrived at the open instance, else
when it has. Other slots of the unit that wait to arrive join then (07 R191, R192). -/
def arriveBar (s : State) (n : Nat) (rp : Option Word) (w : ArriveAs) (on : Bool) : State :=
  let c := s.cur.ctx
  let u := s.cur.unit
  if arriveNow s rp.isSome || (rp.isNone && hasArrived s c u n) then
    if arriveBad s c u n w then addFault s (alignFault s)
    else
      let s := recordArrival s c u n w (barRecord s) (curUnit s).issued
      let s := if on then s else holdSlot s (.barrier n (mgetD (curUnit s).barAt n 0))
      recordUnit s c u
  else holdArrival s (.arriving n (arrivalIds (curUnit s) rp.isSome) (pushIds s c) rp on)
/-- BAR (07 R191). -/
def execBar (n : BitVec 4) (s : State) : Ans :=
  runWord (.bar n) s fun s => arriveBar s n.toNat none .plain false
/-- BARA (07 R191). -/
def execBara (n : BitVec 4) (s : State) : Ans :=
  runWord (.bara n) s fun s => arriveBar s n.toNat none .plain true
/-- BARW (07 R191). -/
def execBarw (n : BitVec 4) (s : State) : Ans :=
  runWord (.barw n) s fun s =>
    let u := s.cur.unit
    let k := mgetD (curUnit s).barAt n.toNat 0
    if arriveBad s s.cur.ctx u n.toNat .plain then addFault s (alignFault s)
    else if barOver (getBar s s.cur.ctx (curUnit s).ferry n.toNat) k then s
    else holdSlot s (.barrier n.toNat k)
/-- The scope unit of a level that contains a core (07 R193). -/
def scopeUnit (s : State) (l : Level) (core : Nat) : Nat :=
  match l with
  | .ferry => 0
  | .quad => core / 4
  | .die => dieOf core
  | .pkg => ownEp s
  | .cell => ownCell s
  | .domain => 0
/-- The level of a level code. -/
def levelOf (l : Nat) : Level :=
  if l = 0 then .ferry else if l = 1 then .quad else if l = 2 then .die else if l = 3 then .pkg
  else if l = 4 then .cell else .domain
/-- The arrival that an HBAR makes. -/
def hbarOf (s : State) (l id : Nat) (g : Word) : HArrival :=
  let core := curCore s
  { asid := (curCtx s).asid, level := levelOf l, scope := scopeUnit s (levelOf l) core, id := id
    count := max 1 (bitsN g.toNat 0 16), home := bitsN g.toNat 16 7, ep := ownEp s, cell := ownCell s, core := core
    ctx := s.cur.ctx, ferry := if isCrew s.cur.unit then (curUnit s).ferry else s.cur.unit, clock := (getCore s core).lc
    kind := if isCrew s.cur.unit then .now else .waiter, span := (curFerry s).span, index := (curFerry s).index }
/-- H is no endpoint of R197. -/
def hbarLost (s : State) (a : HArrival) : Bool :=
  (decide (a.level = .cell) || decide (a.level = .domain)) &&
    (!(decide (a.home = ownEp s) || sessLive s a.home) || (decide (a.level = .cell) && !sameCell s a.home))
/-- HBAR (07 R193 to R197). -/
def execHbar (a : Src) (l i : BitVec 4) (s : State) : Ans :=
  runWord (.hbar a l i) s fun s =>
    if l = 0 then arriveBar s i.toNat none .plain false
    else
      let h := hbarOf s l.toNat i.toNat (gOf s a)
      if hbarLost s h then addFault s (laneFault s .peerLost 0 (curSlot s).mask 0)
      else if !isCrew s.cur.unit then post (holdSlot s (.hbar h)) 0 (.hbarArrival h)
      else if arriveNow s false || (curFerry s).hmade.any (sameKey h) then recordHbar (holdSlot s (.hbar h)) s.cur.ctx s.cur.unit h
      else holdArrival s (.harriving h (arrivalIds (curUnit s) false) (pushIds s s.cur.ctx))
/-- EXSET (07 R190). -/
def execExset (a : Src) (s : State) : Ans :=
  runWord (.exset a) s fun s => modFerry s s.cur.ctx (curUnit s).ferry fun f => { f with bexp := gOf s a }
/-- EXGET (07 R190). -/
def execExget (d : Dst) (s : State) : Ans :=
  runWord (.exget d) s fun s => writeGroup s d false (resOf (zext64 (curFerry s).bexp))

/-! ## Waits (07 R199; 17 R395) -/

/-- SLEEP (17 R395). -/
def execSleep (a : Src) (s : State) : Ans :=
  runWord (.sleep a) s fun s =>
    let n := (gOf s a).toNat
    if n = 0 then s
    else post (holdSlot s (.sleep (s.now + n))) n (.sleepExpiry s.cur.ctx s.cur.unit s.cur.slot)
/-- WAITC (07 R199). -/
def execWaitc (a : Src) (i : BitVec 8) (s : State) : Ans :=
  runWord (.waitc a i) s fun s =>
    let n := (gOf s a).toNat
    if pathCount (curUnit s) i.toNat ≤ n then s else holdSlot s (.waitc i.toNat n)

/-! ## The mode register (17 R396) -/

/-- MODEA. -/
def execModea (i : BitVec 16) (s : State) : Ans :=
  runWord (.modea i) s fun s => modCurUnit s fun t => { t with mode := t.mode.extractLsb' 16 16 ++ i }
/-- MODEB. -/
def execModeb (i : BitVec 16) (s : State) : Ans :=
  runWord (.modeb i) s fun s => modCurUnit s fun t => { t with mode := i ++ t.mode.extractLsb' 0 16 }
/-- MODEG. -/
def execModeg (d : Dst) (s : State) : Ans :=
  runWord (.modeg d) s fun s => writeGroup s d false (resOf (zext64 (curUnit s).mode))

/-! ## Planes (08 R225 to R230) -/

/-- Set the planes of lanes from the next offset on. -/
def setPlanes (s : State) (ps : List (Nat × Nat)) : State := modCur s fun k => { k with planes := k.planes ++ ps }
/-- A latch. -/
def Src.isQ : Src → Bool
  | .q _ => true
  | _ => false
/-- PLSET (08 R225); with a latch source it is the last of its chain. -/
def execPlset (a : Src) (s : State) : Ans :=
  runWord (.plset a) s fun s => setPlanes (modCur s fun k => { k with ends := k.ends || Src.isQ a }) ((execLanes s).map fun l => (l, (srcLane s a false l).toNat % 8))
/-- PLSETP (08 R226). -/
def execPlsetp (a : Src) (k : BitVec 3) (s : State) : Ans :=
  runWord (.plsetp a k) s fun s =>
    setPlanes s (((execLanes s).filter fun l => (srcLane s a false l).getLsbD 0).map fun l => (l, k.toNat))
/-- PLOCC (08 R227). -/
def execPlocc (d : Dst) (s : State) : Ans :=
  runWord (.plocc d) s fun s =>
    writeGroup s d false (res32 ((planesOf (curUnit s) (curSlot s).mask).foldl (fun n k => n + 2 ^ k) 0))
/-- A crew-vector name of the unit is pending. -/
def vectorPending (s : State) : Bool :=
  (liveEntries s (curCtx s).home).any fun e =>
    decide (e.2.ctx = s.cur.ctx) && decide (e.2.unit = s.cur.unit) && decide (4 ≤ e.2.width)
/-- The crew may arrive at a REPACK (08 R228). -/
def repackReady (s : State) : Bool :=
  let t := curUnit s
  decide ((curSlot s).mask = 0xFFFFFFFF) && !(slotOf t (!s.cur.slot)).occ && t.stack.isEmpty && !vectorPending s
/-- REPACK (08 R228). -/
def execRepack (n : BitVec 4) (s : State) : Ans :=
  runWord (.repack n) s fun s =>
    if !repackReady s then addFault s (alignFault s)
    else arriveBar s n.toNat (some s.cur.off) (.repack s.cur.off) false

/-! ## Events of this part -/

/-- The slot waits for the record of its arrival. -/
def waitsRecord (x : Slot) : Bool :=
  match x.hold with
  | .arriving _ _ _ _ _ => true
  | .harriving _ _ _ => true
  | _ => false
/-- ARRIVAL_RECORD (07 R192): the arrivals of the unit that have nothing left to wait for are recorded. -/
def execArrivalRecord (c u : Nat) (b : Bool) (s : State) : Ans :=
  let s := recordUnit s c u
  .next (if anySlot (getUnit s c u) waitsRecord then post s 1 (.arrivalRecord c u b) else s)
/-- HBAR_ARRIVAL (07 R194): to the hardware of the scope unit, or to H, as a message on the context's behalf (02 R52). -/
def execHbarArrival (a : HArrival) (s : State) : Ans :=
  .next (if hRemote s a && decide (a.ep = ownEp s) then
      let s := if a.kind = .now ∨ a.kind = .waiter then { s with hsent := s.hsent ++ [a] } else s
      sendMsg s a.home (some a.ctx) (.harrive a)
    else hArrive s a)
/-- SLEEP_EXPIRY (17 R395): the slots of the unit whose time has ended go on. -/
def execSleepExpiry (c u : Nat) (_b : Bool) (s : State) : Ans :=
  .next (passWhere s c [u] fun x =>
    match x.hold with
    | .sleep till => decide (till ≤ s.now)
    | _ => false)

end Sys2Proof.Machine
end

