-- ==== Sys2Proof/Machine/Lines.lean ====
section
/-! DEFINITION. Lines and what is kept for each: homes, stamps and leases, the package directory, the snoop filter, the
copies of L1 and L2, requests that a home holds, and asking for a line (03 R55 to R71; 04 R94 to R109). -/

namespace Sys2Proof.Machine

/-! ## Where a line lives (03 R55, R56) -/

/-- The home endpoint of a line. -/
def homeEp (line : Nat) : Nat := line / 2 ^ 38 % 128
/-- The line's offset number within its endpoint. -/
def lineOff (line : Nat) : Nat := line % 2 ^ 38
/-- The stack of a line of this endpoint. -/
def stackOf (line : Nat) : Nat := line / 2 ^ 29 % 8
/-- The home die. -/
def homeDie (line : Nat) : Nat := stackOf line / 2
/-- The line is homed in this endpoint. -/
def ownLine (s : State) (line : Nat) : Bool := decide (homeEp line = ownEp s)
/-- The line is homed in this endpoint's cell. -/
def cellLine (s : State) (line : Nat) : Bool := sameCell s (homeEp line)
/-- An offset that a D9 endpoint refuses (03 R56, R57). -/
def refusedOff (line : Nat) : Bool := decide (2 ^ 32 ≤ lineOff line)

/-! ## Logical time (04 R97 to R101, R105, R109) -/

/-- a is later than b. -/
def later (a b : Stamp) : Bool := decide (0 < (a - b).toNat) && decide ((a - b).toNat < 2 ^ 47)
/-- LEASE. -/
def leaseLen (s : State) : Nat := max 1 (ctlField s 0x0300 0 6)
/-- Cycles after a last grant during which a lease may still cover a line. -/
def leaseWait (s : State) : Nat := 64 * max (leaseLen s) (s.oldLease.getD 0)
/-- The lease that a holder grants: its end, and the holder's rts after it. -/
def grantLease (s : State) (wts rts pts : Stamp) : Stamp × Stamp :=
  let lease := stampMax wts (pts + BitVec.ofNat 48 (leaseLen s - 1))
  (lease, stampMax rts lease)
/-- The current cycle as a last-grant time: 0 stands for no grant (04 R101). -/
def grantNow (s : State) : Nat := s.now + 1
/-- Cycles after a last grant until no lease can cover the line any more (04 R109). -/
def leaseLeft (s : State) (last : Nat) : Nat := if last = 0 then 0 else last - 1 + leaseWait s - s.now
/-- A core's clock. -/
def clk (s : State) (core : Nat) : Stamp := (getCore s core).lc

/-! ## What the home keeps -/

/-- The memory time of a line's stack. -/
def mtsOf (s : State) (line : Nat) : Stamp := mgetD s.mts (stackOf line) 0
/-- The home's record of a line; a line filled from memory takes wts = rts = MTS. -/
def getHome (s : State) (line : Nat) : HomeLine := mgetD s.home line { wts := mtsOf s line, rts := mtsOf s line }
/-- Replace it. -/
def putHome (s : State) (line : Nat) (h : HomeLine) : State := { s with home := mset s.home line h }
/-- Change it. -/
def modHome (s : State) (line : Nat) (f : HomeLine → HomeLine) : State := putHome s line (f (getHome s line))
/-- The snoop-filter entry of a line; none is listed for an empty one. -/
def getFilt (s : State) (line : Nat) : FiltEntry := mgetD s.filt line {}
/-- Another cell owns the line. A host that holds it with ownership puts the entry in M too (04 R120). -/
def FiltEntry.cellOwner (f : FiltEntry) : Bool := (decide (f.st = .m) || decide (f.st = .o)) && !f.hown
/-- The entry holds nothing and nothing is in progress. -/
def filtIdle (f : FiltEntry) : Bool :=
  decide (f.st = .i) && !f.pend && decide (f.host = 0) && decide (f.vec = 0) && f.awaitEps.isEmpty && f.awaitHosts.isEmpty &&
    !f.evicting && f.recovering.isEmpty
/-- Replace an entry. -/
def putFilt (s : State) (line : Nat) (f : FiltEntry) : State :=
  { s with filt := if filtIdle f then mdel s.filt line else mset s.filt line f }
/-- Change an entry. -/
def modFilt (s : State) (line : Nat) (g : FiltEntry → FiltEntry) : State := putFilt s line (g (getFilt s line))
/-- An L2 line of a die. -/
def getL2 (s : State) (die line : Nat) : Option L2Line := mget? s.l2 (l2Key die line)
/-- Put a line into a die's L2. -/
def putL2 (s : State) (die line : Nat) (x : L2Line) : State := { s with l2 := mset s.l2 (l2Key die line) x }
/-- Take it out. -/
def delL2 (s : State) (die line : Nat) : State := { s with l2 := mdel s.l2 (l2Key die line) }
/-- The L1 slice through which a core reads a line (07 R206). -/
def sliceOf (s : State) (core line : Nat) : Nat :=
  let q := core % 80 / 4
  if bitN (ctlGet s (0x0330 + 4 * dieOf core)) q then core - core % 4 + line % 4 else core
/-- Memory data of a line, with its poison mark. -/
def memData (s : State) (line : Nat) : List Byte × Bool := (memLine s line, mgetD s.poison line false)
/-- Set or clear a line's poison mark. -/
def setPoison (s : State) (line : Nat) (b : Bool) : State := { s with poison := mput s.poison false line b }
/-- The storage error at a place that no read has met. -/
def errAt (s : State) (p : ErrPlace) : Option Bool := (s.errs.find? fun e => decide (e.1 = p)).map Prod.snd
/-- It is there no longer. -/
def clearErr (s : State) (p : ErrPlace) : State := { s with errs := s.errs.filter fun e => decide (e.1 ≠ p) }
/-- Write a whole line of memory with its poison mark: its ECC is fresh (01 R19). -/
def setMem (s : State) (line : Nat) (d : List Byte) (pois : Bool) : State :=
  setPoison { (clearErr s (.hbm line)) with mem := memSets s.mem (128 * line) d, writers := mdel s.writers line } line pois
/-- What the base die's read of a line does on an ECC result: a corrected error is counted, an uncorrectable one poisons the
line (01 R17, R31, R32). -/
def eccRead (s : State) (line : Nat) (r : EccResult) : State :=
  match r with
  | .clean => s
  | .corrected => ctlCount s (0x0040 + 4 * stackOf line) 0 32 1
  | .uncorrectable => ctlPut (setPoison s line true) 0x0020 (11 + stackOf line) 1 1
/-- The base die reads a line of its stack: an error that stands in it is met now (01 R17). -/
def readHbm (s : State) (line : Nat) : State :=
  match errAt s (.hbm line) with
  | none => s
  | some ue => eccRead (clearErr s (.hbm line)) line (if ue then .uncorrectable else .corrected)
/-- An error of a die's cores, L1s or L2 is counted (07 R208). -/
def countDie (s : State) (die : Nat) : State := ctlCount s (0x0340 + 4 * die) 0 32 1
/-- Errors of the words of a context's bank that n bytes from an offset touch are met: a corrected one is counted, an
uncorrectable one poisons its word (07 R207). -/
def readLs (s : State) (c a n : Nat) : State :=
  let x := getCtx s c
  let hit := x.lsErr.filter fun e => decide (a < 4 * e.1 + 4) && decide (4 * e.1 < a + n)
  if hit.isEmpty then s
  else
    let s := (hit.filter fun e => !e.2).foldl (fun s _ => countDie s (dieOf (ctxCore x))) s
    modCtx s c fun x => { x with
      lsPoison := (hit.filter Prod.snd).foldl (fun m e => mput m false e.1 true) x.lsPoison
      lsErr := x.lsErr.filter fun e => !(hit.any fun h => decide (h.1 = e.1)) }
/-- An error of an L1 line is met: the line is dropped, to be fetched again (07 R207). -/
def readL1 (s : State) (key : Nat) : State :=
  match errAt s (.l1 key) with
  | none => s
  | some _ => countDie { (clearErr s (.l1 key)) with l1 := mdel s.l1 key } (dieOf (key % 320))
/-- An error of an L2 line is met: a clean line is fetched again, a dirty one is corrected or poisoned (07 R207). -/
def readL2 (s : State) (die line : Nat) : State :=
  let key := l2Key die line
  match errAt s (.l2 key), mget? s.l2 key with
  | some ue, some x =>
    let s := clearErr s (.l2 key)
    match x.st with
    | .m => if ue then { s with l2 := mset s.l2 key { x with poison := true } } else countDie s die
    | .o => if ue then { s with l2 := mset s.l2 key { x with poison := true } } else countDie s die
    | .e => countDie s die
    | _ => countDie { s with l2 := mdel s.l2 key } die
  | _, _ => s
/-- Errors that a core's read of a line meets in its L1 slice and its die's L2. -/
def readCaches (s : State) (core line : Nat) : State :=
  readL2 (readL1 s (l1Key (sliceOf s core line) line)) (dieOf core) line
/-- Count a coherence event. -/
def nextCoh (s : State) : State := { s with cohSeq := s.cohSeq + 1 }

/-! ## Requests that the home holds (03 R66, 10 R265, 04 R108) -/

/-- A request from outside the cell, a host's among them. -/
def evForeign (e : Ev) : Bool :=
  match e with
  | .rds _ => true
  | .rdown _ => true
  | .homeAtomic _ => true
  | .hostMemRead _ _ _ => true
  | .hostMemWrite _ _ _ => true
  | _ => false
/-- The base die of a line's stack recalibrates, and holds accesses to it (05 R148). -/
def stackStill (s : State) (line : Nat) : Bool := ownLine s line && mgetD s.recal (stackOf line) false
/-- An entry names a cell whose loss the recovery engine has not handled there yet (03 R81). -/
def namesLost (s : State) (f : FiltEntry) : Bool :=
  (s.sweepCells ++ s.queuedCells).any fun c =>
    f.vec.getLsbD c || (f.cellOwner && decide (f.owner = c))
/-- Something is in progress on a line that holds a request back. -/
def lineBusy (s : State) (line : Nat) (foreign : Bool) : Bool :=
  let h := getHome s line
  let f := getFilt s line
  h.fwd.isSome || f.pend || !f.awaitHosts.isEmpty || (!f.awaitEps.isEmpty && (foreign || !f.soft)) || f.evicting ||
    !f.recovering.isEmpty || f.orphan || namesLost s f || stackStill s line
/-- A request arrives: it is served now, or held. -/
def lineEnter (s : State) (line : Nat) (e : Ev) : Bool × State :=
  let h := getHome s line
  let foreign := evForeign e
  if h.turn = some e then (true, s)
  else if lineBusy s line foreign || h.turn.isSome || (!h.held.isEmpty && (foreign || !(getFilt s line).soft)) then
    (false, putHome s line { h with held := h.held ++ [e] })
  else (true, putHome s line { h with turn := some e })
/-- The first held request that nothing holds back is next. -/
def linePump (s : State) (line : Nat) : State :=
  let h := getHome s line
  if h.turn.isSome then s
  else
    match h.held.find? fun e => !lineBusy s line (evForeign e) with
    | none => s
    | some e => post (putHome s line { h with turn := some e, held := h.held.erase e }) 0 e
/-- The request that is served is over. -/
def lineDone (s : State) (line : Nat) : State :=
  linePump (modHome s line fun h => { h with turn := none, got := none }) line
/-- The request that is served is looked at again, later by d cycles. -/
def lineRetry (s : State) (line d : Nat) : State :=
  match (getHome s line).turn with
  | none => s
  | some e => post s d e
/-- A step that the line waited for is over: the request that is served goes on, or the next one. -/
def lineResume (s : State) (line : Nat) : State :=
  let h := getHome s line
  let f := getFilt s line
  match h.turn with
  | some e =>
    if h.fwd.isSome || !f.awaitHosts.isEmpty || (!f.awaitEps.isEmpty && !f.soft) || f.evicting then s else post s 0 e
  | none => linePump s line

/-! ## Messages of a home (03 R64, R70; 04 R106) -/

/-- The live endpoints of a cell. -/
def cellEps (s : State) (c : Nat) : List Nat := (s.sess.map Prod.fst).filter fun e => decide (cellOf s e = some c)
/-- The cells of a vector. -/
def vecCells (v : BitVec 64) : List Nat := (List.range 64).filter fun c => v.getLsbD c
/-- The bit of a cell. -/
def cellBit (c : Nat) : BitVec 64 := BitVec.ofNat 64 (2 ^ c)
/-- A cross-cell message of this endpoint. -/
def xmsg (s : State) (line req : Nat) (data : Option (List Byte)) (own poison : Bool) : XMsg :=
  { line := line, src := ownEp s, req := req, data := data, own := own, poison := poison, page := false }
/-- Ask the endpoints of some cells, and await their answers, each timed (02 R54). -/
def askCells (s : State) (line : Nat) (cells : List Nat) (m : Msg) : State :=
  let eps := cells.flatMap (cellEps s)
  let s := eps.foldl (fun s e => post (sendMsg s e none m) 1800000 (.transactionTimeout (.holder line e))) s
  modFilt s line fun f => { f with awaitEps := f.awaitEps ++ eps }
/-- The host ports of a mask. -/
def hostPorts (h : BitVec 2) : List Nat := (List.range 2).filter fun k => h.getLsbD k
/-- Back-invalidate hosts, and await their answers (04 R121; 03 R91, R92). -/
def askHosts (s : State) (line : Nat) (ports : List Nat) : State :=
  let us := max 1 (ctlField s 0x0250 16 16)
  let s := ports.foldl (fun s p => post (emit s (.hostBInv p line)) (1800 * us) (.hostBinvTimeout p line)) s
  modFilt s line fun f => { f with awaitHosts := f.awaitHosts ++ ports }
/-- A message of the package protocol goes to a die of this package or to a cell-mate. -/
def toParty (s : State) (p : Party) (e : Ev) (m : Msg) : State :=
  match p with
  | .die _ => post s 0 e
  | .mate ep => sendMsg s ep none m
/-- A message to the home of a line. -/
def toHome (s : State) (line : Nat) (charge : Option Nat) (e : Ev) (m : Msg) : State :=
  if ownLine s line then post s 0 e else sendMsg s (homeEp line) charge m

/-! ## Asking for a line (04 R100, R102; 03 R65) -/

/-- Ask for a line at its home, for a shared copy or with ownership, on behalf of a die at clock pts; have is the write
time of an expired copy. -/
def askLine (s : State) (charge : Option Nat) (die line : Nat) (own : Bool) (pts : Stamp) (have_ : Option Stamp) : State :=
  let s := nextCoh { s with refusals := mdel s.refusals line }
  if cellLine s line then
    let p : Party := if ownLine s line then .die die else .mate (ownEp s)
    let m : DMsg := { line := line, src := p, req := p, toHome := false, pts := pts, wts := have_.getD 0, rts := 0,
                      grant := .s, data := have_.map fun _ => [], poison := false, lastGrant := 0, die := die }
    if own then toHome s line charge (.drdown m) (.drdown m) else toHome s line charge (.drds m) (.drds m)
  else
    let m := { (xmsg s line (ownEp s) none own false) with die := die }
    if own then toHome s line charge (.rdown m) (.rdown m) else toHome s line charge (.rds m) (.rds m)

/-- The key of a request of a die for a line. -/
def askKey (die line : Nat) (own : Bool) : Nat := 2 * l2Key die line + (if own then 1 else 0)
/-- A request of a die for a line is not answered yet. -/
def asked? (s : State) (die line : Nat) (own : Bool) : Bool := (mget? s.asks (askKey die line own)).isSome
/-- The timeout of a transaction on a context's behalf, or on none's (02 R54). -/
def chargeTime (s : State) (charge : Option Nat) : Nat := charge.elim 1800000 fun c => timeoutOf (getCtx s c)
/-- Ask for a line unless a request for it is open already; the count at which this one was made. A request for a shared
copy is not made beside one for ownership. -/
def askOnce (s : State) (charge : Option Nat) (die line : Nat) (own : Bool) (pts : Stamp) (have_ : Option Stamp) :
    Option Nat × State :=
  if asked? s die line own || (!own && asked? s die line true) then (none, s)
  else
    let s := askLine s charge die line own pts have_
    let n := s.cohSeq
    let s := { s with asks := mset s.asks (askKey die line own) n }
    (some n, if ownLine s line then s else post s (chargeTime s charge) (.transactionTimeout (.line die line own n)))
/-- A request has been answered. -/
def askDone (s : State) (die line : Nat) (own : Bool) : State := { s with asks := mdel s.asks (askKey die line own) }

/-- The line is held by another cell or a host in a way that its home must first undo before a read (03 R65, 04 R121). -/
def heldOutside (s : State) (line : Nat) : Bool :=
  let f := getFilt s line
  (f.cellOwner && (decide (f.st = .m) || !f.fresh)) || f.hown || f.evicting || !f.recovering.isEmpty

/-- A die's L2 serves a lease to its own L1s: it owns the line, or holds it in S with a lease that covers pts
(04 R100, R101). A line of another cell needs no lease (03 R63). -/
def l2Serves (s : State) (x : L2Line) (line : Nat) (pts : Stamp) : Bool :=
  !cellLine s line || decide (x.st = .e) || decide (x.st = .m) || decide (x.st = .o) || !later pts x.rts
/-- The lease that a die's L2 gives to an L1: its end and the L2 line after it. -/
def l2Lease (s : State) (x : L2Line) (pts : Stamp) : Stamp × L2Line :=
  if x.st = .e ∨ x.st = .m ∨ x.st = .o then
    let g := grantLease s x.wts x.rts pts
    (g.1, { x with rts := g.2, lastGrant := grantNow s })
  else
    let g := grantLease s x.wts x.wts pts
    (if later g.1 x.rts then x.rts else g.1, { x with lastGrant := grantNow s })
/-- A grant out of a die's L2 of a line in S is recorded at the line's home, when it is of this package (04 R101). -/
def noteGrant (s : State) (line : Nat) : State :=
  match mget? s.home line with
  | none => s
  | some h => if ownLine s line && !h.st.owned then putHome s line { h with lastGrant := grantNow s } else s
/-- Read a line for a core from its L1 or its die's L2, if one of them serves it; fresh passes over the lease check for
a copy that was asked for (04 R100). -/
def readLine (s : State) (c core line : Nat) (asked : Option Nat) : Option (List Byte × Bool × State) :=
  let pts := clk s core
  let key := l1Key (sliceOf s core line) line
  let die := dieOf core
  match (mget? s.l1 key).filter fun x => !later pts x.rts && decide (cellLine s line) with
  | some x => some (x.data, x.poison, raiseClock s core x.wts)
  | none =>
    match getL2 s die line with
    | none => none
    | some x =>
      let fresh := asked.any fun n => decide (n < x.got)
      if l2Serves s x line pts || fresh then
        let l := l2Lease s x pts
        let s := noteGrant (putL2 s die line { l.2 with used := s.now }) line
        let s := if cellLine s line then
            { (clearErr s (.l1 key)) with l1 := mset s.l1 key { wts := x.wts, rts := l.1, data := x.data, poison := x.poison, ctx := c } }
          else s
        some (x.data, x.poison, raiseClock s core x.wts)
      else none

/-- The newest version at the home or its owner, as a strong read returns it (04 R103): for a line of this endpoint. -/
def homeVersion (s : State) (line : Nat) : List Byte × Bool × Stamp :=
  match ownerL2 s line with
  | some (_, x) => (x.data, x.poison, x.wts)
  | none => ((memData s line).1, (memData s line).2, (getHome s line).wts)
/-- The newest version of a line of this endpoint is at hand at its home: no one outside the cell holds it dirty, no forward
is pending, and the package's owner, where there is one, has its data. -/
def homeHas (s : State) (line : Nat) : Bool :=
  let h := getHome s line
  ownLine s line && !heldOutside s line && !stackStill s line && h.fwd.isNone && (!h.st.owned || (ownerL2 s line).isSome)
/-- The storage errors that a read of the newest version at the home meets. -/
def readNewest (s : State) (line : Nat) : State :=
  match ownerL2 s line with
  | some (d, _) => readL2 s d line
  | none => readHbm s line

/-- The newest version of a line, with the state after asking where it is not at hand; asked is the count at which an
earlier call asked for it (04 R103; 10 R266). -/
def strongRead (s : State) (charge : Option Nat) (core line : Nat) (asked : Option Nat) :
    Option (List Byte × Bool × Stamp) × Option Nat × State :=
  let die := dieOf core
  if homeHas s line then
    let s := readNewest s line
    (some (homeVersion s line), asked, s)
  else
    let s := readL2 s die line
    match (getL2 s die line).filter fun x => decide (x.st ≠ .s) || asked.any fun n => decide (n < x.got) with
    | some x => (some (x.data, x.poison, x.wts), asked, s)
    | none =>
      let r := askOnce s charge die line false (clk s core) none
      (none, r.1.orElse fun _ => asked, r.2)

/-- The die's L2 may perform a store: it holds the line in E or M, and no other cell or host holds a copy
(04 R102, R121; 03 R65). -/
def mayStore (s : State) (die line : Nat) : Bool :=
  match getL2 s die line with
  | none => false
  | some x =>
    let f := getFilt s line
    (decide (x.st = .e) || decide (x.st = .m)) &&
      (!ownLine s line || (decide (f.vec = 0) && decide (f.host = 0) && !f.evicting && f.awaitHosts.isEmpty))

/-- Write bytes into an owned L2 line at a core's clock (04 R102): a full line clears poison (01 R19). -/
def storeLine (s : State) (core die line : Nat) (off : Nat) (d : List Byte) : State :=
  match getL2 s die line with
  | none => s
  | some x =>
    let t := stampMax (clk s core) (x.rts + 1)
    let full := decide (d.length = 128)
    let s := putL2 s die line { x with
      st := .m, wts := t, rts := t, data := patchB x.data off d, poison := x.poison && !full }
    let key := l1Key (sliceOf s core line) line
    let s := { (clearErr s (.l1 key)) with l1 := mdel s.l1 key, writers := mset s.writers line (addOnce (mgetD s.writers line []) core) }
    raiseClock s core t

/-- The write-back of a line goes to its home, and is timed (02 R54). -/
def sendBack (s : State) (die line : Nat) (x : L2Line) : State :=
  let s := if ownLine s line then s else post s 1800000 (.transactionTimeout (.back die line))
  if cellLine s line then
    let p : Party := if ownLine s line then .die die else .mate (ownEp s)
    let m : DMsg := { line := line, src := p, req := p, toHome := false, pts := 0, wts := x.wts, rts := x.rts,
                      grant := .s, data := some x.data, poison := x.poison, lastGrant := x.lastGrant, die := die }
    toHome s line none (.dwrbk m) (.dwrbk m)
  else
    let m := { (xmsg s line (ownEp s) (some x.data) true x.poison) with die := die }
    toHome s line none (.wrbk m) (.wrbk m)
/-- An owner writes a line back: it keeps it in a write-back buffer until the home has accepted it (04 R108; 03 R65). -/
def writeBack (s : State) (die line : Nat) : State :=
  match getL2 s die line with
  | none => s
  | some _ =>
    let s := readL2 s die line
    match getL2 s die line with
    | none => s
    | some x => sendBack { (delL2 s die line) with wb := mset s.wb (l2Key die line) x } die line x

/-! ## Room in an L2 (04 R98) -/

/-- Lines that a die's L2 of 64 MiB holds. -/
def l2Lines : Nat := 524288
/-- The unowned lines whose times a home die keeps in its L2, of those on which nothing is in progress. -/
def homeKept (s : State) (die : Nat) : List (Nat × HomeLine) :=
  s.home.filter fun e => decide (homeDie e.1 = die) && !e.2.st.owned && e.2.fwd.isNone && e.2.turn.isNone && e.2.held.isEmpty
/-- The least recently used of some lines. -/
def leastUsed (l : List (Nat × Nat)) : Option Nat :=
  (l.foldl (fun m e => match m with
    | none => some e
    | some x => if e.2 < x.2 then some e else some x) none).map Prod.fst
/-- A home die's L2 evicts an unowned line: the memory time of its stack takes the line's rts. -/
def evictHome (s : State) (line : Nat) : State :=
  { s with mts := mset s.mts (stackOf line) (stampMax (mtsOf s line) (getHome s line).rts), home := mdel s.home line }
/-- A line comes into a die's L2: where that is full, the least recently used line is evicted; which one goes is the model's
choice (notes/assumptions/50.md). -/
def roomL2 (s : State) (die line : Nat) : State :=
  let mine := s.l2.filter fun e => decide (e.1 % 4 = die)
  let homed := homeKept s die
  if (getL2 s die line).isSome || decide (mine.length + homed.length < l2Lines) then s
  else
    match leastUsed (mine.map fun e => (2 * (e.1 / 4), e.2.used) ) with
    | none => (leastUsed (homed.map fun e => (e.1, e.2.used))).elim s (evictHome s)
    | some k =>
      match leastUsed ((k, (getL2 s die (k / 2)).elim 0 L2Line.used) :: homed.map fun e => (2 * e.1 + 1, e.2.used)) with
      | none => s
      | some v =>
        if v % 2 = 1 then evictHome s (v / 2)
        else if (getL2 s die (v / 2)).any fun x => x.st.owned then writeBack s die (v / 2)
        else delL2 s die (v / 2)
/-- Install a line in a die's L2. -/
def installL2 (s : State) (die line : Nat) (x : L2Line) : State :=
  putL2 (clearErr (roomL2 s die line) (.l2 (l2Key die line))) die line { x with used := s.now }

end Sys2Proof.Machine
end

