-- ==== Sys2Proof/Machine/Translate.lean ====
section
/-! DEFINITION. Addresses and translation: canonical addresses, the page-table walk, windows, the TLB and the last-page
registers, sweeps, and access-counter records (09 R232 to R253, R257). -/

namespace Sys2Proof.Machine

/-! ## Canonical addresses (09 R233, R234) -/

/-- A canonical address. -/
def canonical (a : Dword) : Bool :=
  decide (a.extractLsb' 52 12 = 0) || decide (a.extractLsb' 52 12 = 0xFFF)
/-- An access of n bytes at a lies in canonical addresses and does not pass the top of the address space. -/
def canonAccess (a : Dword) (n : Nat) : Bool :=
  let last := a.toNat + n - 1
  decide (last < 2 ^ 64) && canonical a && canonical (BitVec.ofNat 64 last) &&
    decide (a.getLsbD 52 = (BitVec.ofNat 64 last).getLsbD 52)

/-! ## Permissions (09 R239) -/

/-- What an access needs. -/
structure Need where
  r : Bool := false
  w : Bool := false
  x : Bool := false
  deriving DecidableEq, Repr

/-- What a translation grants to a class. -/
def grants (t : Xlat) (n : Need) (cls : Nat) : Bool :=
  (!t.ten || decide (t.tclass = cls)) && (!n.r || t.r) && (!n.w || t.w) && (!n.x || t.x)
/-- Bytes that a leaf maps, by size code. -/
def leafBytes (size : Nat) : Nat := if size = 0 then 2 ^ 13 else if size = 1 then 2 ^ 23 else 2 ^ 33
/-- A translation covers an address of an address space. -/
def covers (t : Xlat) (asid : Nat) (va : Dword) : Bool :=
  decide (t.asid = asid) && decide (va.toNat / leafBytes t.size = t.va / leafBytes t.size)
/-- The physical address of a VA that a translation covers. -/
def xlatPa (t : Xlat) (va : Dword) : Nat := t.pa + va.toNat % leafBytes t.size

/-! ## The walk (09 R235 to R238, R248, R249) -/

/-- What a walk finds: a translation, the cause and translation code of R249, or that it waits for a line of the tables. -/
inductive Walk where
  | ok (t : Xlat)
  | bad (cause : Cause) (code : Nat)
  | waits (line : Nat)
  deriving DecidableEq, Repr

/-- A line of the tables as a walk on a die reads it: its newest version at its home, in the manner of LDACQ, or what the
walk's own request has brought (09 R240). -/
def walkLine (s : State) (die line : Nat) : Option (List Byte) :=
  if !ownLine s line || homeHas s line then some (hwRead s (128 * line) 128)
  else (mget? s.walkAsks (l2Key die line)).bind fun n => ((getL2 s die line).filter fun x => decide (n < x.got)).map L2Line.data
/-- An entry of the tables, or the line that the walk waits for. -/
def walkEntry (s : State) (die pa n : Nat) : Nat ⊕ Nat :=
  match walkLine s die (pa / 128) with
  | some d => .inl (fieldB d (pa % 128) n)
  | none => .inr (pa / 128)

/-- A translation code. -/
def xcode (reason level : Nat) : Nat := 16 * reason + level
/-- An entry of WINTAB (09 R256). -/
def winEntry (s : State) (wid : Nat) : List Byte := hwRead s (ctlGet s 0x2410 + 32 * wid) 32
/-- Its flags: V, CUR, OPEN, BUSY at bits 0 to 3. -/
def winFlag (e : List Byte) (k : Nat) : Bool := bitN (fieldB e 0x1C 1) k
/-- The bases of copy 0 or 1. -/
def winBase (e : List Byte) (k : Bool) : Nat := bitsN (fieldB e (if k then 8 else 0) 8) 13 39 * 2 ^ 13
/-- Bits [51:45] name this endpoint. -/
def ownPa (s : State) (pa : Nat) : Bool := decide (bitsN pa 45 7 = ownEp s)
/-- Size code of a leaf at a level. -/
def leafSize (level : Nat) : Nat := if level = 1 then 0 else if level = 2 then 1 else 2

/-- A leaf of kind local or remote, its fields checked under R238. -/
def plainLeaf (s : State) (asid level pte : Nat) (va : Dword) : Option Xlat :=
  let kind := bitsN pte 1 2
  let size := leafSize level
  let n := leafBytes size
  let ten := bitN pte 8
  let rep := bitN pte 6 && decide (kind = 1) && decide (level ≤ 2)
  let clsOk := ten || decide (bitsN pte 58 6 = 0)
  let hiOk := rep || decide (bitsN pte 52 6 = 0)
  let off := bitsN pte 13 32 * 2 ^ 13
  let pa := if kind = 1 then ownEp s * 2 ^ 45 + off else bitsN pte 13 39 * 2 ^ 13
  let ok := decide (bitsN pte 9 4 = 0) && clsOk && hiOk && decide (pa % n = 0) &&
    (if kind = 1 then !bitN pte 51 && (rep || decide (bitsN pte 45 6 = 0)) else !ownPa s pa)
  if ok then
    some { asid := asid, va := va.toNat / n * n, size := size, kind := kind, pa := pa, r := bitN pte 3, w := bitN pte 4,
           x := bitN pte 5, ten := ten, tclass := bitsN pte 58 6, ace := bitN pte 7 && decide (kind = 2),
           rep := if rep then some (bitsN pte 52 6 * 64 + bitsN pte 45 6) else none, wid := 0 }
  else none
/-- The fields of a window leaf are well formed. -/
def winLeafOk (pte : Nat) : Bool :=
  decide (bitsN pte 9 4 = 0) && decide (bitsN pte 48 4 = 0) && decide (bitsN pte 13 3 = 0) && decide (bitsN pte 52 6 = 0) &&
    (bitN pte 8 || decide (bitsN pte 58 6 = 0))
/-- A window leaf, through its window entry (09 R257). -/
def winLeaf (s : State) (die asid level pte : Nat) (va : Dword) : Walk :=
  let size := leafSize level
  let n := leafBytes size
  let wid := bitsN pte 32 16
  let widx := bitsN pte 16 16
  let line := (ctlGet s 0x2410 + 32 * wid) / 128
  let e := ((walkLine s die line).getD []).drop ((ctlGet s 0x2410 + 32 * wid) % 128)
  if (walkLine s die line).isNone then .waits line
  else if !winFlag e 0 || decide (fieldB e 0x16 2 ≠ asid) || decide (fieldB e 0x18 4 ≤ widx) || decide (fieldB e 0x1D 1 ≠ size) then
    .bad .page (xcode 3 0)
  else
    .ok { asid := asid, va := va.toNat / n * n, size := size, kind := 3, pa := winBase e (winFlag e 1) + widx * n,
          r := bitN pte 3, w := bitN pte 4, x := bitN pte 5, ten := bitN pte 8, tclass := bitsN pte 58 6, ace := false,
          rep := none, wid := wid }
/-- The permission check at a leaf. -/
def permCheck (t : Xlat) (need : Need) (cls level : Nat) : Walk :=
  if t.ten && decide (t.tclass ≠ cls) then .bad .perm (xcode 5 level)
  else if !grants t need cls then .bad .perm (xcode 4 level)
  else .ok t
/-- Walk on from a table at a level, downward. -/
def walkFrom (s : State) (die asid cls : Nat) (va : Dword) (need : Need) : Nat → Nat → Walk
  | 0, _ => .bad .page (xcode 1 1)
  | level + 1, table =>
    let l := level + 1
    match walkEntry s die (table + 8 * bitsN va.toNat (13 + 10 * level) 10) 8 with
    | .inr line => .waits line
    | .inl pte =>
    let kind := bitsN pte 1 2
    if !bitN pte 0 then .bad .page (xcode 0 l)
    else if kind = 0 then
      if l = 1 then .bad .page (xcode 1 l)
      else
        let next := bitsN pte 13 39 * 2 ^ 13
        if bitsN pte 52 12 ≠ 0 ∨ bitsN pte 3 10 ≠ 0 ∨ !ownPa s next then .bad .page (xcode 2 l)
        else walkFrom s die asid cls va need level next
    else if l = 4 ∨ (kind = 3 ∧ l = 3) then .bad .page (xcode 1 l)
    else if kind = 3 then
      if !winLeafOk pte then .bad .page (xcode 2 l)
      else
        match winLeaf s die asid l pte va with
        | .ok t => permCheck t need cls l
        | r => r
    else
      match plainLeaf s asid l pte va with
      | none => .bad .page (xcode 2 l)
      | some t => permCheck t need cls l
/-- An ASTAB entry (06 R158). -/
def astEntry (s : State) (asid : Nat) : List Byte := hwRead s (ctlGet s 0x2208 + 32 * asid) 32
/-- The ASID has a valid entry. -/
def astValid (s : State) (asid : Nat) : Bool := bitN (fieldB (astEntry s asid) 0x0C 1) 0
/-- A whole walk on a die. -/
def walk (s : State) (die asid cls : Nat) (va : Dword) (need : Need) : Walk :=
  let line := (ctlGet s 0x2208 + 32 * asid) / 128
  match walkLine s die line with
  | none => .waits line
  | some d =>
    let e := sliceB d ((ctlGet s 0x2208 + 32 * asid) % 128) 32
    let root := fieldB e 0 8
    if !bitN (fieldB e 0x0C 1) 0 || decide (bitsN root 52 12 ≠ 0) || decide (bitsN root 0 13 ≠ 0) || !ownPa s root then
      .bad .page (xcode 2 4)
    else walkFrom s die asid cls va need 4 root

/-! ## Walk caches (09 R241, R242) -/

/-- The region of an address that an entry at a level translates. -/
def regionOf (va : Dword) (level : Nat) : Nat := va.toNat / 2 ^ (3 + 10 * level)
/-- The cached entry nearest to the leaf. -/
def walkCached (s : State) (die asid : Nat) (va : Dword) : Option WalkEntry :=
  [2, 3, 4].findSome? fun l => s.walkCache.find? fun e =>
    decide (e.die = die) && decide (e.asid = asid) && decide (e.level = l) && decide (e.region = regionOf va l)
/-- The table entries that a walk from a table at a level passes. -/
def walkTables (s : State) (die asid : Nat) (va : Dword) : Nat → Nat → List WalkEntry
  | 0, _ => []
  | level + 1, table =>
    match walkEntry s die (table + 8 * bitsN va.toNat (13 + 10 * level) 10) 8 with
    | .inr _ => []
    | .inl pte =>
      if bitsN pte 0 3 ≠ 1 then []
      else
        let next := bitsN pte 13 39 * 2 ^ 13
        { die := die, asid := asid, level := level + 1, region := regionOf va (level + 1), table := next } ::
          walkTables s die asid va level next
/-- A walk with the die's walk cache: what it finds from a cached entry stands where it is a translation; a fault is raised only
after a walk of the tables as they stand. -/
def walkVia (s : State) (die asid cls : Nat) (va : Dword) (need : Need) : Walk :=
  match walkCached s die asid va with
  | none => walk s die asid cls va need
  | some e =>
    match walkFrom s die asid cls va need (e.level - 1) e.table with
    | .bad _ _ => walk s die asid cls va need
    | r => r
/-- The lines that a walk from a table at a level reads. -/
def walkLines (s : State) (die : Nat) (va : Dword) : Nat → Nat → List Nat
  | 0, _ => []
  | level + 1, table =>
    let pa := table + 8 * bitsN va.toNat (13 + 10 * level) 10
    (pa / 128) :: match walkEntry s die pa 8 with
      | .inr _ => []
      | .inl pte => if bitsN pte 0 3 ≠ 1 then [] else walkLines s die va level (bitsN pte 13 39 * 2 ^ 13)
/-- The storage errors that a walk meets. -/
def walkReads (s : State) (die asid : Nat) (va : Dword) : State :=
  let ls := match walkCached s die asid va with
    | some e => walkLines s die va (e.level - 1) e.table
    | none => (ctlGet s 0x2208 + 32 * asid) / 128 :: walkLines s die va 4 (fieldB (astEntry s asid) 0 8)
  (ls.filter (homeHas s)).foldl readNewest s
/-- The walks of a die are over: what they asked for is asked for again by the next one. -/
def walkEnd (s : State) (die : Nat) : State := { s with walkAsks := s.walkAsks.filter fun e => decide (e.1 % 4 ≠ die) }
/-- A walk that found a translation leaves the entries it passed in the walk cache, and its own requests are over. -/
def walkFill (s : State) (die asid : Nat) (va : Dword) : State :=
  let new := match walkCached s die asid va with
    | some e => walkTables s die asid va (e.level - 1) e.table
    | none => walkTables s die asid va 4 (fieldB (astEntry s asid) 0 8)
  walkEnd { s with walkCache := new ++ s.walkCache.filter fun e => !(new.any fun n => decide (n = e)) } die
/-- A walk asks for a line that is not at hand, unless its request is open. -/
def walkAsk (s : State) (charge : Option Nat) (core line : Nat) : State :=
  let die := dieOf core
  let key := l2Key die line
  let r := strongRead s charge core line (mget? s.walkAsks key)
  match r.2.1 with
  | some n => { r.2.2 with walkAsks := mset r.2.2.walkAsks key n }
  | none => r.2.2

/-! ## TLB and last-page registers (09 R241 to R243) -/

/-- A filled window leaf raises the core's clock to PTIME (09 R257). -/
def fillClock (s : State) (core : Nat) (t : Xlat) : State :=
  if t.kind = 3 then raiseClock s core (BitVec.ofNat 48 (fieldB (winEntry s t.wid) 0x10 6)) else s
/-- Put a translation into a core's TLB of 4,096 entries. -/
def tlbFill (s : State) (core : Nat) (t : Xlat) : State :=
  modCore (fillClock s core t) core fun k => { k with
    tlb := ((t :: k.tlb.filter fun e => !(decide (e.asid = t.asid) && decide (e.va = t.va) && decide (e.size = t.size))).take
      4096) }
/-- Look an address up in a core's TLB, and walk where it has no entry that grants what is needed. A walk that waits has asked
for its line. -/
def tlbGet (s : State) (core asid cls : Nat) (va : Dword) (need : Need) : Walk × State :=
  match (getCore s core).tlb.find? fun t => covers t asid va && grants t need cls with
  | some t => (.ok t, s)
  | none =>
    let s := walkReads s (dieOf core) asid va
    match walkVia s (dieOf core) asid cls va need with
    | .ok t => (.ok t, tlbFill (walkFill s (dieOf core) asid va) core t)
    | .bad c k => (.bad c k, s)
    | .waits line => (.waits line, walkAsk s none core line)
/-- Translate for a unit of a context: lane l's last-page register first, for a lane. -/
def translate (s : State) (c u : Nat) (lane : Option Nat) (va : Dword) (need : Need) : Walk × State :=
  let x := getCtx s c
  let core := ctxCore x
  let hit := lane.bind fun l => (mget? (getUnit s c u).lp l).filter fun t => covers t x.asid va && grants t need x.cls
  match hit with
  | some t => (.ok t, s)
  | none => tlbGet s core x.asid x.cls va need
/-- A lane's register takes the translation that its access used. -/
def lpTake (s : State) (c u : Nat) (lane : Option Nat) (t : Xlat) : State :=
  match lane with
  | none => s
  | some l => modUnit s c u fun x => { x with lp := mset x.lp l t }

/-! ## Sweeps (09 R246, R247) -/

/-- A sweep covers a translation; scope 4 is the collapse engine's sweep for a replicated page (04 R111). -/
def sweepHits (scope size target va : Nat) (t : Xlat) : Bool :=
  if scope = 0 then true
  else if scope = 1 then decide (t.asid = target)
  else if scope = 2 then
    let n := leafBytes (min size 2)
    let m := leafBytes t.size
    decide (t.asid = target) && decide (t.va / m * m < va / n * n + n) && decide (va / n * n < t.va / m * m + m)
  else if scope = 3 then decide (t.kind = 3) && decide (t.wid = target)
  else decide (t.rep = some target)
/-- A sweep covers an access counter. -/
def sweepCount (scope size target va : Nat) (k : AccCount) : Bool :=
  if scope = 0 then true
  else if scope = 1 then decide (k.asid = target)
  else if scope = 2 then decide (k.asid = target) && decide (va / leafBytes (min size 2) = k.va / leafBytes (min size 2))
  else false
/-- The accesses of a unit in flight. -/
def openRefs (s : State) (c u : Nat) : List AccRef :=
  ((getUnit s c u).flight.filter fun a => !a.done).map fun a => { ctx := c, unit := u, acc := a.id }
/-- Every access in flight in the package. -/
def allRefs (s : State) : List AccRef :=
  (s.ctxs.map Prod.fst).flatMap fun c => (unitKeys s c).flatMap fun u => openRefs s c u
/-- A sweep clears an entry of a walk cache. -/
def sweepTable (scope size target va : Nat) (e : WalkEntry) : Bool :=
  if scope = 0 then true
  else if scope = 1 then decide (e.asid = target)
  else if scope = 2 then
    let n := leafBytes (min size 2)
    let m := 2 ^ (3 + 10 * e.level)
    decide (e.asid = target) && decide (e.region * m < va / n * n + n) && decide (va / n * n < e.region * m + m)
  else false
/-- A sweep clears a last-page register: for one page, every lane's of the ASID. -/
def sweepLane (scope size target va : Nat) (t : Xlat) : Bool :=
  if scope = 2 then decide (t.asid = target) else sweepHits scope size target va t
/-- Segments of copies that have been translated and have not ended. -/
def openSegs (s : State) : List (Nat × Nat × Nat × Nat) :=
  s.ctxs.flatMap fun e => e.2.units.flatMap fun u => u.2.copies.flatMap fun k =>
    (k.segs.filter fun g => g.issued && !g.done && g.failed.isNone).map fun g => (e.1, u.1, k.id, g.first)
/-- Start a sweep: cores, dies and lanes drop what it covers; it completes when the accesses in flight, and the open segments,
have ended. Walks that have asked for lines of the tables ask for them again (R262). The collapse engine's sweep waits for none: its page is held, and the physical page stays what it was. -/
def startSweep (s : State) (scope size target va : Nat) (reg : Bool) : Nat × State :=
  let id := s.nextSweep
  let hit := sweepHits scope size target va
  let s := { s with
    nextSweep := id + 1
    sweeps := s.sweeps ++ [{ id := id, scope := scope, size := size, target := target, va := va, reg := reg,
                             waits := if scope = 4 then [] else allRefs s, segs := if scope = 4 then [] else openSegs s }]
    walkAsks := []
    walkCache := s.walkCache.filter fun e => !sweepTable scope size target va e
    cores := s.cores.map fun e => (e.1, { e.2 with
      tlb := e.2.tlb.filter fun t => !hit t
      counters := e.2.counters.filter fun k => !sweepCount scope size target va k })
    ctxs := s.ctxs.map fun e => (e.1, { e.2 with units := e.2.units.map fun u =>
      (u.1, { u.2 with lp := u.2.lp.filter fun l => !sweepLane scope size target va l.2 }) }) }
  (id, post s 1 (.sweepComplete id))
/-- An access is still in flight. -/
def refOpen (s : State) (r : AccRef) : Bool :=
  (getUnit s r.ctx r.unit).flight.any fun a => decide (a.id = r.acc) && !a.done
/-- A sweep has nothing left to wait for. -/
def sweepOver (s : State) (w : Sweep) : Bool :=
  !(w.waits.any (refOpen s)) && (w.segs.isEmpty || !((openSegs s).any fun g => decide (g ∈ w.segs)))

/-! ## Access counters (09 R251 to R253) -/

/-- The register block of a die. -/
def acrBase (die : Nat) : Nat := 0x2440 + 0x20 * die
/-- ACR_CFG.EN. -/
def acrOn (s : State) (die : Nat) : Bool := decide (ctlField s (acrBase die + 8) 31 1 = 1)
/-- Write an access-counter record to a die's ring, or count it as lost. -/
def acrRecord (s : State) (die asid core va size count reason home : Nat) : State :=
  let n := 2 ^ max 8 (min 16 (ctlField s (acrBase die + 8) 16 5))
  let ptr := acrBase die + 0xC
  let tail := ctlField s ptr 16 16
  if (tail + 1) % n = ctlField s ptr 0 16 % n then ctlCount s (acrBase die + 0x10) 0 32 1
  else
    let b := leBytes 8 (va + size) ++ leBytes 2 asid ++ leBytes 2 core ++ leBytes 2 count ++ leBytes 1 reason ++ leBytes 1 home
    ctlPut (hwWrite s (ctlGet s (acrBase die) + 16 * (tail % n)) b) ptr 16 16 ((tail + 1) % n)
/-- The entry with the lowest count, the first on a tie. -/
def lowestCount : List AccCount → Option AccCount
  | [] => none
  | k :: t =>
    match lowestCount t with
    | none => some k
    | some m => if k.count ≤ m.count then some k else some m
/-- Count one item sent through a remote leaf with ACE. -/
def countAccess (s : State) (core : Nat) (t : Xlat) : State :=
  let die := dieOf core
  if !t.ace || !acrOn s die then s
  else
    let same (k : AccCount) : Bool := decide (k.asid = t.asid) && decide (k.va = t.va) && decide (k.size = t.size)
    let ks := (getCore s core).counters
    let home := bitsN t.pa 45 7
    let (s, ks) :=
      if ks.any same then (s, ks)
      else
        let new : AccCount := { asid := t.asid, va := t.va, size := t.size, count := 0, home := home }
        match (if ks.length < 256 then none else lowestCount ks) with
        | none => (s, ks ++ [new])
        | some m => (acrRecord s die m.asid core m.va m.size m.count 1 m.home, ks.map fun k => if k = m then new else k)
    let thresh := max 1 (ctlField s (acrBase die + 8) 0 16)
    let n := ((ks.find? same).elim 0 AccCount.count) + 1
    let s := if thresh ≤ n then acrRecord s die t.asid core t.va t.size n 0 home else s
    let ks := ks.map fun k => if same k then { k with count := if thresh ≤ n then 0 else n } else k
    modCore s core fun k => { k with counters := ks }

end Sys2Proof.Machine
end

