-- ==== Sys2Proof/Machine/Halo.lean ====
section
/-! DEFINITION. Memory as the engines of a core read and write it, the firewall (03 R73 to R75), and halo tiles: their
geometry, the redirection of loads, the check of stores and the pushes (04 R113 to R119). -/

namespace Sys2Proof.Machine

/-! ## The firewall (03 R73 to R76) -/

/-- The physical address of the entry for a line's page. -/
def fwEntryPa (s : State) (line : Nat) : Nat :=
  ownEp s * 2 ^ 45 + (ctlGet s 0x0244 * 2 ^ 32 + ctlGet s 0x0240 + 8 * (lineOff line / 64)) % 2 ^ 45
/-- The entry, from the cache or from memory. -/
def fwEntry (s : State) (line : Nat) : Dword × State :=
  match mget? s.fwCache (lineOff line / 64) with
  | some x => (x, s)
  | none =>
    let x := BitVec.ofNat 64 (hwNat s (fwEntryPa s line) 8)
    (x, { s with fwCache := mset s.fwCache (lineOff line / 64) x })
/-- The firewall checks requests (03 R73). -/
def fwOn (s : State) : Bool := decide (ctlField s 0x0248 0 1 ≠ 0)
/-- A cell may gain ownership of a line of this endpoint. -/
def fwAllows (s : State) (line cell : Nat) : Bool × State :=
  if !fwOn s then (true, s)
  else
    let r := fwEntry s line
    (r.1.getLsbD cell, r.2)

/-! ## Replicated pages (04 R111) -/

/-- The map index of the page of a line, when its writes are matched. -/
def repIdx (s : State) (line : Nat) : Option Nat := if ownLine s line then mget? s.reps (line / 64) else none
/-- A held write is still to perform. -/
def repLive (s : State) (idx : Nat) (w : RepWrite) : Bool :=
  match w with
  | .access r => (getUnit s r.ctx r.unit).flight.any fun a => decide (a.id = r.acc) && !a.done && a.pieces.any fun p =>
      !p.done && p.failed.isNone && decide (repIdx s (p.pa / 128) = some idx)
  | .request line e => (getHome s line).turn = some e
  | .copy c u k => (getUnit s c u).copies.any fun x => decide (x.id = k) && !x.stopped
  | .span id => (mget? s.spans id).any fun x => !x.done
/-- The writes that a page holds, in order of arrival. -/
def repWaits (s : State) (idx : Nat) : List RepWrite :=
  (s.repHeld.filter fun e => decide (e.1 = idx) && repLive s idx e.2).map Prod.snd
/-- A write joins those that the page holds. -/
def repHold (s : State) (idx : Nat) (w : RepWrite) : State := { s with repHeld := addOnce s.repHeld (idx, w) }
/-- The first page of a map entry. -/
def repPage (s : State) (idx : Nat) : Nat := (s.reps.find? fun e => decide (e.2 = idx)).elim 0 Prod.fst
/-- The collapses of a home die that have one of its four places. -/
def dieCollapses (s : State) (die : Nat) : Nat :=
  s.collapses.countP fun k => !k.swept && decide (homeDie (64 * k.page) = die)
/-- Step 2 of a collapse: the replicate bit is cleared, and the sweep starts. -/
def startCollapse (s : State) (idx : Nat) : State :=
  let page := repPage s idx
  let pte := hwNat s (ctlGet s 0x2420 + 64 * idx + 8) 8
  let s := hwWrite s pte (leBytes 8 (hwNat s pte 8 - (if bitN (hwNat s pte 8) 6 then 64 else 0)))
  let r := startSweep s 4 0 idx 0 false
  let s := ctlPut { r.2 with collapses := r.2.collapses ++ [{ page := page, idx := idx }] } 0x0308 31 1 1
  post s 1 (.replicaCollapseDone page)
/-- Step 4 is over for a page that holds no write any more: it is an ordinary page. -/
def repForget (s : State) (idx : Nat) : State :=
  { s with
    reps := s.reps.filter fun e => decide (e.2 ≠ idx)
    collapses := s.collapses.filter fun k => decide (k.idx ≠ idx)
    repHeld := s.repHeld.filter fun e => decide (e.1 ≠ idx) }
/-- A write meets a replicated page (04 R111; 09 R255): whether it is held, and the state. The first one starts a collapse,
or waits with it for a place; a write to a page whose replica is not valid yet makes the arming fail. -/
def meetReplica (s : State) (line : Nat) (w : RepWrite) : Bool × State :=
  match repIdx s line with
  | none => (false, s)
  | some idx =>
    if s.arming.any fun a => decide (a.1 = idx) then
      (false, { s with arming := s.arming.map fun a => if a.1 = idx then (idx, true) else a })
    else
      match s.collapses.find? fun k => decide (k.idx = idx) with
      | some k =>
        if !k.swept then (true, repHold s idx w)
        else
          match repWaits s idx with
          | [] => (false, repForget s idx)
          | v :: _ => if v = w then (false, s) else (true, repHold s idx w)
      | none =>
        let s := repHold s idx w
        if idx ∈ s.repQueue then (true, s)
        else if 4 ≤ dieCollapses s (homeDie line) ∨ s.repQueue.any fun q => decide (homeDie (64 * repPage s q) = homeDie line) then
          (true, { s with repQueue := s.repQueue ++ [idx] })
        else (true, startCollapse s idx)

/-! ## Engine reads and writes (10 R266, R267) -/

/-- The count at which a line was asked for. -/
def askOf (asks : List (Nat × Nat)) (line : Nat) : Option Nat := (asks.find? fun e => decide (e.1 = line)).map Prod.snd
/-- What an engine's read answers: the bytes and their poison, or that it waits, or that its home refused an offset. -/
structure Got where
  data : Option (List Byte × Bool)
  asks : List (Nat × Nat)
  st : State
  refused : Option Cause
/-- Read lines in turn. -/
def engineLines (core : Nat) (charge : Option Nat) : List Nat → State → List (Nat × Nat) → Bool → Got
  | [], s, asks, ok => ⟨if ok then some ([], false) else none, asks, s, none⟩
  | l :: t, s, asks, ok =>
    let r := strongRead s charge core l (askOf asks l)
    let asks := match r.2.1 with
      | some n => (l, n) :: asks.filter fun e => decide (e.1 ≠ l)
      | none => asks
    let g := engineLines core charge t r.2.2 asks (ok && r.1.isSome)
    match r.1, g.data with
    | some (d, p, _), some (d', p') => ⟨some (d ++ d', p || p'), g.asks, g.st, none⟩
    | _, _ => ⟨none, g.asks, g.st, none⟩
/-- The lines that n bytes from an address touch. -/
def linesOf (pa n : Nat) : List Nat :=
  if n = 0 then [] else (List.range ((pa + n - 1) / 128 - pa / 128 + 1)).map fun i => pa / 128 + i
/-- A line whose offset does not exist at its home, as far as this endpoint knows (03 R57). -/
def pageRefused (s : State) (line : Nat) : Bool :=
  (ownLine s line && refusedOff line) || (mget? s.refusals line).any fun r => decide (r.1 = .page)
/-- The cause with which a request for one of some lines has ended, made at one of the counts (02 R54; 03 R57). -/
def askRefused (s : State) (asks : List (Nat × Nat)) (lines : List Nat) : Option Cause :=
  lines.findSome? fun l =>
    match mget? s.refusals l, askOf asks l with
    | some (c, k), some n => if n ≤ k then some c else none
    | _, _ => none
/-- Read n bytes at their home, with forwarding. -/
def engineGet (s : State) (core : Nat) (charge : Option Nat) (asks : List (Nat × Nat)) (pa n : Nat) : Got :=
  if (linesOf pa n).any (pageRefused s) then { data := none, asks := asks, st := s, refused := some .page }
  else if (askRefused s asks (linesOf pa n)).isSome then
    { data := none, asks := asks, st := s, refused := askRefused s asks (linesOf pa n) }
  else
    let g := engineLines core charge (linesOf pa n) s asks true
    { g with data := g.data.map fun d => (sliceB d.1 (pa % 128) n, d.2) }

/-- How an engine's write of a line goes. -/
inductive PutRes where
  | done | waits | refused (c : Cause)
  deriving DecidableEq, Repr
/-- The die whose L2 performs an engine's write of a line. -/
def putDie (s : State) (core line : Nat) : Nat := if ownLine s line then homeDie line else dieOf core
/-- Write bytes into an owned line as a non-lane write: its time is later than every lease (04 R102). -/
def putLine (s : State) (die line off : Nat) (d : List Byte) : State :=
  match getL2 s die line with
  | none => s
  | some x =>
    putL2 (dropL1 s line) die line { x with
      st := .m, wts := x.rts + 1, rts := x.rts + 1, data := patchB x.data off d,
      poison := x.poison && decide (d.length ≠ 128) }
where
  /-- No L1 copy of a line that is written stays. -/
  dropL1 (s : State) (line : Nat) : State := { s with l1 := s.l1.filter fun e => decide (e.1 / 320 ≠ line) }
/-- Write bytes of one line: ownership first, then the wait for leases, then the write. -/
def enginePut (s : State) (core : Nat) (charge : Option Nat) (w : RepWrite) (pa : Nat) (d : List Byte) : PutRes × State :=
  let line := pa / 128
  let die := putDie s core line
  let fw := if ownLine s line then fwAllows s line (ownCell s) else (true, s)
  if !fw.1 then (.refused .firewall, fw.2)
  else
    let s := fw.2
    let m := meetReplica s line w
    if m.1 then (.waits, m.2)
    else
      let s := m.2
      if mayStore s die line then
        let last := max (getHome s line).lastGrant ((getL2 s die line).elim 0 L2Line.lastGrant)
        if leaseLeft s last = 0 then (.done, putLine s die line (pa % 128) d) else (.waits, s)
      else
        match mget? s.refusals line with
        | some r => (.refused r.1, { s with refusals := mdel s.refusals line })
        | none => (.waits, (askOnce s charge die line true (clk s core) none).2)

/-! ## Halo descriptors (04 R113 to R115) -/

/-- The fields of a descriptor. -/
structure HaloD where
  base : Nat
  pitch : Nat
  rows : Nat
  cols : Nat
  trows : Nat
  tcols : Nat
  esz : Nat
  hw : Nat
  loff : Nat
  owners : List Nat
  deriving DecidableEq, Repr
/-- Read a descriptor of 64 bytes. -/
def haloOf (b : List Byte) : HaloD :=
  { base := fieldB b 0 8, pitch := fieldB b 8 4, rows := fieldB b 0xC 2, cols := fieldB b 0xE 2, trows := fieldB b 0x10 2,
    tcols := fieldB b 0x12 2, esz := if fieldB b 0x14 1 = 0 then 4 else 8, hw := fieldB b 0x15 1,
    loff := fieldB b 0x18 4, owners := (List.range 16).map fun n => fieldB b (0x20 + 2 * n) 2 }
/-- Tiles in a row of tiles. -/
def HaloD.across (h : HaloD) : Nat := h.cols / h.tcols
/-- Tiles of the region. -/
def HaloD.tiles (h : HaloD) : Nat := h.rows / h.trows * h.across
/-- The first row and column of a tile. -/
def HaloD.corner (h : HaloD) (t : Nat) : Nat × Nat := (t / h.across * h.trows, t % h.across * h.tcols)
/-- The tile of an element. -/
def HaloD.tileAt (h : HaloD) (r c : Nat) : Nat := r / h.trows * h.across + c / h.tcols
/-- The VA of an element. -/
def HaloD.va (h : HaloD) (r c : Nat) : Nat := h.base + r * h.pitch + c * h.esz
/-- The element that holds the byte at a VA. -/
def HaloD.elemAt (h : HaloD) (a : Nat) : Option (Nat × Nat) :=
  if a < h.base ∨ h.pitch = 0 then none
  else
    let r := (a - h.base) / h.pitch
    let c := (a - h.base) % h.pitch / h.esz
    if r < h.rows ∧ c < h.cols then some (r, c) else none
/-- The frame of tile t has a place for an element of another tile. -/
def HaloD.inFrame (h : HaloD) (t r c : Nat) : Bool :=
  let k := h.corner t
  decide (h.tileAt r c ≠ t) && decide (k.1 ≤ r + h.hw) && decide (r < k.1 + h.trows + h.hw) && decide (k.2 ≤ c + h.hw) &&
    decide (c < k.2 + h.tcols + h.hw)
/-- The local-store offset of that place. -/
def HaloD.frameOff (h : HaloD) (t r c : Nat) : Nat :=
  let k := h.corner t
  h.loff + ((r + h.hw - k.1) * (h.tcols + 2 * h.hw) + (c + h.hw - k.2)) * h.esz
/-- Bytes of a frame. -/
def HaloD.frameLen (h : HaloD) : Nat := (h.trows + 2 * h.hw) * (h.tcols + 2 * h.hw) * h.esz
/-- The elements of tile t that stand in some other tile's frame. -/
def HaloD.edges (h : HaloD) (t : Nat) : List (Nat × Nat) :=
  let k := h.corner t
  let all := (List.range h.trows).flatMap fun y => (List.range h.tcols).map fun x => (k.1 + y, k.2 + x)
  all.filter fun e => (List.range h.tiles).any fun n => h.inFrame n e.1 e.2
/-- The elements that the frame of tile t holds. -/
def HaloD.frameElems (h : HaloD) (t : Nat) : List (Nat × Nat) :=
  let k := h.corner t
  let all := (List.range (h.trows + 2 * h.hw)).flatMap fun y => (List.range (h.tcols + 2 * h.hw)).map fun x => (k.1 + y, k.2 + x)
  (all.filter fun e => decide (h.hw ≤ e.1) && decide (h.hw ≤ e.2)).filterMap fun e =>
    let r := e.1 - h.hw
    let c := e.2 - h.hw
    if r < h.rows ∧ c < h.cols ∧ h.inFrame t r c then some (r, c) else none

/-- Where a lane load of n bytes of a context is served from a frame, on the owner core of the frame's tile: the local-store
offset (04 R116). -/
def haloRedirect (x : Ctx) (va : Dword) (n : Nat) : Option Nat :=
  ((x.halos.filter fun e => decide ((haloOf e.2.desc).owners.getD e.2.tile 0xFFFF = ctxCore x)).filterMap fun e =>
    let h := haloOf e.2.desc
    match h.elemAt va.toNat with
    | none => none
    | some (r, c) =>
      if h.va r c = va.toNat ∧ n = h.esz ∧ h.inFrame e.2.tile r c then some (h.frameOff e.2.tile r c) else none).head?
/-- A store of n bytes of a context on a core touches a tile of another core (04 R117). -/
def haloForeign (x : Ctx) (core : Nat) (va : Dword) (n : Nat) : Bool :=
  x.halos.any fun e =>
    let h := haloOf e.2.desc
    (List.range n).any fun i =>
      match h.elemAt (va.toNat + i) with
      | none => false
      | some (r, c) => decide (h.owners.getD (h.tileAt r c) 0xFFFF ≠ core)

/-! ## Pushes (04 R118; 20 R468) -/

/-- How the read of one element goes. -/
inductive ElemRes where
  | got (d : List Byte)
  | waits
  | bad (c : Cause) (code : Nat)
  deriving DecidableEq, Repr
/-- Read an element at a VA for a context's movement processor. -/
def readElem (s : State) (c : Nat) (asks : List (Nat × Nat)) (va n : Nat) : ElemRes × List (Nat × Nat) × State :=
  let x := getCtx s c
  let core := ctxCore x
  let a := BitVec.ofNat 64 va
  if !canonAccess a n then (.bad .addrNoncanon 0, asks, s)
  else
    match tlbGet s core x.asid x.cls a { r := true } with
    | (.bad k code, s) => (.bad k code, asks, walkEnd s (dieOf core))
    | (.waits _, s) => (.waits, asks, s)
    | (.ok t, s) =>
      let g := engineGet s core (some c) asks (xlatPa t a) n
      match g.data with
      | none => (g.refused.elim .waits fun k => .bad k 0, g.asks, g.st)
      | some (d, p) => if p then (.bad .poison 0, g.asks, g.st) else (.got d, g.asks, g.st)

/-- The contexts whose frames a push writes: those of the same ASID and class with a live declaration of the same BASE,
by owner core. -/
def frameOwner (s : State) (x : Ctx) (base core : Nat) : Option (Nat × Halo) :=
  (s.ctxs.filterMap fun e =>
    if e.2.live ∧ e.2.asid = x.asid ∧ e.2.cls = x.cls ∧ ctxCore e.2 = core then
      (mget? e.2.halos base).map fun h => (e.1, h)
    else none).head?
/-- Write one element into the frames of the neighbouring owners. -/
def writeFrames (s : State) (x : Ctx) (h : HaloD) (own r c : Nat) (d : List Byte) : State :=
  (List.range h.tiles).foldl (fun s t =>
    if t = own ∨ !h.inFrame t r c then s
    else
      match frameOwner s x h.base (h.owners.getD t 0xFFFF) with
      | none => s
      | some (k, hk) => modCtx s k fun y => lsWrite y ((haloOf hk.desc).frameOff t r c) d) s
/-- Read the elements of a push that can be read now: those that wait, those read, and the state. A read that faults
halts the context and leaves its element out. -/
def pushReads (c : Nat) (h : HaloD) (p : Push) : List (Nat × Nat) → State → Push × State
  | [], s => (p, s)
  | (r, k) :: t, s =>
    match readElem s c p.asks (h.va r k) h.esz with
    | (.got d, asks, s) => pushReads c h { p with asks := asks, read := p.read ++ [(r, k, d)] } t s
    | (.waits, asks, s) => pushReads c h { p with asks := asks, todo := p.todo ++ [(r, k)] } t s
    | (.bad cause code, asks, s) =>
      let detail := if cause = .page ∧ code = 0 then 4 else 0
      let s := engineHalt s c p.car (engineRecord s c p.car cause detail code p.word (BitVec.ofNat 64 (h.va r k)))
      pushReads c h { p with asks := asks } t s

/-- Start the push of the core's tile for every live declaration of a context. What is at hand is read now, as it stands just
after the release; the rest is asked for. -/
def startPushes (s : State) (c car : Nat) (word : Word) : State :=
  (getCtx s c).halos.foldl (fun s e =>
    let h := haloOf e.2.desc
    let id := (getCtx s c).nextPush
    let r := pushReads c h { id := id, halo := e.2, car := car, word := word, todo := [] } (h.edges e.2.tile) s
    let s := modCtx r.2 c fun x => { x with nextPush := id + 1, pushes := x.pushes ++ [r.1] }
    post s 1 (.haloPushWrite c id)) s

/-- HALO_PUSH_WRITE (04 R118): the push reads what it can; once nothing is left to read, it writes the frames. -/
def execHaloPushWrite (c id : Nat) (s : State) : Host.Outcome State Fault Refusal :=
  let x := getCtx s c
  .next (match x.pushes.find? fun p => decide (p.id = id) with
  | none => s
  | some p =>
    if s.stopped then s
    else
    let h := haloOf p.halo.desc
    let r := pushReads c h { p with todo := [] } p.todo s
    let s := r.2
    if r.1.todo.isEmpty then
      let s := r.1.read.foldl (fun s e => writeFrames s x h p.halo.tile e.1 e.2.1 e.2.2) s
      modCtx s c fun x => { x with pushes := x.pushes.filter fun q => decide (q.id ≠ id) }
    else
      let s := modCtx s c fun x => { x with pushes := x.pushes.map fun q => if q.id = id then r.1 else q }
      post s 1 (.haloPushWrite c id))

end Sys2Proof.Machine
end

