-- ==== Sys2Proof/Machine/Perform.lean ====
section
/-! DEFINITION. Accesses in flight: how each part of an access performs at its line, its bank or its home, and what an
access does when all of its parts have performed or failed (04 R100 to R103; 03 R65, R83 to R87; 07 R198, R201 to R204;
10 R263 to R265; 19 R440 to R451). -/

namespace Sys2Proof.Machine

/-! ## Finding an access -/

/-- An access in flight. -/
def getAcc (s : State) (r : AccRef) : Option Access := (getUnit s r.ctx r.unit).flight.find? fun a => decide (a.id = r.acc)
/-- Change it. -/
def modAcc (s : State) (r : AccRef) (f : Access → Access) : State :=
  modUnit s r.ctx r.unit fun t => { t with flight := t.flight.map fun a => if a.id = r.acc then f a else a }
/-- Change one of its pieces. -/
def modPiece (s : State) (r : AccRef) (k : Nat) (f : Piece → Piece) : State :=
  modAcc s r fun a => { a with pieces := a.pieces.zipIdx.map fun e => if e.2 = k then f e.1 else e.1 }
/-- The piece has neither performed nor failed. -/
def Piece.isOpen (p : Piece) : Bool := !p.done && p.failed.isNone
/-- The line of a piece. -/
def Piece.line (p : Piece) : Nat := p.pa / 128
/-- A piece has performed with its data, or failed. -/
def donePiece (s : State) (r : AccRef) (k : Nat) (d : Dword) : State :=
  modPiece s r k fun p => { p with done := true, data := d }
/-- A piece has failed. -/
def failPiece (s : State) (r : AccRef) (k : Nat) (c : Cause) : State := modPiece s r k fun p => { p with failed := some c }
/-- The kind stores. -/
def AccKind.stores (k : AccKind) : Bool := decide (k = .store) || decide (k = .release)
/-- The kind is an atomic. -/
def AccKind.isAtomic (k : AccKind) : Bool :=
  match k with
  | .atomic _ => true
  | _ => false
/-- The kind reads or writes coherent memory as a lane access does. -/
def AccKind.isLane (k : AccKind) : Bool :=
  decide (k = .load) || decide (k = .acquire) || k.stores || k.isAtomic
/-- The access is a lane access to coherent memory through this piece. -/
def lanePiece (a : Access) (p : Piece) : Bool := a.kind.isLane && (decide (p.served = .mem) || decide (p.served = .replica))
/-- The piece reaches a bank. -/
def Piece.isBank (p : Piece) : Bool :=
  match p.served with
  | .bank _ => true
  | _ => false

/-- Older accesses of the unit. -/
def olderThan (t : Thread) (a : Access) : List Access := t.flight.filter fun b => decide (b.id < a.id)
/-- An older access of the unit holds the piece back: lane accesses of the cell perform in issue order, accesses to banks
too, and for a line of another cell stores keep their order and no load passes an atomic. -/
def heldBack (s : State) (t : Thread) (a : Access) (p : Piece) : Bool :=
  (olderThan t a).any fun b => b.pieces.any fun q =>
    q.isOpen &&
      (if p.isBank then q.isBank
       else if cellLine s p.line then lanePiece b q && cellLine s q.line
       else lanePiece b q && decide (q.line = p.line) && (b.kind.isAtomic || (b.kind.stores && !decide (a.kind = .load))))

/-! ## Bytes -/

/-- The bytes of a piece's data. -/
def Piece.bytes (p : Piece) : List Byte := leBytes p.len (p.data.toNat / 2 ^ (8 * p.pos))
/-- A number read at the piece's position in its element. -/
def pieceData (p : Piece) (line : List Byte) : Dword := BitVec.ofNat 64 (fieldB line (p.pa % 128) p.len * 2 ^ (8 * p.pos))
/-- What older stores of the unit that have not performed write over the bytes of a line that a load reads
(19 R441). -/
def overlayStores (t : Thread) (a : Access) (line : Nat) (d : List Byte) : List Byte :=
  (olderThan t a).foldl (fun d b =>
    if !b.kind.stores then d
    else b.pieces.foldl (fun d q =>
      if q.isOpen && decide (q.served = .mem) && decide (q.line = line) then patchB d (q.pa % 128) q.bytes else d) d) d

/-! ## Atomics (19 R449) -/

/-- The value that an atomic writes. -/
def atomicNew (op : AtOp) (ty old x cmp : Nat) : Nat :=
  let w := tyBits ty
  let i (y : Nat) : Int := intOf (isSigned ty) w y
  match op with
  | .add =>
    if isInt ty then (old + x) % 2 ^ w
    else
      let v := addNum 0 (valOf ty true false old) (valOf ty true false x)
      (roundNum ty { rm := 0, sat := false, inf := true, ftz := false, x := 0 } v.1).bits
  | .min => if i x < i old then x else old
  | .max => if i old < i x then x else old
  | .and => old &&& x
  | .or => old ||| x
  | .xor => old ^^^ x
  | .xch => x
  | .cas => if old = cmp then x else old

/-! ## One piece -/

/-- The core, and the clock with which a unit's request goes out. -/
def refCore (s : State) (r : AccRef) : Nat := ctxCore (getCtx s r.ctx)
/-- The write time of an expired copy that a request names (04 R106). -/
def expiredCopy (s : State) (core line : Nat) : Option Stamp :=
  match getL2 s (dieOf core) line with
  | some x => if x.st = .s ∧ cellLine s line then some x.wts else none
  | none => none
/-- The request of a piece of another endpoint's memory enters the port: its time runs from now (02 R54). -/
def startTimer (s : State) (r : AccRef) (k : Nat) : State :=
  match (getAcc s r).bind fun a => a.pieces[k]? with
  | none => s
  | some p =>
    if ownLine s p.line || decide (p.deadline ≠ 0) then s
    else
      let d := timeoutOf (getCtx s r.ctx)
      post (modPiece s r k fun p => { p with deadline := s.now + d }) d (.transactionTimeout (.access r))
/-- Ask for the line of a piece, noting when. -/
def askPiece (s : State) (r : AccRef) (k line : Nat) (own : Bool) : State :=
  let core := refCore s r
  let s := startTimer s r k
  let q := askOnce s (some r.ctx) (dieOf core) line own (clk s core) (if own then none else expiredCopy s core line)
  match q.1 with
  | some n => modPiece q.2 r k fun p => { p with asked := some n }
  | none => q.2
/-- The line of a die's own replica of a page, by the page's map entry (04 R110; 09 R255). -/
def replicaLine (s : State) (die idx line : Nat) : Nat :=
  ownEp s * 2 ^ 38 + bitsN (hwNat s (ctlGet s 0x2420 + 64 * idx + 0x18 + 8 * die) 8) 13 32 * 64 + line % 64
/-- An ordinary load of a piece (04 R100, R110). -/
def tryLoad (s : State) (r : AccRef) (a : Access) (k : Nat) (p : Piece) : State :=
  let core := refCore s r
  let rep := if p.served = .replica then (mget? s.reps (p.line / 64)).filter fun idx => !(s.collapses.any fun k => decide (k.idx = idx) && k.swept) else none
  match rep with
  | some idx =>
    let line := replicaLine s (dieOf core) idx p.line
    let s := readHbm s line
    let d := memData s line
    let s := raiseClock s core (p.aux.setWidth 48)
    if d.2 then failPiece s r k .poison else donePiece s r k (pieceData p d.1)
  | none =>
    let s := readCaches s core p.line
    match readLine s r.ctx core p.line p.asked with
    | none => askPiece s r k p.line false
    | some (d, pois, s) =>
      if pois then failPiece s r k .poison
      else
        let d := if cellLine s p.line then d else overlayStores (getUnit s r.ctx r.unit) a p.line d
        donePiece s r k (pieceData p d)
/-- An acquire of a piece (04 R103; 19 R445). -/
def tryAcquire (s : State) (r : AccRef) (k : Nat) (p : Piece) : State :=
  let core := refCore s r
  let q := strongRead s (some r.ctx) core p.line p.asked
  let s := q.2.2
  match q.1 with
  | none => startTimer (modPiece s r k fun p => { p with asked := q.2.1 }) r k
  | some (d, pois, wts) =>
    let s := if cellLine s p.line then raiseClock s core wts else s
    if pois then failPiece s r k .poison else donePiece s r k (pieceData p d)
/-- The write of an item: every piece of one line, the higher lane's byte standing (19 R441). -/
def storeItem (s : State) (core die line : Nat) (ps : List Piece) : State :=
  match getL2 s die line with
  | none => s
  | some x =>
    let d := ps.foldl (fun d p => patchB d (p.pa % 128) p.bytes) x.data
    let hit (i : Nat) : Bool := ps.any fun p => decide (p.pa % 128 ≤ i) && decide (i < p.pa % 128 + p.len)
    let full := (List.range 128).all hit
    storeLine s core die line 0 (if full then d else [])
      |> fun s => match getL2 s die line with
        | none => s
        | some y => putL2 s die line { y with data := d, poison := x.poison && !full }
/-- A store of every open piece of one line (04 R102; 03 R65). -/
def tryStore (s : State) (r : AccRef) (a : Access) (k : Nat) (p : Piece) : State :=
  let core := refCore s r
  let line := p.line
  let m := meetReplica s line (.access r)
  if m.1 then m.2
  else
    let s := m.2
    let die := dieOf core
    let s := readL2 s die line
    if !mayStore s die line then askPiece s r k line true
    else if decide (a.kind = .release) && a.obs.getLsbD 3 && cellLine s line && !(getFilt s line).awaitEps.isEmpty then s
    else
      let ps := a.pieces.filter fun q => q.isOpen && decide (q.line = line) && decide (q.served = .mem)
      let s := storeItem s core die line ps
      let s := if cellLine s line && !(getFilt s line).awaitEps.isEmpty then
          modUnit s r.ctx r.unit fun t => { t with invs := addOnce t.invs line }
        else s
      let g (q : Piece) : Piece :=
        if q.isOpen && decide (q.line = line) && decide (q.served = .mem) then { q with done := true } else q
      modAcc s r fun a => { a with pieces := a.pieces.map g }
/-- An older open lane of the same atomic targets the same line. -/
def lowerLane (a : Access) (k : Nat) (p : Piece) : Bool :=
  (a.pieces.take k).any fun q => q.isOpen && decide (q.pa = p.pa)
/-- An atomic of one lane (19 R450, R451). -/
def tryAtomic (s : State) (r : AccRef) (a : Access) (op : AtOp) (k : Nat) (p : Piece) : State :=
  let core := refCore s r
  let line := p.line
  if lowerLane a k p then s
  else if !cellLine s line then
    if p.asked.isSome then s
    else
      let s := startTimer s r k
      let tid := s.nextTxn
      let s := { s with nextTxn := tid + 1, txns := mset s.txns tid r }
      let s := modPiece s r k fun p => { p with asked := some tid }
      sendMsg s (homeEp line) (some r.ctx) (.atomic { pa := p.pa, op := op, ty := a.ty, operand := p.data, compare := p.aux,
                                                      src := ownEp s, tid := tid })
  else
    let m := meetReplica s line (.access r)
    if m.1 then m.2
    else
      let s := m.2
      let die := dieOf core
      let s := readL2 s die line
      if !mayStore s die line then askPiece s r k line true
      else if a.obs.getLsbD 3 && !(getFilt s line).awaitEps.isEmpty then s
      else
        match getL2 s die line with
        | none => s
        | some x =>
          if x.poison then failPiece s r k .poison
          else
            let old := fieldB x.data (p.pa % 128) p.len
            let new := atomicNew op a.ty old p.data.toNat p.aux.toNat
            let s := storeLine s core die line (p.pa % 128) (leBytes p.len new)
            let s := if (getFilt s line).awaitEps.isEmpty then s
              else modUnit s r.ctx r.unit fun t => { t with invs := addOnce t.invs line }
            donePiece s r k (BitVec.ofNat 64 old)
/-- A word that n bytes of a bank touch is poisoned. -/
def bankPois (x : Ctx) (a n : Nat) : Bool :=
  (List.range (n / 4 + 1)).any fun i => decide (4 * (a / 4 + i) < a + n) && lsPois x (a + 4 * i)
/-- A cluster access reaches its bank (07 R202, R207). -/
def tryBank (s : State) (r : AccRef) (a : Access) (k c : Nat) (p : Piece) : State :=
  let s := if a.kind = .ldx then readLs s c p.pa p.len else s
  let x := getCtx s c
  if a.kind = .ldx then
    if bankPois x p.pa p.len then failPiece s r k .poison
    else donePiece s r k (BitVec.ofNat 64 (leNat (lsRead x p.pa p.len)))
  else donePiece (putCtx s c (lsWrite x p.pa p.bytes)) r k p.data
/-- One attempt at a piece. -/
def tryPiece (s : State) (r : AccRef) (k : Nat) : State :=
  match getAcc s r with
  | none => s
  | some a =>
    match a.pieces[k]? with
    | none => s
    | some p =>
      if !p.isOpen || heldBack s (getUnit s r.ctx r.unit) a p then s
      else
        match a.kind, p.served with
        | _, .own => s
        | _, .bank c => tryBank s r a k c p
        | .load, _ => tryLoad s r a k p
        | .acquire, _ => tryAcquire s r k p
        | .store, _ => tryStore s r a k p
        | .release, _ => tryStore s r a k p
        | .atomic op, _ => tryAtomic s r a op k p
        | .ldl, _ => s
        | .ldx, _ => s
        | .stx, _ => s
        | .lsto, _ => s
        | .lreq, _ => s

/-! ## The end of an access -/

/-- The pieces of a lane. -/
def lanePieces (a : Access) (l : Nat) : List Piece := a.pieces.filter fun p => decide (p.lane = l)
/-- The lanes of an access, ascending; 32 for group scope. -/
def accLanes (a : Access) : List Nat := (List.range 33).filter fun l => !(lanePieces a l).isEmpty
/-- A lane failed. -/
def laneFailed (a : Access) (l : Nat) : Bool := (lanePieces a l).any fun p => p.failed.isSome
/-- The value that a lane read. -/
def laneValue (a : Access) (l : Nat) : Nat := (lanePieces a l).foldl (fun x p => x + p.data.toNat) 0
/-- The kind returns a value to a destination. -/
def returnsValue (a : Access) : Bool :=
  decide (a.dst ≠ 0x80) && (decide (a.kind = .load) || decide (a.kind = .acquire) || decide (a.kind = .ldl) ||
    decide (a.kind = .ldx) || a.kind.isAtomic)
/-- Write a lane's value into the destination; 32 is the group's. -/
def writeDst (t : Thread) (a : Access) (l : Nat) : Thread :=
  let x := regForm a.ty (laneValue a l)
  if a.dst < 0x80 then
    if isWide a.ty then wrVV t a.dst l x else wrV t a.dst l (x.setWidth 32)
  else if isWide a.ty then wrGG t (a.dst - 0xC0) x
  else wrG t (a.dst - 0xC0) (x.setWidth 32)
/-- The codes of the destination. -/
def dstCodes (a : Access) : List Nat := if isWide a.ty then [a.dst, a.dst + 1] else [a.dst]
/-- Lanes written lose their pending and RCL marks, failed ones the pending mark. -/
def unmark (t : Thread) (a : Access) (ok : Mask) (bad : Mask) : Thread :=
  (dstCodes a).foldl (fun t c =>
    if c < 0x80 then
      { t with vpend := mput t.vpend 0 c (mgetD t.vpend c 0 &&& ~~~ (ok ||| bad))
               vrcl := mput t.vrcl 0 c (mgetD t.vrcl c 0 &&& ~~~ ok) }
    else
      { t with gpend := mput t.gpend false (c - 0xC0) false
               grcl := if bad = 0 then mput t.grcl false (c - 0xC0) false else t.grcl }) t
/-- The lowest of some addresses. -/
def lowestAddr : List Dword → Dword
  | [] => 0
  | [a] => a
  | a :: t => let b := lowestAddr t; if a.toNat ≤ b.toNat then a else b
/-- The lanes that a mask names for some lanes of an access: the slot's mask for group scope, every lane for a landing
store through a g name (11 R287). -/
def lanesMask (a : Access) (ls : List Nat) : Mask :=
  if 32 ∈ ls then (if a.kind = .lsto then 0xFFFFFFFF else a.mask) else maskOf ls
/-- The address that a failed access reports: the lowest, or the name of the lowest failed lane of a landing store. -/
def accAddr (core : Nat) (a : Access) (c : Cause) (f : Nat → Piece → Dword) : Dword :=
  let ps := a.pieces.filter fun q => decide (q.failed = some c)
  if a.kind = .lsto then (ps.map Piece.va).headD 0 else lowestAddr (ps.map (f core))
/-- The loads' results are written. -/
def writeBackRegs (s : State) (r : AccRef) (a : Access) : State :=
  if !returnsValue a then s
  else
    let ok := (accLanes a).filter fun l => !laneFailed a l
    let bad := (accLanes a).filter (laneFailed a)
    modUnit s r.ctx r.unit fun t => unmark (ok.foldl (fun t l => writeDst t a l) t) a (maskOf ok) (maskOf bad ||| (if 32 ∈ bad then 1 else 0))

/-- The failed piece that decides the cause: one that a lost cell failed first, else the lowest lane's of the lowest plane in
which one failed (08 R220). -/
def leadPiece (t : Thread) (a : Access) : Option Piece :=
  match a.pieces.find? fun p => decide (p.failed = some .cellLost) with
  | some p => some p
  | none =>
    let k := lowPlane t (maskOf (((a.pieces.filter fun p => p.failed.isSome).map Piece.lane).filter fun l => decide (l < 32)))
    a.pieces.find? fun p => p.failed.isSome && (decide (32 ≤ p.lane) || decide (lanePlane t p.lane % 8 = k))
/-- The failure is of local store. -/
def Piece.isLocal (p : Piece) : Bool :=
  match p.served with
  | .own => true
  | .bank _ => true
  | _ => false
/-- The address that a failed piece reports. -/
def failAddr (core : Nat) (p : Piece) : Dword :=
  match p.served with
  | .own => BitVec.ofNat 64 (core * 2 ^ 32 + p.pa)
  | .bank _ => p.va
  | _ => if p.failed = some .poison then p.va - BitVec.ofNat 64 (p.pa % 128) else p.va
/-- DETAIL of a failure in flight (13 R326). -/
def failDetail (c : Cause) (p : Piece) : Nat :=
  match c with
  | .page => 4
  | .perm => 4
  | .poison => if p.isLocal then 1 else 0
  | _ => 0
/-- The offset and the skid of a fault of an access in flight: precise, or memory-precise for a store
(03 R85, R86; 13 R333). -/
def failWhere (a : Access) : Word × Word :=
  let skid := BitVec.ofNat 32 (min 255 a.young + 2 ^ 8 * a.chpos)
  if a.chpos ≠ 0 then (a.chainOff, skid)
  else if a.kind.stores || decide (a.kind = .stx) || decide (a.kind = .lsto) then (a.off + 4 * BitVec.ofNat 32 (a.young + 1), skid)
  else (a.off, skid)
/-- The lowest plane in which a lane of an access failed (08 R220). -/
def badPlane (t : Thread) (a : Access) (bad : List Nat) : Nat :=
  let ls := bad.filter fun l => decide (l < 32)
  if ls.isEmpty then a.plane else lowPlane t (maskOf ls)
/-- The fault of an access whose pieces failed. -/
def accFault (core : Nat) (t : Thread) (a : Access) (p : Piece) (c : Cause) : PendingFault :=
  let bad := (accLanes a).filter (laneFailed a)
  let w := failWhere a
  { record := { cause := causeWord c (failDetail c p) 0, off := w.1, plane := badPlane t a bad, lanes := lanesMask a bad, mask := a.mask,
                addr := accAddr core a c failAddr
                word := a.word, skid := w.2 }
    cause := c, sup := decide (c = .page) || decide (c = .cellLost), held := decide (c = .page), slot := a.slot, age := a.age }
/-- Two faults of one offset are one: it names the lanes of both, and the lowest plane in which a lane failed decides the rest
(08 R220). -/
def addLanes (f g : PendingFault) : PendingFault :=
  if g.slot = f.slot ∧ g.age = f.age then
    let h := if f.record.plane < g.record.plane then f else g
    { h with record := { h.record with lanes := g.record.lanes ||| f.record.lanes } }
  else g
/-- A word that has failed has not completed: no older access or fault of its slot counts it (03 R85; 13 R333). -/
def uncount (t : Thread) (a : Access) : Thread :=
  { t with
    flight := t.flight.map fun b => if b.slot = a.slot ∧ b.age < a.age ∧ !b.done then { b with young := b.young - 1 } else b
    entering := t.entering.map fun g =>
      if g.slot = a.slot ∧ g.age < a.age ∧ g.record.skid.toNat % 256 ≠ 0 then { g with record := { g.record with skid := g.record.skid - 1 } } else g }
/-- The generators of a store's chain that is to run again (15 R372). -/
def gensBack (t : Thread) (a : Access) : Thread :=
  if a.chpos = 0 then t else { t with sr := a.gens.foldl (fun m e => mset m e.1 e.2) t.sr, sg := a.genG }
/-- Every piece has performed or failed: results are written, a fault is raised, and the access completes. -/
def finishAcc (s : State) (r : AccRef) : State :=
  match getAcc s r with
  | none => s
  | some a =>
    if a.done || a.pieces.any Piece.isOpen then s
    else
      let s := writeBackRegs s r a
      let s := modAcc s r fun a => { a with done := true }
      let bad := a.pieces.any fun p => p.failed.isSome
      let s := if a.kind = .release ∧ !bad then startPushes s r.ctx (0x44 + (getUnit s r.ctx r.unit).ferry) a.word else s
      let s := modUnit s r.ctx r.unit popFlight
      if a.kind = .lreq then s
      else
        match leadPiece (getUnit s r.ctx r.unit) a with
        | none => s
        | some p =>
          let f := accFault (refCore s r) (getUnit s r.ctx r.unit) a p (p.failed.getD .illegal)
          let s := modUnit s r.ctx r.unit fun t => gensBack t a
          if (getUnit s r.ctx r.unit).entering.any fun g => decide (g.slot = f.slot) && decide (g.age = f.age) then
            modUnit s r.ctx r.unit fun t => { t with entering := t.entering.map (addLanes f) }
          else raiseFault (modUnit s r.ctx r.unit fun t => uncount t a) r.ctx r.unit f
/-- One attempt at an access. -/
def attempt (s : State) (r : AccRef) : State :=
  match getAcc s r with
  | none => s
  | some a => if a.done then s else finishAcc ((List.range a.pieces.length).foldl (fun s k => tryPiece s r k) s) r
/-- The open accesses that wait for a line. -/
def waitersOf (s : State) (line : Nat) : List AccRef :=
  (s.ctxs.map Prod.fst).flatMap fun c => (unitKeys s c).flatMap fun u =>
    ((getUnit s c u).flight.filter fun a => !a.done && a.pieces.any fun p => p.isOpen && decide (p.served = .mem) && decide (p.line = line)).map
      fun a => { ctx := c, unit := u, acc := a.id }
/-- A line has come: what waits for it is tried. -/
def attemptLine (s : State) (line : Nat) : State := (waitersOf s line).foldl attempt s
/-- Fail the open pieces of an access that satisfy a test. -/
def failWhen (s : State) (r : AccRef) (c : Cause) (f : Piece → Bool) : State :=
  let g (p : Piece) : Piece := if p.isOpen && f p then { p with failed := some c } else p
  finishAcc (modAcc s r fun a => { a with pieces := a.pieces.map g }) r

/-! ## Events of accesses -/

/-- LOAD_DATA_RETURN (07 R198; 19 R442): an attempt; what is still open is tried again. -/
def execLoadDataReturn (r : AccRef) (s : State) : Host.Outcome State Fault Refusal :=
  let s := attempt s r
  .next (if (getAcc s r).any fun a => !a.done then post s 1 (.loadDataReturn r) else s)
/-- STORE_COMPLETE (07 R198; 19 R443). -/
def execStoreComplete (r : AccRef) (s : State) : Host.Outcome State Fault Refusal :=
  let s := attempt s r
  .next (if (getAcc s r).any fun a => !a.done then post s 1 (.storeComplete r) else s)
/-- ITEM_FAIL_RETURN (03 R84): items of an access return with a cause for some lanes. -/
def execItemFailReturn (r : AccRef) (lanes : Mask) (c : Cause) (addr : Dword) (s : State) : Host.Outcome State Fault Refusal :=
  .next (failWhen s r c fun p => (lanes.getLsbD p.lane || decide (p.lane = 32)) && decide (p.va.toNat / 128 = addr.toNat / 128))
end Sys2Proof.Machine
end

