-- ==== Sys2Proof/Machine/Coherence.lean ====
section
/-! DEFINITION. The messages of the package protocol (04 R106 to R109) and of the cross-cell protocol (03 R64 to R70) as
this package handles them: as a home, as an owner or sharer, and as a requester. -/

namespace Sys2Proof.Machine

/-! ## Room at the home (04 R95; 03 R69 to R71) -/

/-- Two lines share a set of the owner table. -/
def sameOwnSet (a b : Nat) : Bool := decide (homeDie a = homeDie b) && decide (a % 32768 = b % 32768)
/-- A message of this home about a line. -/
def homeMsg (s : State) (line : Nat) (req : Party) (toHome : Bool) (pts : Stamp) (m : DMsg) : DMsg :=
  { m with line := line, src := .mate (ownEp s), req := req, toHome := toHome, pts := pts }
/-- A message with nothing in it. -/
def blankMsg (line : Nat) : DMsg :=
  { line := line, src := .die 0, req := .die 0, toHome := false, pts := 0, wts := 0, rts := 0, grant := .s, data := none,
    poison := false, lastGrant := 0 }
/-- The owner table has a way for a line; where its set is full, the least recently used entry is recalled. -/
def ownerRoom (s : State) (line : Nat) : Bool × State :=
  if (getHome s line).st.owned then (true, s)
  else
    let used := s.home.filter fun e => e.2.st.owned && sameOwnSet e.1 line
    if used.length < 16 then (true, s)
    else if used.any fun e => e.2.fwd.any Fwd.recalls then (false, s)
    else
      match leastUsed ((used.filter fun e => e.2.fwd.isNone).map fun e => (e.1, e.2.used)) with
      | none => (false, s)
      | some v =>
        let h := getHome s v
        let s := putHome s v { h with fwd := some { own := true, recalls := true, req := h.owner, toHome := true } }
        (false, toParty s h.owner (.drecall { blankMsg v with req := h.owner }) (.drecall { blankMsg v with src := .mate (ownEp s) }))
/-- Ways in use. -/
def waysOf (s : State) : Nat :=
  let w := ctlField s 0x0220 0 5
  if w = 0 ∨ 16 < w then 16 else w
/-- Two lines share a set of a die's snoop filter. -/
def sameFiltSet (a b : Nat) : Bool := decide (homeDie a = homeDie b) && decide (a % 65536 = b % 65536)
/-- Nothing is in progress on an entry. -/
def filtFree (f : FiltEntry) : Bool :=
  !f.pend && f.awaitEps.isEmpty && f.awaitHosts.isEmpty && !f.evicting && f.recovering.isEmpty
/-- A line lies in the page of a recall in progress. -/
def recallWants (s : State) (line : Nat) : Bool := ownLine s line && s.recallPage.any fun p => decide (lineOff line / 64 = p)
/-- A recall is over once no line of its page has an entry: BUSY reads 0 (03 R72). -/
def recallCheck (s : State) : State :=
  if s.recallPage.isSome && !(s.filt.any fun e => recallWants s e.1 && !filtIdle e.2) then
    ctlPut { s with recallPage := none } 0x0230 1 1 0
  else s
/-- The first line of a set whose request waits for a way (03 R70: in order of arrival). -/
def setFirst (s : State) (line : Nat) : Option Nat :=
  s.setWait.find? fun l => sameFiltSet l line && (getHome s l).turn.isSome
/-- The first request that waits for a way of a line's set is looked at again. -/
def setPump (s : State) (line : Nat) : State :=
  match setFirst s line with
  | none => s
  | some l => lineRetry s l 0
/-- A write of SF_CFG has completed once no entry stands in a way that has left use and can be evicted (03 R71). -/
def sfCheck (s : State) : State :=
  if s.sfBusy && !(s.filt.any fun e => decide (waysOf s ≤ e.2.way) && !e.2.pend && !filtIdle e.2) then { s with sfBusy := false } else s
/-- An eviction has nothing left to wait for: the entry is freed. -/
def evictDone (s : State) (line : Nat) : State :=
  let f := getFilt s line
  if f.evicting && f.awaitEps.isEmpty && f.awaitHosts.isEmpty && f.recovering.isEmpty then
    setPump (sfCheck (recallCheck (lineResume { s with filt := mdel s.filt line } line))) line
  else s
/-- Evict an entry: every holder is back-invalidated. -/
def startEvict (s : State) (line : Nat) : State :=
  let f := getFilt s line
  let s := modFilt s line fun f => { f with evicting := true, soft := false }
  let s := askCells s line (vecCells f.vec) (.binv (xmsg s line (ownEp s) none false false))
  let s := askHosts s line (hostPorts f.host)
  evictDone (post s 1800000 (.binvResendTimer line)) line
/-- A step on a line is over: an entry that a diagnosis or a recall wants gone is evicted as soon as nothing is in progress on
it (03 R71, R72), and what waits for a way is looked at. -/
def filtSettle (s : State) (line : Nat) : State :=
  let f := getFilt s line
  let s := if (decide (waysOf s ≤ f.way) || recallWants s line) && filtFree f && !filtIdle f then startEvict s line else s
  setPump (sfCheck (recallCheck s)) line
/-- The filter has an entry for a line, or gives it a way; where the set is full, an entry is evicted and the request
waits. -/
def filtRoom (s : State) (line : Nat) : Bool × State :=
  if (mget? s.filt line).isSome then (true, { s with filt := mset s.filt line { getFilt s line with used := s.now } })
  else if (setFirst s line).any fun l => decide (l ≠ line) then (false, s)
  else
    let set := s.filt.filter fun e => sameFiltSet e.1 line
    let free := (List.range (waysOf s)).filter fun w => !(set.any fun e => decide (e.2.way = w))
    match free with
    | w :: _ =>
      (true, setPump { s with filt := mset s.filt line { way := w, used := s.now }, setWait := s.setWait.erase line } line)
    | [] =>
      if set.any fun e => e.2.evicting then (false, s)
      else
        match leastUsed ((set.filter fun e => filtFree e.2).map fun e => (e.1, e.2.used)) with
        | none => (false, s)
        | some v => (false, startEvict s v)

/-! ## Steps that several requests share -/

/-- What a request of a home does next: it waits for an answer, or goes on. -/
abbrev Stage := Bool × State
/-- One stage after another. -/
def andThen (a : Stage) (f : State → Stage) : Stage := if a.1 then f a.2 else a
/-- The answers awaited hold the request back no longer. -/
def awaitOver (f : FiltEntry) : Bool := f.awaitEps.isEmpty || f.soft
/-- No host holds the line: those that do are back-invalidated first (04 R121). -/
def hostsOut (line : Nat) (any : Bool) (s : State) : Stage :=
  let f := getFilt s line
  if !f.awaitHosts.isEmpty then (false, s)
  else if f.hown || (any && decide (f.host ≠ 0)) then (false, askHosts s line (hostPorts f.host))
  else (true, s)
/-- A read brings back what an owner cell holds dirty (03 R65, the home's own cell). -/
def cellReads (line : Nat) (s : State) : Stage :=
  let f := getFilt s line
  if !f.cellOwner then (awaitOver f, s)
  else if (getHome s line).got.isSome then (true, modFilt s line fun f => { f with st := .o, fresh := true })
  else if !awaitOver f then (false, s)
  else
    let s := modFilt s line fun f => { f with soft := false }
    (false, askCells s line [f.owner] (.fwds (xmsg s line (ownEp s) none false false)))
/-- Ownership comes back from the other cells: an owner returns the line, sharers are invalidated; a store of the home's
cell does not wait for the sharers (03 R65, 10 R265). -/
def cellsOut (line : Nat) (s : State) : Stage :=
  let f := getFilt s line
  if f.cellOwner then
    if (getHome s line).got.isSome then
      (true, modFilt s line fun f => { f with st := .i, vec := 0, soft := true })
    else if !awaitOver f then (false, s)
    else
      let s := modFilt s line fun f => { f with soft := false }
      let s := askCells s line [f.owner] (.fwdown (xmsg s line (ownEp s) none true false))
      (false, askCells s line ((vecCells f.vec).filter fun c => decide (c ≠ f.owner)) (.inv (xmsg s line (ownEp s) none false false)))
  else if !awaitOver f then (false, s)
  else if f.vec = 0 then (true, s)
  else
    let s := modFilt s line fun f => { f with st := .i, vec := 0, soft := true }
    (true, askCells s line (vecCells f.vec) (.inv (xmsg s line (ownEp s) none false false)))
/-- The package's owner gives the home its data (04 R109, RdS from outside). -/
def packageReads (line : Nat) (s : State) : Stage :=
  let h := getHome s line
  if h.fwd.isSome then (false, s)
  else if h.st.owned && h.got.isNone then
    let s := putHome s line { h with fwd := some { own := false, recalls := false, req := h.owner, toHome := true } }
    let m := { blankMsg line with req := h.owner, toHome := true }
    (false, toParty s h.owner (.dfwds m) (.dfwds { m with src := .mate (ownEp s) }))
  else (true, s)
/-- The package gives its ownership back, and no lease of the cell covers the line any more (04 R109). -/
def packageOut (line : Nat) (s : State) : Stage :=
  let h := getHome s line
  if h.fwd.isSome then (false, s)
  else if h.st.owned then
    let s := putHome s line { h with fwd := some { own := true, recalls := false, req := h.owner, toHome := true } }
    let m := { blankMsg line with req := h.owner, toHome := true }
    (false, toParty s h.owner (.dfwdown m) (.dfwdown { m with src := .mate (ownEp s) }))
  else if 0 < leaseLeft s h.lastGrant then (false, post s (leaseLeft s h.lastGrant) (.leaseWaitEnd line))
  else
    let s := dropCopies s line
    (true, { (putHome s line { h with st := .i, lastGrant := 0 }) with mts := mset s.mts (stackOf line) (stampMax (mtsOf s line) h.rts) })
/-- The data that a home sends: what an owner returned for this request, else memory's, with the errors that the read
meets (01 R17). -/
def homeData (s : State) (line : Nat) : (List Byte × Bool) × State :=
  match (getHome s line).got with
  | some d => (d, s)
  | none =>
    let s := readHbm s line
    (memData s line, s)
/-- A line that comes back from outside the cell stands at the memory time (04 R98). -/
def fromOutside (s : State) (line : Nat) : State :=
  modHome s line fun h => { h with wts := mtsOf s line, rts := mtsOf s line }

/-! ## The home of a line: package requests (04 R107, R108) -/

/-- DData to a requester, wherever the holder that sends it is: a die of the home's package, or a cell-mate (04 R106). -/
def sendDData (s : State) (r : Party) (m : DMsg) : State :=
  let e : DMsg := { m with req := r, src := .mate (ownEp s) }
  match r with
  | .die _ => if ownLine s m.line then post s 0 (.ddata { m with req := r }) else sendMsg s (homeEp m.line) none (.ddata e)
  | .mate ep => if ep = ownEp s then post s 0 (.ddata e) else sendMsg s ep none (.ddata e)
/-- A refused offset, or ownership refused by the firewall: the requester hears of it (03 R57, R74). -/
def refuseOff (s : State) (line : Nat) (r : Party) (page : Bool) : State :=
  match r with
  | .die d => post s 0 (.refuse { (xmsg s line (ownEp s) none (!page) false) with page := page, die := d })
  | .mate ep => sendMsg s ep none (.refuse { (xmsg s line ep none (!page) false) with page := page })
/-- Serve DRdS once the line is current at the home or an owner of the package. -/
def giveShared (m : DMsg) (s : State) : State :=
  let line := m.line
  let h := { getHome s line with used := s.now }
  if h.st.owned then
    let s := putHome s line { h with fwd := some { own := false, recalls := false, req := m.req, toHome := false } }
    let f := { blankMsg line with req := m.req, pts := m.pts, wts := m.wts, data := m.data, die := m.die }
    lineDone (toParty s h.owner (.dfwds f) (.dfwds { f with src := .mate (ownEp s) })) line
  else
    let s := readHbm s line
    let d := memData s line
    let die := match m.req with
      | .die _ => true
      | .mate _ => false
    let fw := fwAllows s line (ownCell s)
    let s := fw.2
    if die && later m.pts h.rts && fw.1 then
      let r := ownerRoom s line
      if !r.1 then lineRetry r.2 line 1
      else
        let s := putHome r.2 line { h with st := .e, owner := m.req }
        lineDone (sendDData s m.req { blankMsg line with wts := h.wts, rts := h.rts, grant := .e, data := some d.1, poison := d.2,
                                                         lastGrant := h.lastGrant, die := m.die }) line
    else
      let g := grantLease s h.wts h.rts m.pts
      let s := putHome s line { h with st := .s, rts := g.2, lastGrant := grantNow s }
      let omit_ := m.data.isSome && decide (m.wts = h.wts)
      lineDone (sendDData s m.req { blankMsg line with wts := h.wts, rts := g.1, grant := .s, data := if omit_ then none else some d.1,
                                                       poison := d.2, lastGrant := grantNow s, die := m.die }) line
/-- Serve DRdOwn once no other cell and no host holds the line. -/
def giveOwned (m : DMsg) (s : State) : State :=
  let line := m.line
  let h := { getHome s line with used := s.now }
  if h.st.owned then
    let s := putHome s line { h with fwd := some { own := true, recalls := false, req := m.req, toHome := false } }
    let f := { blankMsg line with req := m.req, pts := m.pts, die := m.die }
    lineDone (toParty s h.owner (.dfwdown f) (.dfwdown { f with src := .mate (ownEp s) })) line
  else
    let r := ownerRoom s line
    if !r.1 then lineRetry r.2 line 1
    else
      let s := readHbm r.2 line
      let d := memData s line
      let s := putHome s line { h with st := .m, owner := m.req }
      lineDone (sendDData s m.req { blankMsg line with wts := h.wts, rts := h.rts, grant := .m, data := some d.1, poison := d.2,
                                                       lastGrant := h.lastGrant, die := m.die }) line
/-- Run a request's stages; when they are over, finish it. -/
def runStages (a : Stage) (f : State → State) : State := if a.1 then f a.2 else a.2
/-- A replicated page holds a write back until the collapse releases it (04 R111). -/
def replicaOut (line : Nat) (e : Ev) (s : State) : Stage :=
  let m := meetReplica s line (.request line e)
  if m.1 then (false, lineRetry m.2 line 8) else (true, m.2)
/-- The same for a package request: a die of this package asks for ownership only for a write that is released already, or
that its own page holds. -/
def replicaMate (m : DMsg) (s : State) : Stage :=
  match m.req with
  | .die _ => (true, s)
  | .mate _ => replicaOut m.line (.drdown m) s

/-- A cell-mate is answered once every Ack is in, so that its crew's release of class P need wait for no more (10 R268;
notes/assumptions/53.md). -/
def acksIn (m : DMsg) (s : State) : Stage :=
  match m.req with
  | .die _ => (true, s)
  | .mate _ =>
    if (getFilt s m.line).awaitEps.isEmpty then (true, s) else (false, modFilt s m.line fun f => { f with soft := false })

/-- DRDS at the home (04 R107). -/
def execDrds (m : DMsg) (s : State) : Ans :=
  .next (if !ownLine s m.line then s
    else if refusedOff m.line then refuseOff s m.line m.req true
    else
      let e := lineEnter s m.line (.drds m)
      if !e.1 then e.2
      else runStages (andThen (hostsOut m.line false e.2) (cellReads m.line)) (giveShared m))
/-- DRDOWN at the home (04 R107). -/
def execDrdown (m : DMsg) (s : State) : Ans :=
  .next (if !ownLine s m.line then s
    else if refusedOff m.line then refuseOff s m.line m.req true
    else
      let w := fwAllows s m.line (ownCell s)
      let s := w.2
      if !w.1 then
        let s := refuseOff s m.line m.req false
        if (getHome s m.line).turn = some (.drdown m) then lineDone s m.line else s
      else
        let e := lineEnter s m.line (.drdown m)
        if !e.1 then e.2
        else
          runStages (andThen (andThen (andThen (replicaMate m e.2) (hostsOut m.line true)) (cellsOut m.line)) (acksIn m)) (giveOwned m))
/-- DACK at the home: the pending forward is over (04 R107, R108). -/
def execDack (m : DMsg) (s : State) : Ans :=
  .next (match (getHome s m.line).fwd with
    | none => s
    | some f =>
      let s := modHome s m.line fun h => { h with
        fwd := none, rts := stampMax h.rts m.rts, wts := stampMax h.wts m.wts, lastGrant := max h.lastGrant m.lastGrant }
      let s := if f.toHome then
          match m.data with
          | some d =>
            let s := if f.own || decide (m.grant = .s) then setMem s m.line d m.poison else s
            modHome s m.line fun h => { h with got := some (d, m.poison) }
          | none => s
        else s
      let s := modHome s m.line fun h =>
        if f.own then (if f.toHome then { h with st := .s } else { h with st := .m, owner := f.req })
        else { h with st := if m.grant = .s then .s else .o }
      lineResume s m.line)
/-- The DWrBk comes from the line's owner. -/
def fromOwner (s : State) (m : DMsg) : Bool :=
  let h := getHome s m.line
  h.st.owned && decide (h.owner = m.src)
/-- DWRBK at the home (04 R107, R108). -/
def execDwrbk (m : DMsg) (s : State) : Ans :=
  let cmp (s : State) : State := toParty s m.src (.dcmp { blankMsg m.line with req := m.src, die := m.die })
    (.dcmp { blankMsg m.line with req := m.src, src := .mate (ownEp s), die := m.die })
  let h := getHome s m.line
  .next (if !ownLine s m.line then s
    else if stackStill s m.line then post s 1 (.dwrbk m)
    else if h.fwd.any fun f => !f.recalls then putHome s m.line { h with held := .dwrbk m :: h.held }
    else if !fromOwner s m then lineResume (cmp (modHome s m.line fun h => { h with turn := if h.turn = some (.dwrbk m) then none else h.turn })) m.line
    else
      let s := setMem s m.line (m.data.getD (memLine s m.line)) m.poison
      let s := putHome s m.line { h with
        st := .s, fwd := none, rts := stampMax h.rts m.rts, wts := stampMax h.wts m.wts, lastGrant := max h.lastGrant m.lastGrant
        turn := if h.turn = some (.dwrbk m) then none else h.turn }
      lineResume (cmp s) m.line)

/-! ## Owners of the package protocol (04 R101, R107, R108) -/

/-- The die of this package that owns a line, to which its home's message goes: for a line of another endpoint, the one that
holds it. -/
def ownerDie (s : State) (line : Nat) : Nat :=
  if ownLine s line then
    match (getHome s line).owner with
    | .die d => d
    | .mate _ => 0
  else ((List.range 4).find? fun d => (heldBy s d line).isSome).getD 0
/-- The line that an owner holds, in its L2 or in its write-back buffer. -/
def ownerLine (s : State) (die line : Nat) : Option (L2Line × Bool) :=
  match (getL2 s die line).filter fun x => decide (x.st ≠ .s) with
  | some x => some (x, false)
  | none => (mget? s.wb (l2Key die line)).map fun x => (x, true)
/-- DAck to the home of a line. -/
def sendDAck (s : State) (m : DMsg) : State := toHome s m.line none (.dack m) (.dack { m with src := .mate (ownEp s) })
/-- DFWDS at the owner; one that comes before the owner has its data waits for it (04 R108). -/
def execDfwds (m : DMsg) (s : State) : Ans :=
  let die := ownerDie s m.line
  let s := readL2 s die m.line
  .next (match ownerLine s die m.line with
    | none => post s 1 (.dfwds m)
    | some (x, wb) =>
      let g := grantLease s x.wts x.rts m.pts
      let clean := decide (x.st = .e)
      let s := if wb then s
        else putL2 s die m.line { x with rts := g.2, lastGrant := grantNow s, st := if clean then .s else .o }
      let same := m.data.isSome && decide (m.wts = x.wts)
      let s := if m.toHome then s
        else sendDData s m.req { blankMsg m.line with wts := x.wts, rts := g.1, grant := .s, data := if same then none else some x.data,
                                                      poison := x.poison, lastGrant := grantNow s, die := m.die }
      sendDAck s { blankMsg m.line with wts := x.wts, rts := g.2, grant := if clean then .s else .m, lastGrant := grantNow s, poison := x.poison
                                        data := if m.toHome then some x.data else none })
/-- DFWDOWN at the owner. -/
def execDfwdown (m : DMsg) (s : State) : Ans :=
  let die := ownerDie s m.line
  let s := readL2 s die m.line
  .next (match ownerLine s die m.line with
    | none => post s 1 (.dfwdown m)
    | some (x, wb) =>
      let s := if wb then s else delL2 s die m.line
      let s := if m.toHome then s
        else sendDData s m.req { blankMsg m.line with wts := x.wts, rts := x.rts, grant := .m, data := some x.data, poison := x.poison,
                                                      lastGrant := x.lastGrant, die := m.die }
      sendDAck s { blankMsg m.line with wts := x.wts, rts := x.rts, grant := .m, lastGrant := x.lastGrant, poison := x.poison
                                        data := if m.toHome then some x.data else none })
/-- DRECALL at the owner: it writes the line back (04 R95). -/
def execDrecall (m : DMsg) (s : State) : Ans :=
  let die := ownerDie s m.line
  .next (if (ownerLine s die m.line).isNone then post s 1 (.drecall m) else writeBack s die m.line)
/-- The die of this package for which a message came. -/
def dmsgDie (s : State) (m : DMsg) : Nat :=
  match m.req with
  | .die d => if ownLine s m.line then d else m.die
  | .mate _ => m.die
/-- DCMP at the owner: its buffer is free (04 R108). -/
def execDcmp (m : DMsg) (s : State) : Ans :=
  let die := dmsgDie s m
  .next { s with wb := mdel s.wb (l2Key die m.line) }
/-- DDATA at the requester: the line is installed, and what waits for it goes on (04 R100, R102; 02 R54). -/
def execDdata (m : DMsg) (s : State) : Ans :=
  let die := dmsgDie s m
  let s := nextCoh s
  .next (match m.grant with
    | .s =>
      if !asked? s die m.line false && !asked? s die m.line true then s
      else
        let s := askDone s die m.line false
        let old := getL2 s die m.line
        if old.any fun x => decide (x.st ≠ .s) then
          attemptLine (putL2 s die m.line { old.getD { st := .s, wts := 0, rts := 0, data := [], poison := false } with got := s.cohSeq }) m.line
        else
          match m.data.orElse fun _ => old.map L2Line.data with
          | none => attemptLine s m.line
          | some d =>
            let x : L2Line := { st := .s, wts := m.wts, rts := m.rts, data := d, poison := m.poison, lastGrant := m.lastGrant, got := s.cohSeq }
            attemptLine (installL2 s die m.line x) m.line
    | g =>
      let s := askDone (askDone s die m.line false) die m.line true
      let x : L2Line := { st := if g = .e then .e else .m, wts := m.wts, rts := m.rts, poison := m.poison,
                          data := m.data.getD [], lastGrant := m.lastGrant, got := s.cohSeq }
      attemptLine (installL2 s die m.line x) m.line)
/-- LEASE_WAIT_END (04 R109). -/
def execLeaseWaitEnd (line : Nat) (s : State) : Ans := .next (lineResume s line)

/-! ## The home of a line: requests of other cells (03 R65, R66) -/

/-- The cell of a message's sender. -/
def srcCell (s : State) (m : XMsg) : Nat := (cellOf s m.src).getD 64
/-- An answer of the home or an owner with data, for a die of the requester's package. -/
def sendData (s : State) (line ep die : Nat) (d : List Byte × Bool) (own : Bool) : State :=
  let m := { (xmsg s line ep (some d.1) own d.2) with src := homeEp line, die := die }
  if ep = ownEp s then post s 0 (.data m) else sendMsg s ep none (.data m)
/-- Refuse. -/
def sendRefuse (s : State) (m : XMsg) (page : Bool) : State :=
  sendMsg s m.src none (.refuse { (xmsg s m.line m.src none m.own false) with page := page, die := m.die })
/-- A request that is no other cell's goes the package's way (notes/assumptions/16.md). -/
def asMate (s : State) (m : XMsg) (own : Bool) : State :=
  let d : DMsg := { blankMsg m.line with src := .mate m.src, req := .mate m.src, die := m.die }
  post s 0 (if own then .drdown d else .drds d)
/-- The request has a place in the filter, or waits for one in order of arrival (03 R70). -/
def filtPlace (line : Nat) (s : State) : Stage :=
  let r := filtRoom s line
  if r.1 then r else (false, { r.2 with setWait := addOnce r.2.setWait line })
/-- The grant of an RdOwn is pending from here on (03 R66). -/
def grantBegins (m : XMsg) (s : State) : Stage :=
  (true, modFilt s m.line fun f => if f.pend then f else { f with pend := true, grantee := m.src, dataSent := false })
/-- Serve RdS (03 R65). -/
def giveRds (m : XMsg) (c : Nat) (s : State) : State :=
  let f := getFilt s m.line
  if f.cellOwner then
    let s := modFilt s m.line fun f => { f with st := .o, vec := f.vec ||| cellBit c, soft := false }
    lineDone (askCells s m.line [f.owner] (.fwds { (xmsg s m.line m.src none false false) with die := m.die })) m.line
  else
    let d := homeData s m.line
    let s := modFilt d.2 m.line fun f => { f with st := .s, vec := f.vec ||| cellBit c }
    lineDone (sendData s m.line m.src m.die d.1 false) m.line
/-- RDS at the home. -/
def execRds (m : XMsg) (s : State) : Ans :=
  let c := srcCell s m
  .next (if !ownLine s m.line ∨ 64 ≤ c then s
    else if sameCell s m.src then asMate s m false
    else if refusedOff m.line then sendRefuse s m true
    else
      let e := lineEnter s m.line (.rds m)
      if !e.1 then e.2
      else
        let a := hostsOut m.line false e.2
        let a := if (getFilt e.2 m.line).cellOwner then a else andThen a (packageReads m.line)
        runStages (andThen a (filtPlace m.line)) (giveRds m c))
/-- Every sharer but the requester's cell has been invalidated (03 R65). -/
def sharersOut (line c : Nat) (s : State) : Stage :=
  let f := getFilt s line
  if !f.awaitEps.isEmpty then (false, s)
  else if f.vec &&& ~~~ cellBit c = 0 then (true, s)
  else
    let s := modFilt s line fun f => { f with vec := f.vec &&& cellBit c, soft := false }
    (false, askCells s line (vecCells (f.vec &&& ~~~ cellBit c)) (.inv (xmsg s line (ownEp s) none false false)))
/-- Grant ownership to a cell (03 R65, R66). -/
def giveRdown (m : XMsg) (c : Nat) (s : State) : State :=
  let d := homeData s m.line
  let s := modFilt d.2 m.line fun f => { f with
    st := .m, owner := c, vec := cellBit c, pend := true, grantee := m.src, dataSent := true, fresh := false }
  lineDone (sendData s m.line m.src m.die d.1 true) m.line
/-- Forward ownership from one cell to another. -/
def forwardRdown (m : XMsg) (c : Nat) (s : State) : State :=
  let f := getFilt s m.line
  let rest := (vecCells f.vec).filter fun k => decide (k ≠ f.owner) && decide (k ≠ c)
  let s := modFilt s m.line fun f => { f with
    st := .m, owner := c, vec := cellBit c, pend := true, grantee := m.src, dataSent := false, soft := false, fresh := false,
    prev := f.owner, orphan := false }
  let s := askCells s m.line rest (.inv (xmsg s m.line (ownEp s) none false false))
  lineDone (askCells s m.line [f.owner] (.fwdown { (xmsg s m.line m.src none true false) with die := m.die })) m.line
/-- RDOWN at the home. -/
def execRdown (m : XMsg) (s : State) : Ans :=
  let c := srcCell s m
  .next (if !ownLine s m.line ∨ 64 ≤ c then s
    else if refusedOff m.line then sendRefuse s m true
    else
      let w := fwAllows s m.line c
      let s := w.2
      if !w.1 then
        let s := sendRefuse s m false
        if (getHome s m.line).turn = some (.rdown m) then lineDone s m.line else s
      else if sameCell s m.src then asMate s m true
      else
        let e := lineEnter s m.line (.rdown m)
        if !e.1 then e.2
        else
          let a := andThen (andThen (filtPlace m.line e.2) (grantBegins m)) (replicaOut m.line (.rdown m))
          let a := andThen a (hostsOut m.line true)
          if (getFilt e.2 m.line).cellOwner then runStages (andThen a (packageOut m.line)) (forwardRdown m c)
          else runStages (andThen (andThen a (sharersOut m.line c)) (packageOut m.line)) (giveRdown m c))
/-- CMPACK at the home: the grant is closed (03 R66). -/
def execCmpack (m : XMsg) (s : State) : Ans :=
  .next (if !ownLine s m.line then s
    else
      let s := modFilt s m.line fun f => if f.grantee = m.src then { f with pend := false } else f
      linePump (filtSettle s m.line) m.line)
/-- WRBK at the home (03 R65). -/
def execWrbk (m : XMsg) (s : State) : Ans :=
  let c := srcCell s m
  let f := getFilt s m.line
  let owner := f.cellOwner && decide (f.owner = c)
  .next (if !ownLine s m.line ∨ 64 ≤ c then s
    else if stackStill s m.line then post s 1 (.wrbk m)
    else if !f.awaitEps.isEmpty ∧ owner then modHome s m.line fun h => { h with held := .wrbk m :: h.held }
    else
      let s := if owner then
          let s := fromOutside (setMem s m.line (m.data.getD (memLine s m.line)) m.poison) m.line
          modFilt s m.line fun f =>
            let v := f.vec &&& ~~~ cellBit c
            { f with st := if v = 0 then .i else .s, vec := v }
        else s
      let s := modHome s m.line fun h => { h with turn := if h.turn = some (.wrbk m) then none else h.turn }
      lineResume (filtSettle (sendMsg s m.src none (.cmp { (xmsg s m.line m.src none false false) with die := m.die })) m.line) m.line)
/-- Nothing is awaited on a line any more: the crews whose stores its Inv messages answer no longer wait (10 R268 P). -/
def clearInvs (s : State) (line : Nat) : State :=
  if !(getFilt s line).awaitEps.isEmpty then s
  else { s with ctxs := s.ctxs.map fun e => (e.1, { e.2 with units := e.2.units.map fun u =>
    (u.1, { u.2 with invs := u.2.invs.erase line }) }) }
/-- Data that a holder returns to the home is written to memory. -/
def ackData (s : State) (m : XMsg) : State :=
  match m.data with
  | none => s
  | some d =>
    let s := fromOutside (setMem s m.line d m.poison) m.line
    let s := modHome s m.line fun h => { h with got := if h.turn.isSome then some (d, m.poison) else h.got }
    modFilt s m.line fun f => { f with soft := true }
/-- The recovery engine, or the owner that it waited for, is done with a line: what waits for it goes on, and an eviction of
its entry goes on too. -/
def lossOver (s : State) (line : Nat) : State :=
  if (getFilt s line).evicting then startEvict s line else filtSettle (lineResume s line) line
/-- Poison a line's memory and forget its holders (03 R80). -/
def poisonLost (s : State) (line : Nat) : State :=
  let s := setPoison s line true
  let s := modFilt s line fun f => { f with st := .i, vec := 0, pend := false, orphan := false, recovering := [], awaitEps := [] }
  ctlCount s 0x0214 0 32 1
/-- Endpoints of the cell that a grant is forwarded from have still to answer. -/
def prevAwaits (s : State) (f : FiltEntry) : Bool := f.awaitEps.any fun e => decide (cellOf s e = some f.prev)
/-- The owner of a line whose forwarded grant went to a lost requester has answered: its data is memory's again, or, once
every endpoint of its cell has answered without it, it had left for the lost cell (03 R80). -/
def orphanAck (s : State) (m : XMsg) : State :=
  let s := modFilt s m.line fun f => { f with awaitEps := f.awaitEps.erase m.src }
  match m.data with
  | none => if prevAwaits s (getFilt s m.line) then s else lossOver (poisonLost s m.line) m.line
  | some d =>
    let s := fromOutside (setMem s m.line d m.poison) m.line
    lossOver (modFilt s m.line fun f => { f with st := .i, vec := 0, pend := false, orphan := false, awaitEps := [] }) m.line
/-- The recovery engine has the data of a surviving sharer (03 R80). -/
def recovered (s : State) (m : XMsg) : State :=
  let f := getFilt s m.line
  if f.recovering.isEmpty then s
  else
    match m.data with
    | none => s
    | some d =>
      let s := setMem s m.line d false
      let s := modFilt s m.line fun f => { f with st := .s, recovering := [], awaitEps := [] }
      lossOver (ctlCount s 0x0218 0 32 1) m.line
/-- ACK at the home (03 R65, R70). A forwarded Data-M has left once every endpoint of the old owner's cell has answered. -/
def execAck (m : XMsg) (s : State) : Ans :=
  .next (if !ownLine s m.line then s
    else if !(getFilt s m.line).recovering.isEmpty then recovered s m
    else if (getFilt s m.line).orphan then orphanAck s m
    else
      let s := modFilt s m.line fun f => { f with awaitEps := f.awaitEps.erase m.src }
      let left := !prevAwaits s (getFilt s m.line)
      let s := modFilt s m.line fun f => { f with dataSent := f.dataSent || (f.pend && decide (f.st = .m) && left) }
      let s := ackData s m
      let s := clearInvs s m.line
      if (getFilt s m.line).evicting then evictDone s m.line else filtSettle (lineResume s m.line) m.line)

/-! ## Sharers and owners of other cells' lines (03 R65, R67) -/

/-- Ack to the home. -/
def sendAck (s : State) (m : XMsg) (d : Option (List Byte × Bool)) : State :=
  sendMsg s (homeEp m.line) none (.ack (xmsg s m.line (homeEp m.line) (d.map Prod.fst) false (d.any Prod.snd)))
/-- Drop this endpoint's copies of another cell's line, in every die. -/
def dropLine (s : State) (line : Nat) : State :=
  { s with l2 := s.l2.filter fun e => decide (e.1 / 4 ≠ line), l1 := s.l1.filter fun e => decide (e.1 / 320 ≠ line) }
/-- What a die of this endpoint holds dirty of a line, after the storage errors that the read meets. -/
def heldDirty (s : State) (line : Nat) : Option (List Byte × Bool) :=
  (ownerLine s (ownerDie s line) line).map fun x => (x.1.data, x.1.poison)
/-- INV at a sharer. -/
def execInv (m : XMsg) (s : State) : Ans := .next (sendAck (dropLine s m.line) m none)
/-- FWDS at the owner: Data-S to the requester, the line stays dirty. -/
def execFwds (m : XMsg) (s : State) : Ans :=
  let die := ownerDie s m.line
  let s := readL2 s die m.line
  .next (match heldDirty s m.line with
    | none => sendAck s m none
    | some d =>
      let s := match getL2 s die m.line with
        | some x => putL2 s die m.line { x with st := .o }
        | none => s
      if m.req = homeEp m.line then sendAck s m (some d)
      else sendAck (sendData s m.line m.req m.die d false) m none)
/-- FWDOWN at the owner: Data-M to the requester, the line is dropped. -/
def execFwdown (m : XMsg) (s : State) : Ans :=
  let s := readL2 s (ownerDie s m.line) m.line
  .next (match heldDirty s m.line with
    | none => sendAck s m none
    | some d =>
      let s := dropLine s m.line
      if m.req = homeEp m.line ∨ epLost s m.req then sendAck s m (some d)
      else sendAck (sendData s m.line m.req m.die d true) m none)
/-- FWDREC at a sharer: its data goes to the home. -/
def execFwdrec (m : XMsg) (s : State) : Ans :=
  let die := ((List.range 4).find? fun d => (getL2 s d m.line).isSome).getD 0
  let s := readL2 s die m.line
  .next (sendAck s m ((getL2 s die m.line).map fun x => (x.data, x.poison)))
/-- BINV at a holder: dirty data goes back, the copy is dropped. -/
def execBinv (m : XMsg) (s : State) : Ans :=
  let s := readL2 s (ownerDie s m.line) m.line
  .next (sendAck (dropLine s m.line) m (heldDirty s m.line))
/-- CMP at the owner: its buffer is free. -/
def execCmp (m : XMsg) (s : State) : Ans := .next { s with wb := mdel s.wb (l2Key m.die m.line) }
/-- DATA at the requester (03 R66, R68; 02 R54). An ownership grant leaves no other copy in the package. -/
def execData (m : XMsg) (s : State) : Ans :=
  let s := nextCoh s
  .next (if ownLine s m.line then s
    else if m.own then
      let s := askDone (askDone s m.die m.line false) m.die m.line true
      let s := installL2 (dropCopies s m.line) m.die m.line { st := .m, wts := 0, rts := 0, data := m.data.getD [], poison := m.poison, got := s.cohSeq }
      let s := sendMsg s (homeEp m.line) none (.cmpack (xmsg s m.line (homeEp m.line) none true false))
      attemptLine s m.line
    else if !asked? s m.die m.line false && !asked? s m.die m.line true then s
    else
      let s := askDone s m.die m.line false
      attemptLine (if (getL2 s m.die m.line).any fun x => decide (x.st ≠ .s) then s
        else installL2 s m.die m.line { st := .s, wts := 0, rts := 0, data := m.data.getD [], poison := m.poison, got := s.cohSeq }) m.line)
/-- An engine of this package has a copy in progress, and may have asked for a line. -/
def copiesRun (s : State) : Bool := s.ctxs.any fun e => e.2.units.any fun u => !u.2.copies.isEmpty
/-- REFUSE at the requester (03 R57, R74). -/
def execRefuse (m : XMsg) (s : State) : Ans :=
  let cause : Cause := if m.page then .page else .firewall
  let s := (List.range 4).foldl (fun s d => askDone (if m.page then askDone s d m.line false else s) d m.line true) s
  let s := if m.page || copiesRun s then { s with refusals := mset s.refusals m.line (cause, s.cohSeq) } else s
  let hit (p : Piece) : Bool := decide (p.served = .mem) && decide (p.line = m.line)
  .next ((waitersOf s m.line).foldl (fun s r =>
    if m.page || (getAcc s r).any (fun a => a.kind.stores || a.kind.isAtomic) then failWhen s r cause hit else attempt s r) s)
/-- BINV_RESEND_TIMER (03 R70): a holder that has not answered is asked again. -/
def execBinvResendTimer (line : Nat) (s : State) : Ans :=
  let f := getFilt s line
  .next (if !f.evicting || f.awaitEps.isEmpty then s
    else
      let s := f.awaitEps.foldl (fun s e => sendMsg s e none (.binv (xmsg s line (ownEp s) none false false))) s
      post s 1800000 (.binvResendTimer line))

/-! ## Atomics of other cells (19 R451) -/

/-- The answer to an atomic of another cell. -/
def answerAtomic (s : State) (m : AtomicMsg) (old : Option Dword) (c : Option Cause) : State :=
  sendMsg s m.src none (.atomicResult m.tid old c)
/-- Perform an atomic of another cell on memory, once the line is back at the home and no lease covers it (10 R267). -/
def giveAtomic (m : AtomicMsg) (s : State) : State :=
  let line := m.pa / 128
  let d := homeData s line
  let s := d.2
  let s := if d.1.2 then answerAtomic s m none (some .poison)
    else
      let old := fieldB d.1.1 (m.pa % 128) (tySize m.ty)
      let new := atomicNew m.op m.ty old m.operand.toNat m.compare.toNat
      let s := fromOutside (setMem s line (patchB d.1.1 (m.pa % 128) (leBytes (tySize m.ty) new)) false) line
      answerAtomic s m (some (BitVec.ofNat 64 old)) none
  lineDone s line
/-- HOME_ATOMIC at the home. -/
def execHomeAtomic (m : AtomicMsg) (s : State) : Ans :=
  let line := m.pa / 128
  .next (if !ownLine s line then s
    else if refusedOff line then answerAtomic s m none (some .page)
    else
      let w := fwAllows s line ((cellOf s m.src).getD 64)
      let s := w.2
      if !w.1 then
        let s := answerAtomic s m none (some .firewall)
        if (getHome s line).turn = some (.homeAtomic m) then lineDone s line else s
      else
        let e := lineEnter s line (.homeAtomic m)
        if !e.1 then e.2
        else
          let a := andThen (replicaOut line (.homeAtomic m) e.2) (hostsOut line true)
          runStages (andThen (andThen a (cellsOut line)) (packageOut line)) (giveAtomic m))
/-- The answer to an atomic that this endpoint sent. -/
def atomicAnswer (s : State) (tid : Nat) (old : Option Dword) (c : Option Cause) : State :=
  match mget? s.txns tid with
  | none => s
  | some r =>
    let s := { s with txns := mdel s.txns tid }
    let g (p : Piece) : Piece :=
      if p.isOpen && decide (p.asked = some tid) then
        match old with
        | some x => { p with done := true, data := x }
        | none => { p with failed := some (c.getD .timeout) }
      else p
    finishAcc (modAcc s r fun a => { a with pieces := a.pieces.map g }) r

/-! ## The hardware's own writes that wait for their lines -/

/-- The writes of the hardware's tables and records that wait go on, in order (notes/assumptions/128.md). One to a line that
is refused, or whose home cannot be reached, is dropped. -/
def hwDrain : Nat → State → State
  | 0, s => s
  | n + 1, s =>
    match s.hwPend with
    | [] => s
    | (pa, d) :: t =>
      let line := pa / 128
      let die := putDie s 0 line
      let drop (s : State) : State := hwDrain n { s with hwPend := t }
      if (!ownLine s line && !sessLive s (homeEp line)) || pageRefused s line || (mget? s.refusals line).isSome then
        drop { s with refusals := mdel s.refusals line }
      else if !mayStore s die line then (askOnce s none die line true 0 none).2
      else
        let last := max (getHome s line).lastGrant ((getL2 s die line).elim 0 L2Line.lastGrant)
        if leaseLeft s last = 0 then drop (putLine s die line (pa % 128) d) else s

end Sys2Proof.Machine
end

