-- ==== Sys2Proof/Machine/Memory.lean ====
section
/-! DEFINITION. The words that read and write memory, local store and the cluster, the atomics, FENCE and the hints,
opcodes 0x88 to 0x9A (19 R436 to R453; 10 R263 to R270). -/

namespace Sys2Proof.Machine

/-! ## Waits before a word acts (10 R268; 07 R198) -/

/-- The accesses of a unit that have not completed, on some paths. -/
def openIds (t : Thread) (paths : List Nat) : List Nat :=
  (t.flight.filter fun a => !a.done && a.paths.any fun p => decide (p ∈ paths)).map Access.id
/-- Lines of a core's stores that some L2 or write-back buffer of the package holds and memory does not (10 R268 X). -/
def dirtyLines (s : State) (core : Nat) : List (Nat × Nat) :=
  (s.writers.filter fun e => decide (core ∈ e.2)).flatMap fun e =>
    (List.range 4).filterMap fun d =>
      if (getL2 s d e.1).any (fun x => decide (x.st ≠ .s)) || (mget? s.wb (l2Key d e.1)).isSome then some (d, e.1) else none
/-- Write them back. -/
def flushCore (s : State) (core : Nat) : State :=
  (dirtyLines s core).foldl (fun s e => if (getL2 s e.1 e.2).any (fun x => decide (x.st ≠ .s)) then writeBack s e.1 e.2 else s) s
/-- What a release waits for once its accesses are over: write-backs of the lines that its core has stored to, which begin
here, and the answers to Inv messages. Lines and messages that come later are not waited for (10 R276). -/
def settleWait (s : State) (m : BitVec 5) : Option Hold × State :=
  let core := curCore s
  let s := if m.getLsbD 2 then flushCore s core else s
  let keys := if m.getLsbD 2 then (dirtyLines s core).map fun e => l2Key e.1 e.2 else []
  let lines := if m.getLsbD 3 then (curUnit s).invs else []
  if keys.isEmpty && lines.isEmpty then (none, s) else (some (.settle keys lines), s)
/-- The release conditions of R268 for a mask: none when they hold, else a wait. -/
def releaseWait (s : State) (m : BitVec 5) (paths : List Nat) : Option Hold × State :=
  let stage := (curSlot s).stage
  let ids := if stage ≠ 0 ∨ m = 0 then [] else openIds (curUnit s) paths
  if !ids.isEmpty then (some (.release ids), s)
  else if 2 ≤ stage then (none, s)
  else settleWait s m
/-- The conditions of the slot's release hold, and stay met. -/
def releaseMet (s : State) : State := modCurUnit s fun t => putSlot t s.cur.slot { slotOf t s.cur.slot with stage := 2 }
/-- A counter that the word may raise stands at 255: the slot is held until it falls (07 R198). -/
def counterWait (s : State) (paths : List Nat) : Option Hold :=
  let t := curUnit s
  (paths.find? fun p => decide (255 ≤ pathCount t p)).map fun p => .drain ((openIds t [p]).take 1)
/-- The word takes part in the window of accesses at all: it has lanes, or is of group scope. -/
def memLanes (s : State) (grp : Bool) : List Nat := if grp then [32] else execLanes s
/-- The wait of a word that accesses memory, and of a strong one. -/
def accessWait (s : State) (grp : Bool) (paths : List Nat) (release : Bool) : Option Hold × State :=
  if (memLanes s grp).isEmpty then (none, s)
  else
    let r := if release then releaseWait s (mObs (curUnit s).mode) [1, 2, 3, 4] else (none, s)
    match r.1 with
    | some h => (some h, r.2)
    | none =>
      match counterWait r.2 paths with
      | none => (none, r.2)
      | some h => (some h, if release then releaseMet r.2 else r.2)
/-- A load or store word is of group scope (19 R438). -/
def loadGrp (d : Dst) : Bool := d.isGroup
/-- The same for a store. -/
def storeGrp (x a : Src) : Bool := x.isG && a.isG
/-- Run a word that may have to wait before it acts. -/
def runWaiting (i : Instr) (s : State) (wait : State → Option Hold × State) (effect : State → State) : Ans :=
  match wordFault s i with
  | some f => .next (faultNow s f)
  | none =>
    let w := if s.cur.admitted then (none, s) else wait s
    match w.1 with
    | some h => .next (holdOnly w.2 h)
    | none => .next (finishWord (effect (noteOps w.2 i)))

/-! ## Addresses (19 R437, R439) -/

/-- The lane's access: the lane, or 32, its address, its data and the comparand. -/
structure LaneAcc where
  lane : Nat
  ea : Dword
  data : Dword := 0
  cmp : Dword := 0
  deriving DecidableEq, Repr
/-- TYPE in force. -/
def curTy (s : State) : Nat := mTy (curUnit s).mode
/-- The address of a VA or cluster word. -/
def vaOf (s : State) (grp : Bool) (l : Nat) (a : Src) (o : BitVec 8) : Dword :=
  srcIn s grp l a true + BitVec.ofInt 64 (sextN o.toNat 8 * (tySize (curTy s) : Nat))
/-- The offset of a local-store word. -/
def lsOf (s : State) (grp : Bool) (l : Nat) (a : Src) (o : BitVec 8) : Dword :=
  zext64 ((srcIn s grp l a false).setWidth 32 + BitVec.ofInt 32 (sextN o.toNat 8 * (tySize (curTy s) : Nat)))
/-- The mask that names some lanes: the slot's mask for group scope. -/
def maskFor (s : State) (ls : List Nat) : Mask := if 32 ∈ ls then (curSlot s).mask else maskOf ls
/-- A fault of some lane accesses, at the lowest of their addresses. -/
def memFault (s : State) (c : Cause) (detail : Nat) (bad : List LaneAcc) : LaneFault :=
  laneFault s c detail (maskFor s (bad.map LaneAcc.lane)) (lowestAddr (bad.map LaneAcc.ea))
/-- The first two checks of R439, each across every lane. -/
def formFault (s : State) (va align : Bool) (n : Nat) (as : List LaneAcc) : Option LaneFault :=
  let nc := if va then as.filter fun a => !canonAccess a.ea n else []
  if !nc.isEmpty then some (memFault s .addrNoncanon 0 nc)
  else
    let mis := if align then as.filter fun a => decide (a.ea.toNat % n ≠ 0) else []
    if mis.isEmpty then none else some (memFault s .perm 3 mis)

/-! ## Translation of a word's lanes (09 R243, R248, R249) -/

/-- The parts of n bytes at an address, one for each line: address, position and length. -/
def partsOf (ea : Dword) (n : Nat) : List (Dword × Nat × Nat) :=
  let k := 128 - ea.toNat % 128
  if n ≤ k then [(ea, 0, n)] else [(ea, 0, k), (ea + BitVec.ofNat 64 k, k, n - k)]
/-- A part that translation refused. -/
structure BadPart where
  lane : Nat
  va : Dword
  cause : Cause
  code : Nat
  deriving DecidableEq, Repr
/-- How a lane's translation ends: in a fault at an address, or in a walk's wait. -/
inductive XlatStop where
  | bad (va : Dword) (cause : Cause) (code : Nat)
  | waits
  deriving DecidableEq, Repr
/-- Translate the parts of one lane in turn. -/
def xlatParts (c u : Nat) (lane : Option Nat) (need : Need) :
    List (Dword × Nat × Nat) → State → List (Dword × Nat × Nat × Xlat) × Option XlatStop × State
  | [], s => ([], none, s)
  | (va, pos, len) :: t, s =>
    match translate s c u lane va need with
    | (.bad k code, s) => ([], some (.bad va k code), s)
    | (.waits _, s) => ([], some .waits, s)
    | (.ok x, s) =>
      let r := xlatParts c u lane need t (lpTake s c u lane x)
      ((va, pos, len, x) :: r.1, r.2.1, r.2.2)
/-- The lanes of a word with their translations, and the parts that failed. -/
structure Xlated where
  ok : List (LaneAcc × List (Dword × Nat × Nat × Xlat)) := []
  bad : List BadPart := []
  /-- A walk waits for a line of the tables (09 R240). -/
  wait : Bool := false
/-- Translate every lane. -/
def xlatLanes (c u n : Nat) (need : Need) : List LaneAcc → State → Xlated × State
  | [], s => ({}, s)
  | a :: t, s =>
    let r := xlatParts c u (if a.lane = 32 then none else some a.lane) need (partsOf a.ea n) s
    let q := xlatLanes c u n need t r.2.2
    match r.2.1 with
    | some (.bad va k code) => ({ q.1 with bad := { lane := a.lane, va := va, cause := k, code := code } :: q.1.bad }, q.2)
    | some .waits => ({ q.1 with wait := true }, q.2)
    | none => ({ q.1 with ok := (a, r.1) :: q.1.ok }, q.2)
/-- Of the parts that failed, those in the lowest plane in which one did: they decide the cause (08 R220). -/
def lowBad {A : Type} (s : State) (lane : A → Nat) (bad : List A) : List A :=
  let p := lowPlane (curUnit s) (maskOf ((bad.map lane).filter fun l => decide (l < 32)))
  bad.filter fun b => decide (lane b = 32) || decide (lanePlane (curUnit s) (lane b) % 8 = p)
/-- The fault of parts that translation refused: PAGE before PERM, at the lowest address with that cause. -/
def xlatFault (s : State) (bad : List BadPart) : LaneFault :=
  let low := lowBad s BadPart.lane bad
  let cause : Cause := if low.any fun b => decide (b.cause = .page) then .page else .perm
  let mine := low.filter fun b => decide (b.cause = cause)
  let addr := lowestAddr (mine.map BadPart.va)
  let code := ((mine.find? fun b => decide (b.va = addr)).map BadPart.code).getD 0
  { laneFault s cause 0 (maskFor s (bad.map BadPart.lane)) addr with xcode := code, sup := true, held := true }
/-- Parts whose home cannot be reached: in a cell declared lost, or no live peer (03 R79, R481). -/
def farBad (s : State) (x : Xlat) (va : Dword) : Option Cause :=
  let ep := bitsN (xlatPa x va) 45 7
  if ep = ownEp s ∨ sessLive s ep then none
  else if epLost s ep then some .cellLost else some .peerLost
/-- The fault of homes that cannot be reached, at issue. -/
def farFault (s : State) (ok : List (LaneAcc × List (Dword × Nat × Nat × Xlat))) : Option LaneFault :=
  let bad := ok.flatMap fun e => e.2.filterMap fun p => (farBad s p.2.2.2 p.1).map fun c => (e.1.lane, p.1, c)
  if bad.isEmpty then none
  else
    let low := lowBad s Prod.fst bad
    let cause : Cause := if low.any fun b => decide (b.2.2 = .cellLost) then .cellLost else .peerLost
    let mine := low.filter fun b => decide (b.2.2 = cause)
    some { laneFault s cause 0 (maskFor s (bad.map Prod.fst)) (lowestAddr (mine.map fun b => b.2.1)) with
      sup := decide (cause = .cellLost) }

/-! ## Making an access -/

/-- A replica serves a load on a die: its replica time (04 R110; 09 R255). -/
def replicaTime (s : State) (die : Nat) (x : Xlat) : Option Nat :=
  x.rep.bind fun idx =>
    let e := ctlGet s 0x2420 + 64 * idx
    if bitN (hwNat s (e + 0x16) 2) 0 && bitN (hwNat s (e + 0x18 + 8 * die) 8) 0 && decide (mget? s.reps (x.pa / 8192) = some idx) then
      some (hwNat s (e + 0x10) 6)
    else none
/-- The piece of a translated part. -/
def pieceOf (s : State) (kind : AccKind) (a : LaneAcc) (p : Dword × Nat × Nat × Xlat) : Piece :=
  let pa := xlatPa p.2.2.2 p.1
  let rt := if kind = .load then replicaTime s (dieOf (curCore s)) p.2.2.2 else none
  { lane := a.lane, pa := pa, va := p.1, len := p.2.2.1, pos := p.2.1, data := a.data
    aux := if rt.isSome then BitVec.ofNat 64 (rt.getD 0) else a.cmp
    served := if rt.isSome then .replica else .mem
    failed := if ownLine s (pa / 128) && refusedOff (pa / 128) then some .page else none }
/-- The path that a piece of coherent memory raises (07 R198). -/
def memPath (s : State) (store : Bool) (pa : Nat) : Nat :=
  if bitsN pa 45 7 = ownEp s then (if store then 3 else 2) else 4
/-- A list without repeats. -/
def nub {A : Type} [DecidableEq A] (l : List A) : List A := l.foldl addOnce []
/-- Count the items that a word sends through remote leaves with ACE (09 R251). -/
def countItems (s : State) (ok : List (LaneAcc × List (Dword × Nat × Nat × Xlat))) : State :=
  let lines := ok.flatMap fun e => e.2.map fun p => (xlatPa p.2.2.2 p.1 / 128, p.2.2.2)
  (lines.foldl (fun (acc : List (Nat × Xlat)) e => if acc.any fun x => decide (x.1 = e.1) then acc else acc ++ [e]) []).foldl
    (fun s e => countAccess s (curCore s) e.2) s
/-- The guard's predicate, as a register that a per-lane word reads. -/
def guardReads (s : State) (grp : Bool) : List Nat :=
  if grp then [] else guardCode (curUnit s).mode
/-- Put an access in flight. Its destination is pending in the lanes that it serves, and a store of another endpoint's
memory, one that the home's firewall may refuse, a cluster store, or one with a part that has failed already can still fail
(03 R86). -/
def launch (s : State) (i : Instr) (kind : AccKind) (grp : Bool) (dst : Nat) (paths : List Nat) (ps : List Piece) : State :=
  let t := curUnit s
  let sh := shape t.mode (isCrew s.cur.unit) i
  let id := t.nextAcc
  let r : AccRef := { ctx := s.cur.ctx, unit := s.cur.unit, acc := id }
  let a : Access := { id := id, paths := paths, kind := kind, ty := mTy t.mode, dst := dst, pieces := ps, word := s.cur.word
                      off := s.cur.off, plane := s.cur.plane, slot := s.cur.slot, mask := (curSlot s).mask
                      chainOff := t.chainOff, chpos := chPos s
                      gens := if chPos s = 0 then [] else (lanesOf (curSlot s).mask).map fun l => (l, laneSr { t with sr := t.chainSr } l)
                      genG := t.chainSg, age := t.issued, obs := mObs t.mode
                      reads := opdRegs sh.ops false ++ guardReads s grp
                      firm := ((kind.stores || decide (kind = .lsto)) && (decide (4 ∈ paths) || ps.any fun p => p.failed.isSome)) ||
                        (kind.stores && fwOn s) || decide (kind = .stx) }
  let s := modCurUnit s fun t => { t with flight := t.flight ++ [a], nextAcc := id + 1 }
  let s := if returnsValue a then
      modCurUnit s fun t => (dstCodes a).foldl (fun t c =>
        if c < 0x80 then { t with vpend := mput t.vpend 0 c (mgetD t.vpend c 0 ||| maskOf (ps.map Piece.lane)) }
        else { t with gpend := mput t.gpend false (c - 0xC0) true }) t
    else s
  let s := if chPos s ≠ 0 && !returnsValue a then
      modCurUnit s fun t => { t with block := t.block ++ [id] }
    else s
  if kind.stores || decide (kind = .stx) then post s 1 (.storeComplete r)
  else if (decide (kind = .lsto) || decide (kind = .lreq)) && ps.any Piece.isOpen then s
  else post s 1 (.loadDataReturn r)
/-- A piece that the core serves from its own bank, read at issue. -/
def ownPiece (s : State) (lane : Nat) (va : Dword) (off n : Nat) : Piece :=
  let x := curCtx s
  let bad := bankPois x off n
  { lane := lane, served := .own, pa := off, va := va, len := n, pos := 0
    data := BitVec.ofNat 64 (leNat (lsRead x off n)), done := !bad, failed := if bad then some .poison else none }

/-- What a word on virtual addresses comes to: the state with its faults noted, the pieces of its access, the paths that
they raise, and the translations of the lanes that pass. -/
structure VaPlan where
  st : State
  ps : List Piece := []
  paths : List Nat := []
  ok : List (LaneAcc × List (Dword × Nat × Nat × Xlat)) := []
  /-- The state after translation alone, and whether a walk waits. -/
  walked : State := st
  wait : Bool := false
/-- The errors of the core's own bank that some lanes' runs of n bytes meet (07 R207). -/
def readOwn (s : State) (n : Nat) (offs : List Nat) : State := offs.foldl (fun s o => readLs s s.cur.ctx o n) s
/-- A word on virtual addresses: the checks of R439 in their order. A store makes no access when one of its lanes fails here;
the lanes of a load or an atomic that do not fail go on (03 R85, R117, R481; 08 R220). -/
def vaPlan (s : State) (kind : AccKind) (as : List LaneAcc) : VaPlan :=
  let n := tySize (curTy s)
  let store := kind.stores
  let writes := store || kind.isAtomic
  if as.isEmpty then { st := s }
  else
    match formFault s true (!(decide (kind = .load) || decide (kind = .store))) n as with
    | some f => { st := addFault s f, walked := s }
    | none =>
      let x := curCtx s
      let crew := isCrew s.cur.unit
      let red (a : LaneAcc) : Option Nat := if kind = .load ∧ crew then haloRedirect x a.ea n else none
      let foreign (a : LaneAcc) : Bool := writes && crew && haloForeign x (ctxCore x) a.ea n
      let q := xlatLanes s.cur.ctx s.cur.unit n { r := !store, w := writes } (as.filter fun a => (red a).isNone) s
      let z := q.2
      if q.1.wait then { st := modCur z fun k => { k with stay := true }, walked := z, wait := true }
      else
        let near := q.1.ok.filter fun e => e.2.all fun p => (farBad z p.2.2.2 p.1).isNone
        let halo := (near.map Prod.fst).filter foreign
        let ok := near.filter fun e => !foreign e.1
        let s := if q.1.bad.isEmpty then z else addFault (walkEnd z (dieOf (ctxCore x))) (xlatFault z q.1.bad)
        let s := (farFault z q.1.ok).elim s (addFault s)
        let s := if halo.isEmpty then s else addFault s (memFault s .haloWrite 0 halo)
        if store && (!q.1.bad.isEmpty || decide (ok.length < q.1.ok.length)) then { st := s, walked := z }
        else
          let s := readOwn s n (as.filterMap red)
          let frames := as.filterMap fun a => (red a).map fun o => ownPiece s a.lane a.ea o n
          let ps := frames ++ ok.flatMap fun e => e.2.map (pieceOf s kind e.1)
          { st := s, ps := ps, ok := ok, walked := z
            paths := nub ((if frames.isEmpty then [] else [0]) ++
              (ps.filter fun p => decide (p.served ≠ .own)).map fun p => memPath s store p.pa) }
/-- The wait of a word on virtual addresses: its walks, then that of its access. -/
def planWait (s : State) (grp : Bool) (kind : AccKind) (as : List LaneAcc) (release : Bool) : Option Hold × State :=
  let p := vaPlan s kind as
  if p.wait then (some (.drain []), p.walked) else accessWait p.walked grp p.paths release
/-- One access for the lanes that pass. -/
def vaWord (s : State) (i : Instr) (kind : AccKind) (grp : Bool) (dst : Nat) (as : List LaneAcc) : State :=
  let p := vaPlan s kind as
  if p.ps.isEmpty then p.st else launch (countItems p.st p.ok) i kind grp dst p.paths p.ps

/-! ## Loads and stores (19 R442 to R446) -/

/-- The lanes of a load, with their addresses. -/
def loadLanes (s : State) (grp : Bool) (a : Src) (o : BitVec 8) : List LaneAcc :=
  (memLanes s grp).map fun l => { lane := l, ea := vaOf s grp l a o }
/-- The lanes of a store, with addresses and data. -/
def storeLanes (s : State) (grp : Bool) (x a : Src) (o : BitVec 8) : List LaneAcc :=
  (memLanes s grp).map fun l => { lane := l, ea := vaOf s grp l a o, data := BitVec.ofNat 64 (srcTy s grp l x (curTy s)) }
/-- LD (19 R442). -/
def execLd (d : Dst) (a : Src) (o : BitVec 8) (s : State) : Ans :=
  runWaiting (.ld d a o) s (fun s => planWait s (loadGrp d) .load (loadLanes s (loadGrp d) a o) false) fun s =>
    vaWord s (.ld d a o) .load (loadGrp d) d.code.toNat (loadLanes s (loadGrp d) a o)
/-- ST (19 R443). -/
def execSt (x a : Src) (o : BitVec 8) (s : State) : Ans :=
  runWaiting (.st x a o) s (fun s =>
      planWait s (storeGrp x a) .store (storeLanes s (storeGrp x a) x a o) false) fun s =>
    vaWord s (.st x a o) .store (storeGrp x a) 0x80 (storeLanes s (storeGrp x a) x a o)
/-- LDACQ (19 R445). -/
def execLdacq (d : Dst) (a : Src) (o : BitVec 8) (s : State) : Ans :=
  runWaiting (.ldacq d a o) s (fun s =>
      planWait s (loadGrp d) .acquire (loadLanes s (loadGrp d) a o) false) fun s =>
    vaWord s (.ldacq d a o) .acquire (loadGrp d) d.code.toNat (loadLanes s (loadGrp d) a o)
/-- STREL (19 R446). -/
def execStrel (x a : Src) (o : BitVec 8) (s : State) : Ans :=
  runWaiting (.strel x a o) s (fun s =>
      planWait s (storeGrp x a) .release (storeLanes s (storeGrp x a) x a o) true) fun s =>
    vaWord s (.strel x a o) .release (storeGrp x a) 0x80 (storeLanes s (storeGrp x a) x a o)

/-! ## Local store and the cluster (19 R447, R448; 07 R201, R202) -/

/-- A run of n bytes lies in the bank. -/
def inBank (off n : Nat) : Bool := decide (off + n ≤ 0x20000)
/-- LDL (19 R447). -/
def execLdl (d : Dst) (a : Src) (o : BitVec 8) (s : State) : Ans :=
  runWaiting (.ldl d a o) s (fun s => accessWait s (loadGrp d) [0] false) fun s =>
    let n := tySize (curTy s)
    let grp := loadGrp d
    let as : List LaneAcc := (memLanes s grp).map fun l => { lane := l, ea := lsOf s grp l a o }
    match formFault s false true n as with
    | some f => addFault s f
    | none =>
      let out := as.filter fun a => !inBank a.ea.toNat n
      let ok := as.filter fun a => inBank a.ea.toNat n
      let s := if out.isEmpty then s else addFault s (memFault s .perm 2 out)
      let s := readOwn s n (ok.map fun a => a.ea.toNat)
      if ok.isEmpty then s
      else launch s (.ldl d a o) .ldl grp d.code.toNat [0] (ok.map fun a => ownPiece s a.lane a.ea a.ea.toNat n)
/-- STL (19 R447): every lane is checked before any lane writes, and the store performs at issue. -/
def execStl (x a : Src) (o : BitVec 8) (s : State) : Ans :=
  runWord (.stl x a o) s fun s =>
    let n := tySize (curTy s)
    let grp := storeGrp x a
    let as : List LaneAcc := (memLanes s grp).map fun l =>
      { lane := l, ea := lsOf s grp l a o, data := BitVec.ofNat 64 (srcTy s grp l x (curTy s)) }
    match formFault s false true n as with
    | some f => addFault s f
    | none =>
      let out := as.filter fun a => !inBank a.ea.toNat n
      if !out.isEmpty then addFault s { memFault s .perm 2 out with after := true }
      else modCtx s s.cur.ctx fun c => as.foldl (fun c a => lsWrite c a.ea.toNat (leBytes n a.data.toNat)) c
/-- A compute die is active (01 R28). -/
def dieActive (s : State) (die : Nat) : Bool := decide (ctlField s 0x0008 (2 * die) 2 = 1)
/-- The context that a cluster address of n bytes reaches (07 R202). -/
def clusterCtx (s : State) (ea : Dword) (n : Nat) : Option Nat :=
  let x := curCtx s
  let core := bitsN ea.toNat 32 9
  if bitsN ea.toNat 41 23 ≠ 0 ∨ bitsN ea.toNat 17 15 ≠ 0 ∨ 320 ≤ core ∨ !dieActive s (dieOf core) ∨ !inBank (bitsN ea.toNat 0 17) n then none
  else
    (s.ctxs.find? fun e => e.2.live && decide (e.2.asid = x.asid) && decide (e.2.cls = x.cls) &&
      match e.2.place with
      | .bank k _ => decide (k = core)
      | _ => false).map Prod.fst
/-- A lane's part of a cluster word. One that reaches the crew's own bank performs at issue, so that it keeps the crew's order
with LDL and STL (07 R203). -/
def clusterPiece (s : State) (kind : AccKind) (n : Nat) (a : LaneAcc) (c : Nat) : Piece × State :=
  let p : Piece := { lane := a.lane, served := .bank c, pa := bitsN a.ea.toNat 0 17, va := a.ea, len := n, pos := 0, data := a.data }
  if c ≠ s.cur.ctx then (p, s)
  else if kind = .ldx then
    let s := readLs s c p.pa n
    let x := getCtx s c
    if bankPois x p.pa n then ({ p with failed := some .poison }, s)
    else ({ p with data := BitVec.ofNat 64 (leNat (lsRead x p.pa n)), done := true }, s)
  else ({ p with done := true }, modCtx s c fun x => lsWrite x p.pa p.bytes)
/-- The parts of the lanes that reach a bank, in turn. -/
def clusterPieces (kind : AccKind) (n : Nat) : List (LaneAcc × Nat) → State → List Piece × State
  | [], s => ([], s)
  | e :: t, s =>
    let p := clusterPiece s kind n e.1 e.2
    let r := clusterPieces kind n t p.2
    (p.1 :: r.1, r.2)
/-- A cluster word. -/
def clusterWord (s : State) (i : Instr) (kind : AccKind) (grp : Bool) (dst : Nat) (as : List LaneAcc) : State :=
  let n := tySize (curTy s)
  match formFault s false true n as with
  | some f => addFault s f
  | none =>
    let out := as.filter fun a => (clusterCtx s a.ea n).isNone
    let ok := as.filterMap fun a => (clusterCtx s a.ea n).map fun c => (a, c)
    let s := if out.isEmpty then s else addFault s { memFault s .perm 2 out with after := decide (kind = .stx) }
    let q := clusterPieces kind n ok s
    if q.1.isEmpty then s else launch q.2 i kind grp dst [1] q.1
/-- LDX (19 R448). -/
def execLdx (d : Dst) (a : Src) (o : BitVec 8) (s : State) : Ans :=
  runWaiting (.ldx d a o) s (fun s => accessWait s (loadGrp d) [1] false) fun s =>
    clusterWord s (.ldx d a o) .ldx (loadGrp d) d.code.toNat (loadLanes s (loadGrp d) a o)
/-- STX (19 R448). -/
def execStx (x a : Src) (o : BitVec 8) (s : State) : Ans :=
  runWaiting (.stx x a o) s (fun s => accessWait s (storeGrp x a) [1] false) fun s =>
    clusterWord s (.stx x a o) .stx (storeGrp x a) 0x80 (storeLanes s (storeGrp x a) x a o)

/-! ## Atomics (19 R449 to R451) -/

/-- The lanes of an atomic: address, operand, and the comparand that D held. -/
def atomicLanes (s : State) (d : Dst) (a b : Src) : List LaneAcc :=
  let grp := d.isGroup
  (memLanes s grp).map fun l =>
    { lane := l, ea := srcIn s grp l a true, data := BitVec.ofNat 64 (srcTy s grp l b (curTy s))
      cmp := BitVec.ofNat 64 ((match d with
        | .none => 0
        | _ => (oldDst s grp l d (isWide (curTy s))).toNat) % 2 ^ tyBits (curTy s)) }
/-- An atomic word. -/
def atomicWord (s : State) (i : Instr) (op : AtOp) (d : Dst) (a b : Src) : State :=
  vaWord s i (.atomic op) d.isGroup d.code.toNat (atomicLanes s d a b)
/-- The wait of an atomic. -/
def atomicWait (op : AtOp) (d : Dst) (a b : Src) (s : State) : Option Hold × State :=
  planWait s d.isGroup (.atomic op) (atomicLanes s d a b) true
/-- ATADD (19 R449). -/
def execAtadd (d : Dst) (a b : Src) (s : State) : Ans :=
  runWaiting (.atadd d a b) s (atomicWait .add d a b) fun s => atomicWord s (.atadd d a b) .add d a b
/-- ATMIN (19 R449). -/
def execAtmin (d : Dst) (a b : Src) (s : State) : Ans :=
  runWaiting (.atmin d a b) s (atomicWait .min d a b) fun s => atomicWord s (.atmin d a b) .min d a b
/-- ATMAX (19 R449). -/
def execAtmax (d : Dst) (a b : Src) (s : State) : Ans :=
  runWaiting (.atmax d a b) s (atomicWait .max d a b) fun s => atomicWord s (.atmax d a b) .max d a b
/-- ATAND (19 R449). -/
def execAtand (d : Dst) (a b : Src) (s : State) : Ans :=
  runWaiting (.atand d a b) s (atomicWait .and d a b) fun s => atomicWord s (.atand d a b) .and d a b
/-- ATOR (19 R449). -/
def execAtor (d : Dst) (a b : Src) (s : State) : Ans :=
  runWaiting (.ator d a b) s (atomicWait .or d a b) fun s => atomicWord s (.ator d a b) .or d a b
/-- ATXOR (19 R449). -/
def execAtxor (d : Dst) (a b : Src) (s : State) : Ans :=
  runWaiting (.atxor d a b) s (atomicWait .xor d a b) fun s => atomicWord s (.atxor d a b) .xor d a b
/-- ATXCH (19 R449). -/
def execAtxch (d : Dst) (a b : Src) (s : State) : Ans :=
  runWaiting (.atxch d a b) s (atomicWait .xch d a b) fun s => atomicWord s (.atxch d a b) .xch d a b
/-- ATCAS (19 R449). -/
def execAtcas (d : Dst) (a b : Src) (s : State) : Ans :=
  runWaiting (.atcas d a b) s (atomicWait .cas d a b) fun s => atomicWord s (.atcas d a b) .cas d a b

/-! ## FENCE (19 R452) -/

/-- FENCE's wait: every access issued before it, then the release conditions of its mask. -/
def fenceWait (m : BitVec 5) (s : State) : Option Hold × State :=
  let ids := if (curSlot s).stage ≠ 0 then [] else openIds (curUnit s) [0, 1, 2, 3, 4]
  if !ids.isEmpty then (some (.release ids), s) else releaseWait s m []
/-- FENCE. -/
def execFence (m : BitVec 5) (s : State) : Ans := runWaiting (.fence m) s (fenceWait m) id

/-! ## Hints (19 R453; 09 R260, R261) -/

/-- Count dropped hints. -/
def dropHints (s : State) (c n : Nat) : State :=
  modCtx s c fun x => { x with hintdrop := BitVec.ofNat 32 (min (2 ^ 32 - 1) (x.hintdrop.toNat + n)) }
/-- The translation of a lane's hint of a unit: what drops it, or a walk that waits. -/
def hintXlat (s : State) (c u n : Nat) (a : LaneAcc) : Walk × State :=
  if !canonAccess a.ea n then (.bad .addrNoncanon 0, s)
  else
    match translate s c u (some a.lane) a.ea { r := true } with
    | (.bad k code, s) => (.bad k code, walkEnd s (dieOf (ctxCore (getCtx s c))))
    | (.waits line, s) => (.waits line, s)
    | (.ok x, s) => if farBad s x a.ea = some .cellLost then (.bad .cellLost 0, s) else (.ok x, lpTake s c u (some a.lane) x)
/-- The distinct lines of the hints that are not dropped, counting those that are, and the lanes whose walks wait. -/
def hintLines (c u n : Nat) : List LaneAcc → State → List (Nat × Xlat) × List LaneAcc × State
  | [], s => ([], [], s)
  | a :: t, s =>
    match hintXlat s c u n a with
    | (.bad _ _, s) => hintLines c u n t (dropHints s c 1)
    | (.waits _, s) =>
      let r := hintLines c u n t s
      (r.1, a :: r.2.1, r.2.2)
    | (.ok x, s) =>
      let r := hintLines c u n t s
      let line := xlatPa x a.ea / 128
      (if r.1.any fun e => decide (e.1 = line) then r.1 else (line, x) :: r.1, r.2.1, r.2.2)
/-- PREF brings a line into the die's L2 under a lease, unless one is there. -/
def prefLine (s : State) (c line : Nat) : State :=
  let core := ctxCore (getCtx s c)
  let die := dieOf core
  if (getL2 s die line).any fun x => l2Serves s x line (clk s core) then s
  else if ownLine s line && refusedOff line then s
  else if !ownLine s line && !sessLive s (homeEp line) then s
  else (askOnce s (some c) die line false (clk s core) (expiredCopy s core line)).2
/-- RESID writes a record for a remote leaf with ACE. -/
def residLine (s : State) (c : Nat) (x : Xlat) : State :=
  let core := ctxCore (getCtx s c)
  if x.kind = 2 ∧ x.ace ∧ acrOn s (dieOf core) then
    let n := ((getCore s core).counters.find? fun k => decide (k.asid = x.asid) && decide (k.va = x.va) && decide (k.size = x.size)).elim 0 AccCount.count
    acrRecord s (dieOf core) x.asid core x.va x.size n 2 (bitsN x.pa 45 7)
  else s
/-- Lanes whose walks wait go on in WALK_COMPLETE: they do not hold the crew (09 R260). -/
def deferHint (s : State) (c u n : Nat) (resid : Bool) (as : List LaneAcc) : State :=
  match as with
  | [] => s
  | a :: _ =>
    post (modCtx s c fun x => { x with
      hints := x.hints ++ [{ unit := u, size := n, resid := resid, lanes := as.map fun a => (a.lane, a.ea) }] }) 1
      (.walkComplete (ctxCore (getCtx s c)) c a.ea)
/-- The hints of some lanes. -/
def runHints (s : State) (c u n : Nat) (resid : Bool) (as : List LaneAcc) : State :=
  let r := hintLines c u n as s
  deferHint (r.1.foldl (fun s e => if resid then residLine s c e.2 else prefLine s c e.1) r.2.2) c u n resid r.2.1
/-- PREF. -/
def execPref (a : Src) (o : BitVec 8) (s : State) : Ans :=
  runWord (.pref a o) s fun s => runHints s s.cur.ctx s.cur.unit (tySize (curTy s)) false (loadLanes s false a o)
/-- RESID. -/
def execResid (a : Src) (o : BitVec 8) (s : State) : Ans :=
  runWord (.resid a o) s fun s => runHints s s.cur.ctx s.cur.unit (tySize (curTy s)) true (loadLanes s false a o)

end Sys2Proof.Machine
end

