-- ==== Sys2Proof/Machine/Landing.lean ====
section
/-! DEFINITION. The landing words, opcodes 0xA0 to 0xA7, and the events of landing names (11 R279 to R297; 19 R454,
R455). -/

namespace Sys2Proof.Machine

/-! ## Mints (11 R282, R283) -/

/-- The control word of a mint. -/
def mintCtl (s : State) (b : Src) : Nat := (srcGroup s b false).toNat % 2 ^ 32
/-- The name timeout of a class, in cycles. -/
def mintTime (ctl : Nat) : Nat :=
  let k := ctl % 4
  if k = 0 then 18000 else if k = 1 then 180000 else if k = 2 then 1800000 else 18000000
/-- The expected storer of a mint. -/
def mintExpected (ctl : Nat) : Option Nat := if bitN ctl 3 then some (bitsN ctl 4 7) else none
/-- The expected storer has no live session. -/
def mintLost (s : State) (ctl : Nat) : Bool :=
  (mintExpected ctl).any fun e => decide (e ≠ ownEp s) && !sessLive s e
/-- The mint waits for entries: what an LN_FULL of it would record is kept, and its time starts. -/
def mintWait (ctl need : Nat) (lanes : Mask) (s : State) : Option Hold × State :=
  if need = 0 ∨ mintLost s ctl ∨ mintRoom s (curCtx s).home s.cur.ctx need then (none, s)
  else
    let x := curSlot s
    let since := if x.waited then x.since else s.now
    let plane := if lanes = 0 then s.cur.plane else lowPlane (curUnit s) lanes
    let r : TrapRec := { word := s.cur.word, plane := plane, lanes := lanes, mask := x.mask, off := s.cur.off }
    let s := modCurUnit s fun t => putSlot t s.cur.slot { x with since := since, barRec := r, barAge := t.issued }
    (some (.mint need), post s (since + 1800 - s.now) (.lnFullTimeout s.cur.ctx s.cur.unit s.cur.slot))
/-- Mint one entry: the name and the state. -/
def mintOne (s : State) (ctl reg width lane : Nat) : Dword × State :=
  let core := (curCtx s).home
  match freeEntry s core with
  | none => (0, s)
  | some e =>
    let n := nonceNext (nonceOf s core)
    let s := modCore s core fun k => { k with nonce := some n }
    let s := putEntry s core e
      { state := .live, ctx := s.cur.ctx, unit := s.cur.unit, lane := lane, reg := reg, width := width, nonce := n, cls := (curCtx s).cls
        deadline := s.now + mintTime ctl, expected := mintExpected ctl }
    let s := modCurUnit s fun t => markBound t true false reg width lane
    (mkName (ownEp s) core e n width, post s (mintTime ctl) (.nameDeadline core e n))
/-- A mint's fault when its expected storer is not there. -/
def mintFault (s : State) (lanes : Mask) : State := addFault s (laneFault s .peerLost 0 lanes 0)
/-- The width code of a mint. -/
def mintWidth (base ctl : Nat) : Nat := if bitN ctl 2 then base + 1 else base
/-- LMINT (11 R283). -/
def execLmint (d : Dst) (a b : Src) (s : State) : Ans :=
  runWaiting (.lmint d a b) s (fun s => mintWait (mintCtl s b) (execLanes s).length (execMask s) s) fun s =>
    let ctl := mintCtl s b
    if (execLanes s).isEmpty then s
    else if mintLost s ctl then mintFault s (execMask s)
    else (execLanes s).foldl (fun s l =>
      let r := mintOne s ctl a.code.toNat (mintWidth 0 ctl) l
      modCurUnit r.2 fun t => clearRcl (wrLane t d true l r.1) d true (laneBit l)) s
/-- A mint of one entry whose name goes to a g pair. -/
def mintGroup (s : State) (d : Dst) (a b : Src) (base : Nat) : State :=
  let ctl := mintCtl s b
  if mintLost s ctl then mintFault s (curSlot s).mask
  else
    let r := mintOne s ctl a.code.toNat (mintWidth base ctl) 0
    modCurUnit r.2 fun t => clearRcl (wrGroup t d true r.1) d true 0
/-- LMINTC (11 R283). -/
def execLmintc (d : Dst) (a b : Src) (s : State) : Ans :=
  runWaiting (.lmintc d a b) s (fun s => mintWait (mintCtl s b) 1 (curSlot s).mask s) fun s => mintGroup s d a b 4
/-- LMINTG (11 R283). -/
def execLmintg (d : Dst) (a b : Src) (s : State) : Ans :=
  runWaiting (.lmintg d a b) s (fun s => mintWait (mintCtl s b) 1 (curSlot s).mask s) fun s => mintGroup s d a b 2

/-! ## LSTO (11 R285 to R287; 19 R455) -/

/-- The data operand gives each lane its own value. -/
def perLaneData (b : Src) : Bool :=
  match b with
  | .v _ => true
  | .lane => true
  | .plane => true
  | .crew => true
  | .p _ => true
  | _ => false
/-- The landing stores of an LSTO, by lane; 32 for one through a g name. -/
def lstoStores (s : State) (a b : Src) : List (Nat × LandMsg) :=
  let wide := isWide (curTy s)
  let n := if wide then 8 else 4
  let w (k : Nat) : Nat := if wide then k + 1 else k
  let x := curCtx s
  let r : AccRef := { ctx := s.cur.ctx, unit := s.cur.unit, acc := (curUnit s).nextAcc }
  let msg (lane : Nat) (name : Dword) (d : List Byte) (width : Nat) : Nat × LandMsg :=
    (lane, { name := name, data := d, width := width, cls := x.cls, clock := some (clk s (ctxCore x)), origin := .unit r lane })
  if a.isG then
    if perLaneData b then
      [msg 32 (srcGroup s a true) ((List.range 32).flatMap fun l => leBytes n (srcLane s b wide l).toNat) (w 4)]
    else [msg 32 (srcGroup s a true) (leBytes n (srcGroup s b wide).toNat) (w 2)]
  else (execLanes s).map fun l => msg l (srcLane s a true l) (leBytes n (srcLane s b wide l).toNat) (w 0)
/-- Two names name one entry. -/
def sameEntry (a b : Dword) : Bool := decide (nmEp a = nmEp b) && decide (nmCore a = nmCore b) && decide (nmEntry a = nmEntry b)
/-- The first store of each entry sets out; the others wait for it. -/
def firstStores : List LandMsg → List LandMsg → List LandMsg × List LandMsg
  | [], _ => ([], [])
  | m :: t, seen =>
    let r := firstStores t (m :: seen)
    if seen.any fun x => sameEntry x.name m.name then (r.1, m :: r.2) else (m :: r.1, r.2)
/-- What a lane of a landing word sends enters the port: its time runs from now (02 R54). -/
def timeLane (s : State) (r : AccRef) (lane : Nat) : State :=
  let d := timeoutOf (getCtx s r.ctx)
  let g (p : Piece) : Piece := if p.lane = lane ∧ p.deadline = 0 then { p with deadline := s.now + d } else p
  post (modAcc s r fun a => { a with pieces := a.pieces.map g }) d (.transactionTimeout (.access r))
/-- A landing store of a unit sets out, and is timed where it goes to a peer. -/
def sendTimed (s : State) (r : AccRef) (m : LandMsg) : State :=
  let s := match m.origin with
    | .unit _ lane => if nmEp m.name = ownEp s then s else timeLane s r lane
    | _ => s
  sendLanding s r.ctx m
/-- LSTO's effect. -/
def lstoWord (s : State) (i : Instr) (a b : Src) : State :=
  let ms := lstoStores s a b
  if ms.isEmpty then s
  else
    let ps : List Piece := ms.map fun e =>
      { lane := e.1, served := .own, pa := 0, va := e.2.name, len := 0, pos := 0, data := 0
        failed := storerCheck s e.2.name e.2.width }
    let good := (ms.filter fun e => (storerCheck s e.2.name e.2.width).isNone).map Prod.snd
    let f := firstStores good []
    let id := (curUnit s).nextAcc
    let s := launch s i .lsto a.isG 0x80 [4] ps
    let s := modCurUnit s fun t => { t with flight := t.flight.map fun x => if x.id = id then { x with lands := f.2 } else x }
    f.1.foldl (fun s m => sendTimed s { ctx := s.cur.ctx, unit := s.cur.unit, acc := id } m) s
/-- LSTO. -/
def execLsto (a b : Src) (s : State) : Ans :=
  runWaiting (.lsto a b) s (fun s => accessWait s a.isG [4] true) fun s => lstoWord s (.lsto a b) a b

/-! ## LREQ (11 R288; 19 R455) -/

/-- A request of one lane: the lane, its address and its name. -/
structure LreqLane where
  lane : Nat
  ea : Dword
  name : Dword
  deriving DecidableEq, Repr
/-- The requests of an LREQ. -/
def lreqLanes (s : State) (a b : Src) : List LreqLane :=
  if a.isG then [{ lane := 32, ea := srcGroup s a true, name := srcGroup s b true }]
  else (execLanes s).map fun l => { lane := l, ea := srcLane s a true l, name := srcLane s b true l }
/-- Bytes of a request. -/
def LreqLane.size (x : LreqLane) : Nat := widthBytes (nmWidth x.name)
/-- A fault of some requests of the word. -/
def lreqFault (s : State) (c : Cause) (detail : Nat) (bad : List LreqLane) : LaneFault :=
  laneFault s c detail (maskFor s (bad.map LreqLane.lane)) (lowestAddr (bad.map LreqLane.ea))
/-- Translate the requests. -/
def lreqXlat (c u : Nat) : List LreqLane → State → List (LreqLane × Xlat) × List BadPart × State
  | [], s => ([], [], s)
  | a :: t, s =>
    let lane := if a.lane = 32 then none else some a.lane
    match translate s c u lane a.ea { r := true } with
    | (.bad k code, s) =>
      let r := lreqXlat c u t s
      (r.1, { lane := a.lane, va := a.ea, cause := k, code := code } :: r.2.1, r.2.2)
    | (.waits _, s) => lreqXlat c u t s
    | (.ok x, s) =>
      let r := lreqXlat c u t (lpTake s c u lane x)
      ((a, x) :: r.1, r.2.1, r.2.2)
/-- The fault of the names that fail at the issuer: the cause of the lowest lane. -/
def lreqNameFault (s : State) (as : List LreqLane) : Option LaneFault :=
  let bad := as.filterMap fun a => (nameCheck s a.name).map fun c => (a, c)
  match bad with
  | [] => none
  | (_, c) :: _ => some (laneFault s c 0 (maskFor s (bad.map fun e => e.1.lane)) (lowestAddr (bad.map fun e => e.1.name)))
/-- Send the requests out. -/
def lreqSend (s : State) (i : Instr) (grp : Bool) (ok : List (LreqLane × Xlat)) : State :=
  let x := curCtx s
  let id := (curUnit s).nextAcc
  let r : AccRef := { ctx := s.cur.ctx, unit := s.cur.unit, acc := id }
  let ps : List Piece := ok.map fun e =>
    { lane := e.1.lane, pa := xlatPa e.2 e.1.ea, va := e.1.ea, len := e.1.size, pos := 0, data := 0, aux := e.1.name }
  let s := launch s i .lreq grp 0x80 [4] ps
  ok.foldl (fun s e =>
    let s := if ownLine s (xlatPa e.2 e.1.ea / 128) && decide (nmEp e.1.name = ownEp s) then s else timeLane s r e.1.lane
    let pa := xlatPa e.2 e.1.ea
    let m : LreqMsg := { pa := pa, size := e.1.size, name := e.1.name, cls := x.cls, origin := .unit r e.1.lane }
    let s := countAccess s (ctxCore x) e.2
    if ownLine s (pa / 128) then post s 0 (.lreqRead m)
    else
      let tid := s.nextTxn
      let s := { s with nextTxn := tid + 1, landTxns := mset s.landTxns tid (e.1.name, m.origin) }
      sendMsg s (homeEp (pa / 128)) (some s.cur.ctx) (.lreq { m with origin := .peer (ownEp s) tid })) s
/-- LREQ's wait: its walks (09 R240), then that of its access. -/
def lreqWait (a b : Src) (s : State) : Option Hold × State :=
  let as := (lreqLanes s a b).filter fun x => canonAccess x.ea x.size && decide (x.ea.toNat % x.size = 0)
  let q := xlatLanes s.cur.ctx s.cur.unit 1 { r := true } (as.map fun x => { lane := x.lane, ea := x.ea }) s
  if q.1.wait then (some (.drain []), q.2) else accessWait q.2 a.isG [4] false
/-- LREQ's effect: every check before any request leaves. -/
def lreqWord (s : State) (i : Instr) (a b : Src) : State :=
  let as := lreqLanes s a b
  let nc := as.filter fun x => !canonAccess x.ea x.size
  let mis := as.filter fun x => decide (x.ea.toNat % x.size ≠ 0)
  if as.isEmpty then s
  else if !nc.isEmpty then addFault s (lreqFault s .addrNoncanon 0 nc)
  else if !mis.isEmpty then addFault s (lreqFault s .perm 3 mis)
  else
    let q := lreqXlat s.cur.ctx s.cur.unit as s
    let s := q.2.2
    if q.1.length + q.2.1.length < as.length then modCur s fun k => { k with stay := true }
    else if !q.2.1.isEmpty then addFault (walkEnd s (dieOf (curCore s))) (xlatFault s q.2.1)
    else
      let acc := q.1.map fun e => (({ lane := e.1.lane, ea := e.1.ea } : LaneAcc), [(e.1.ea, 0, e.1.size, e.2)])
      match farFault s acc with
      | some f => addFault s f
      | none =>
        match lreqNameFault s as with
        | some f => addFault s f
        | none => lreqSend s i a.isG q.1
/-- LREQ. -/
def execLreq (a b : Src) (s : State) : Ans :=
  runWaiting (.lreq a b) s (lreqWait a b) fun s => lreqWord s (.lreq a b) a b

/-! ## LDROP, LSTAT, LWAIT (11 R289 to R292) -/

/-- The cause with which LDROP refuses a name: PEER_LOST for an endpoint in a lost cell, else LN_FOREIGN (11 R278). -/
def dropCause (s : State) (n : Dword) : Cause :=
  if !nmMalformed n && decide (nmEp n ≠ ownEp s) && epLost s (nmEp n) then .peerLost else .lnForeign
/-- A name that LDROP refuses: malformed, or of another core or another context. -/
def dropBad (s : State) (n : Dword) : Bool :=
  let e := getEntry s (nmCore n) (nmEntry n)
  nmMalformed n || decide (nmEp n ≠ ownEp s) || decide (nmCore n ≠ (curCtx s).home) ||
    (decide (e.state = .live) && decide (e.nonce = nmNonce n) && decide (e.ctx ≠ s.cur.ctx))
/-- Drop a name of the issuing context. -/
def dropName (s : State) (n : Dword) : State :=
  let e := getEntry s (nmCore n) (nmEntry n)
  if e.state = .live ∧ e.nonce = nmNonce n then reclaimEntry s (nmCore n) (nmEntry n) 0 else s
/-- LDROP (11 R292). -/
def execLdrop (a : Src) (s : State) : Ans :=
  runWord (.ldrop a) s fun s =>
    let ns : List (Nat × Dword) := if a.isG then [(32, srcGroup s a true)] else (execLanes s).map fun l => (l, srcLane s a true l)
    let bad := ns.filter fun e => dropBad s e.2
    let s := (ns.filter fun e => !dropBad s e.2).foldl (fun s e => dropName s e.2) s
    match bad with
    | [] => s
    | e :: _ => addFault s (laneFault s (dropCause s e.2) 0 (maskFor s (bad.map Prod.fst)) e.2)
/-- The code that a source operand names. -/
def regCode (a : Src) : Nat := a.code.toNat
/-- LSTAT (11 R291). -/
def execLstat (d : Dst) (a : Src) (s : State) : Ans :=
  runWord (.lstat d a) s fun s =>
    let t := curUnit s
    let p := isPend t (regCode a) (execMask s)
    let r := isRcl t (regCode a) (execMask s)
    writeGroup s d false (res32 ((if p then 1 else 0) + (if r then 2 else 0)))
/-- LWAIT (11 R289). -/
def execLwait (a : Src) (s : State) : Ans :=
  runWord (.lwait a) s fun s =>
    if isPend (curUnit s) (regCode a) (execMask s) then holdSlot s (.lwait (regCode a)) else s

/-! ## Events -/

/-- LANDING_STORE at the named core (11 R286). -/
def execLandingStore (m : LandMsg) (s : State) : Ans :=
  let r := landAt s m
  .next (landHeard r.1 m.origin m.name r.2)
/-- An outcome has come back for a lane of an LSTO: a store that waited for it sets out. -/
def nextLand (s : State) (r : AccRef) (name : Dword) : State :=
  match getAcc s r with
  | none => s
  | some a =>
    match a.lands.find? fun m => sameEntry m.name name with
    | none => s
    | some m => sendTimed (modAcc s r fun a => { a with lands := a.lands.erase m }) r m
/-- LANDING_OUTCOME at the storer (11 R287, R288). -/
def execLandingOutcome (r : AccRef) (lane : Nat) (res : Option Cause) (s : State) : Ans :=
  .next (match getAcc s r with
    | none => s
    | some a =>
      match a.pieces.find? fun p => decide (p.lane = lane) && p.isOpen with
      | none => s
      | some p =>
        match res with
        | some c =>
          if a.kind = .lreq then post s 0 (.lreqDeferredFault r lane c p.va)
          else nextLand (failWhen s r c fun q => decide (q.lane = lane)) r p.va
        | none =>
          let g (q : Piece) : Piece := if q.lane = lane then { q with done := true } else q
          nextLand (finishAcc (modAcc s r fun a => { a with pieces := a.pieces.map g }) r) r p.va)
/-- The deferred fault of an LREQ. -/
def deferredFault (a : Access) (lanes : Mask) (c : Cause) (addr : Dword) : PendingFault :=
  { record := { cause := causeWord c (if c = .page then 4 else 0) 0, off := a.off, plane := a.plane, lanes := lanes, mask := a.mask
                addr := addr, word := a.word, skid := 0x1000 }
    cause := c, sup := decide (c = .page) || decide (c = .cellLost), held := decide (c = .page), slot := a.slot, age := a.age }
/-- One more lane of an LREQ has failed: it joins the fault that waits, if one does. The plane is the lowest of its lanes
(08 R220). -/
def joinLate (t : Thread) (f : PendingFault) : Thread :=
  let same (g : PendingFault) : Bool := decide (g.age = f.age) && decide (g.cause = f.cause) && g.record.skid.getLsbD 12
  let put (g : PendingFault) (lanes : Mask) (addr : Dword) : PendingFault :=
    { g with record := { g.record with lanes := lanes, addr := addr, plane := lowPlane t lanes } }
  let join (g : PendingFault) : PendingFault :=
    if same g then put g (g.record.lanes ||| f.record.lanes) (lowestAddr [g.record.addr, f.record.addr]) else g
  if t.late.any same then { t with late := t.late.map join } else { t with late := t.late ++ [put f f.record.lanes f.record.addr] }
/-- LREQ_DEFERRED_FAULT (11 R288). -/
def execLreqDeferredFault (r : AccRef) (lane : Nat) (c : Cause) (addr : Dword) (s : State) : Ans :=
  .next (match getAcc s r with
    | none => s
    | some a =>
      let lanes : Mask := if lane = 32 then a.mask else laneBit lane
      let s := modUnit s r.ctx r.unit fun t => joinLate t (deferredFault a lanes c addr)
      failWhen s r c fun q => decide (q.lane = lane))
/-- LREQ_READ at the home of the address (11 R288): once every line has been read, the responder makes the landing
store. -/
def execLreqRead (m : LreqMsg) (s : State) : Ans :=
  let core := 80 * homeDie (m.pa / 128)
  .next (if !ownLine s (m.pa / 128) then s
    else if refusedOff (m.pa / 128) then landHeard s m.origin m.name (some .page)
    else
      let g := engineGet s core none [] m.pa m.size
      match g.data, g.refused with
      | none, some c => landHeard g.st m.origin m.name (some c)
      | none, none => post g.st 1 (.lreqRead m)
      | some (d, p), _ =>
        if p then landHeard g.st m.origin m.name (some .poison)
        else
          let s := g.st
          let t := (linesOf m.pa m.size).foldl (fun t l => stampMax t (homeVersion s l).2.2) 0
          let msg : LandMsg := { name := m.name, data := d, width := nmWidth m.name, cls := m.cls, clock := some t, origin := m.origin }
          if nmEp m.name = ownEp s then post s 0 (.landingStore msg)
          else
            let tid := s.nextTxn
            let s := { s with nextTxn := tid + 1, landTxns := mset s.landTxns tid (m.name, m.origin) }
            sendMsg s (nmEp m.name) none (.land { msg with origin := .peer (ownEp s) tid, clock := if sameCell s (nmEp m.name) then some t else none }))
/-- The outcome of a landing store or request that went to a peer. -/
def landAnswer (s : State) (tid : Nat) (res : Option Cause) : State :=
  match mget? s.landTxns tid with
  | none => s
  | some (name, o) => landHeard { s with landTxns := mdel s.landTxns tid } o name res
/-- The time of a unit's access is up: each item whose time has passed fails on its own (02 R54). -/
def accTimeout (s : State) (r : AccRef) : State :=
  let late (p : Piece) : Bool := decide (p.deadline ≠ 0) && decide (p.deadline ≤ s.now)
  match getAcc s r with
  | none => s
  | some a =>
    if a.kind = .lreq then
      (a.pieces.filter fun p => p.isOpen && late p).foldl (fun s p =>
        let lanes : Mask := if p.lane = 32 then a.mask else laneBit p.lane
        failWhen (modUnit s r.ctx r.unit fun t => joinLate t (deferredFault a lanes .timeout p.va)) r .timeout
          fun q => decide (q.lane = p.lane)) s
    else failWhen s r .timeout late
/-- The answer that an endpoint owes a home is to an Inv, not to a forward, a BInv or a question of the recovery engine. -/
def invAwaited (s : State) (f : FiltEntry) (ep : Nat) : Bool :=
  decide (ep ∈ f.awaitEps) && !f.evicting && f.recovering.isEmpty && !(f.cellOwner && decide (cellOf s ep = some f.owner)) &&
    !(f.pend && decide (cellOf s ep = some f.prev))
/-- TRANSACTION_TIMEOUT (02 R54). An access fails item by item; a landing store of an engine fails as a whole; a request for a
line ends, and what waits for it asks again or fails with its own time. A home waits on for a holder's answer, and sends an
Inv again (10 R276); a write-back that its home has not accepted is sent again too (notes/assumptions/129.md). -/
def execTransactionTimeout (r : TxRef) (s : State) : Ans :=
  .next (match r with
    | .access r => accTimeout s r
    | .landing tid => landAnswer s tid (some .timeout)
    | .line die line own ask =>
      if mget? s.asks (askKey die line own) = some ask then
        { (askDone s die line own) with refusals := mset s.refusals line (.timeout, s.cohSeq) }
      else s
    | .holder line ep =>
      let f := getFilt s line
      if ep ∉ f.awaitEps then s
      else
        let s := if invAwaited s f ep then sendMsg s ep none (.inv (xmsg s line (ownEp s) none false false)) else s
        post s 1800000 (.transactionTimeout (.holder line ep))
    | .back die line =>
      match mget? s.wb (l2Key die line) with
      | none => s
      | some x => sendBack s die line x)
/-- NAME_DEADLINE (11 R293, reason 1). -/
def execNameDeadline (core entry : Nat) (nonce : Word) (s : State) : Ans :=
  let e := getEntry s core entry
  .next (if e.nonce = nonce ∧ e.deadline ≤ s.now then reclaimEntry s core entry 1 else s)
/-- NAME_RECLAIM_CELL_LOST (11 R293, reason 4). -/
def execNameReclaimCellLost (core entry : Nat) (s : State) : Ans :=
  let e := getEntry s core entry
  .next (if e.expected.any (epLost s) then reclaimEntry s core entry 4 else s)
/-- LN_FULL_TIMEOUT (11 R283): a mint that has waited 1 µs faults, and nothing is minted. In a context that is not active it
has not taken effect and waits for its resumption (R296). -/
def execLnFullTimeout (c u : Nat) (b : Bool) (s : State) : Ans :=
  let t := getUnit s c u
  let x := slotOf t b
  .next (match x.hold with
    | .mint _ =>
      if x.occ && decide (x.since + 1800 ≤ s.now) && decide ((getCore s (getCtx s c).home).active = some c) then
        raiseFault s c u { record := { x.barRec with cause := causeWord .lnFull 0 0, off := x.off }, cause := .lnFull, sup := false
                           held := false, slot := b, age := x.barAge }
      else s
    | _ => s)

end Sys2Proof.Machine
end

