-- ==== Sys2Proof/Machine/Tickets.lean ====
section
/-! DEFINITION. Tickets, the rings of the hardware queues, and the errors that a queue records (06 R149 to R155, R172). -/

namespace Sys2Proof.Machine

/-! ## The ticket (06 R149, R155, R172) -/

/-- CODE. -/
def tkCode (t : List Byte) : Nat := fieldB t 0x00 8
/-- FRAME. -/
def tkFrame (t : List Byte) : Nat := fieldB t 0x08 8
/-- PARENT. -/
def tkParent (t : List Byte) : Nat := fieldB t 0x10 8
/-- SPAN. -/
def tkSpan (t : List Byte) : Nat := fieldB t 0x18 4
/-- Crews of a ferry. -/
def tkCrews (t : List Byte) : Nat := bitsN (fieldB t 0x1C 4) 0 4 + 1
/-- REGS. -/
def tkRegs (t : List Byte) : Nat := bitsN (fieldB t 0x1C 4) 4 3
/-- LSKB. -/
def tkLskb (t : List Byte) : Nat := bitsN (fieldB t 0x1C 4) 8 8
/-- ACC. -/
def tkAcc (t : List Byte) : Nat := bitsN (fieldB t 0x1C 4) 16 4
/-- STRIDE. -/
def tkStrideCode (t : List Byte) : Nat := bitsN (fieldB t 0x1C 4) 20 4
/-- The plane stride in bytes. -/
def tkStride (t : List Byte) : Nat := 4096 * 2 ^ min 8 (tkStrideCode t)
/-- PREF. -/
def tkPref (t : List Byte) : Nat := bitsN (fieldB t 0x20 1) 0 4
/-- FALL. -/
def tkFall (t : List Byte) : Nat := bitsN (fieldB t 0x20 1) 4 4
/-- PRI. -/
def tkPri (t : List Byte) : Nat := bitsN (fieldB t 0x21 1) 0 2
/-- CLASS. -/
def tkClass (t : List Byte) : Nat := bitsN (fieldB t 0x21 1) 2 6
/-- DIEMASK. -/
def tkDieMask (t : List Byte) : Nat := bitsN (fieldB t 0x22 1) 0 4
/-- FUSE. -/
def tkFuse (t : List Byte) : Bool := bitN (fieldB t 0x22 1) 4
/-- NOTIFY. -/
def tkNotify (t : List Byte) : Bool := bitN (fieldB t 0x22 1) 5
/-- PINNED. -/
def tkPinned (t : List Byte) : Bool := bitN (fieldB t 0x22 1) 6
/-- The ASID that the D9 fills in (06 R151). -/
def tkAsid (t : List Byte) : Nat := fieldB t 0x3C 2
/-- The source that the D9 fills in. -/
def tkSource (t : List Byte) : Nat := fieldB t 0x3E 1

/-- Span 0, die mask 0, or a shape field out of range (05 R128 check 6; 06 R172 code 2). -/
def tkShapeBad (t : List Byte) : Bool :=
  decide (tkSpan t = 0) || decide (tkDieMask t = 0) || decide (128 < tkLskb t) || decide (8 < tkAcc t) || decide (8 < tkStrideCode t)
/-- The ticket is invalid (06 R155). -/
def tkInvalid (t : List Byte) : Bool :=
  !canonical (BitVec.ofNat 64 (tkCode t)) || !canonical (BitVec.ofNat 64 (tkFrame t)) || decide (tkCode t % (8 * tkStride t) ≠ 0) ||
    (decide (tkParent t ≠ 0) && (!canonical (BitVec.ofNat 64 (tkParent t)) || decide (tkParent t % 16 ≠ 0))) || tkShapeBad t ||
    decide (tkPref t = 0) || decide (12 < tkPref t) || decide (tkFall t = 0) || decide (tkPref t < tkFall t)
/-- The checks of R172 but for the queue's room: 0 when none fails. -/
def tkCheck (t : List Byte) (cls pri : Nat) : Nat :=
  if tkShapeBad t then 2 else if tkClass t ≠ cls then 3 else if pri < tkPri t then 4 else if tkPinned t then 5 else 0

/-! ## Queues (06 R151 to R154) -/

/-- A register of queue q. -/
def qReg (q off : Nat) : Nat := 0x1000 + 0x40 * q + off
/-- Entries of the ring. -/
def qSize (s : State) (q : Nat) : Nat := 2 ^ max 6 (min 16 (ctlField s (qReg q 8) 16 5))
/-- The ring index of HEAD: modulo the ring's entries, which a write of SIZE may have made fewer (06 R151). -/
def qHead (s : State) (q : Nat) : Nat := ctlField s (qReg q 0xC) 0 16 % qSize s q
/-- The ring index of TAIL. -/
def qTail (s : State) (q : Nat) : Nat := ctlField s (qReg q 0xC) 16 16 % qSize s q
/-- Tickets in the queue. -/
def qLen (s : State) (q : Nat) : Nat := (qTail s q + qSize s q - qHead s q) % qSize s q
/-- The queue holds as many tickets as it can. -/
def qFull (s : State) (q : Nat) : Bool := decide (qSize s q ≤ qLen s q + 1)
/-- EN. -/
def qOn (s : State) (q : Nat) : Bool := decide (ctlField s (qReg q 8) 31 1 = 1)
/-- The physical address of ring entry k. -/
def qEntryPa (s : State) (q k : Nat) : Nat := ctlGet s (qReg q 0) + 64 * k
/-- What the distributor keeps for a queue. -/
def getQueue (s : State) (q : Nat) : QueueSt := mgetD s.queues q {}
/-- Change it. -/
def modQueue (s : State) (q : Nat) (f : QueueSt → QueueSt) : State := { s with queues := mset s.queues q (f (getQueue s q)) }
/-- Record an error of a queue and raise the supervisor's interrupt; errors 1 to 3 stop the queue (06 R154). -/
def qError (s : State) (q code addr : Nat) : State :=
  let s := ctlPut (ctlPut s (qReg q 8) 30 1 1) (qReg q 8) 26 4 code
  let s := ctlSet s (qReg q 0x20) addr
  emit (if code ≤ 3 then ctlPut s (qReg q 8) 31 1 0 else s) (.queueIrq q code)
/-- A ticket has reached the head, or its previous gang has launched: the time of R164 step 5 starts. -/
def headClock (s : State) (q : Nat) : State :=
  post (modQueue s q fun x => { x with since := s.now, fallback := false }) 3600 (.gangFallbackTimer q)
/-- The 64 bytes that a ring holds for a ticket (06 R151). -/
def ringEntry (t : List Byte) (asid src : Nat) : List Byte := t.take 0x3C ++ leBytes 2 asid ++ leBytes 1 src ++ leBytes 1 0
/-- Put a ticket into a queue that has room. -/
def enqueue (s : State) (q : Nat) (t : List Byte) (asid src : Nat) (win : Option (Nat × Nat)) : State :=
  let k := qTail s q
  let empty := decide (qLen s q = 0)
  let n := qSize s q
  let s := hwWrite s (qEntryPa s q k) (ringEntry t asid src)
  let s := ctlPut s (qReg q 0xC) 16 16 ((k + 1) % n)
  let s := modQueue s q fun x => { x with wins := match win with
    | some w => mset x.wins k w
    | none => mdel x.wins k }
  if empty then headClock s q else s
/-- Take the head entry out of a queue. -/
def dequeue (s : State) (q : Nat) : State :=
  let k := qHead s q
  let s := ctlPut s (qReg q 0xC) 0 16 ((k + 1) % qSize s q)
  let s := modQueue s q fun x => { x with head := none, wins := mdel x.wins k }
  if qLen s q = 0 then s else headClock s q
/-- The queue from which a ferry's ticket was launched, and the span (06 R152). -/
def spanOf (s : State) (fe : Ferry) : Option Span := mget? s.spans fe.span
/-- That queue; 0 for a ferry of no span. -/
def queueOf (s : State) (fe : Ferry) : Nat := (spanOf s fe).elim 0 Span.queue

end Sys2Proof.Machine
end

