-- ==== Sys2Proof/Machine/Work.lean ====
section
/-! DEFINITION. The work and system words, opcodes 0xC8 to 0xCA and 0xD0 to 0xD8 (20 R471 to R478; 06 R172, R175;
09 R244; 13 R328, R331; 14 R352). -/

namespace Sys2Proof.Machine

/-! ## A read that a word makes at issue -/

/-- What a word's own read answers: it waits, it faults, or it has the bytes. -/
inductive Fetched where
  | waits
  | fault (f : LaneFault)
  | got (d : List Byte)
  deriving DecidableEq, Repr
/-- A fault of the slot's lanes with an address. -/
def slotFault (s : State) (c : Cause) (detail : Nat) (addr : Dword) : LaneFault := laneFault s c detail (curSlot s).mask addr
/-- DETAIL of a PERM of a range of local store: 3 for its alignment, 2 for one that passes the bank (13 R326). -/
def rangeDetail (off align : Nat) : Nat := if off % align ≠ 0 then 3 else 2
/-- Stores of the unit to a line that have not performed. -/
def storesTo (t : Thread) (line : Nat) : Bool :=
  t.flight.any fun a => (a.kind.stores || a.kind.isAtomic) && a.pieces.any fun p =>
    p.isOpen && decide (p.served = .mem) && decide (p.line = line)
/-- Read n bytes, aligned to n, at a VA of the issuing unit, as an ordinary load that the word waits for (19 R439). The
slot keeps the count at which the line was asked for. -/
def issueRead (s : State) (va : Dword) (n : Nat) : Fetched × State :=
  if !canonAccess va n then (.fault (slotFault s .addrNoncanon 0 va), s)
  else if va.toNat % n ≠ 0 then (.fault (slotFault s .perm 3 va), s)
  else
    match translate s s.cur.ctx s.cur.unit none va { r := true } with
    | (.bad k code, s) =>
      (.fault { slotFault s k 0 va with xcode := code, sup := true, held := true }, walkEnd s (dieOf (curCore s)))
    | (.waits _, s) => (.waits, s)
    | (.ok x, s) =>
      let pa := xlatPa x va
      match farBad s x va with
      | some c => (.fault { slotFault s c 0 va with sup := decide (c = .cellLost) }, s)
      | none =>
        if pageRefused s (pa / 128) then (.fault { slotFault s .page 4 va with sup := true, held := true }, s)
        else if storesTo (curUnit s) (pa / 128) then (.waits, s)
        else
          let sl := curSlot s
          let asks := if sl.waited && decide (sl.since ≠ 0) then [(pa / 128, sl.since - 1)] else []
          let g := engineGet s (curCore s) (some s.cur.ctx) asks pa n
          let since := ((askOf g.asks (pa / 128)).map (· + 1)).getD 0
          let s := modCurUnit g.st fun t => putSlot t s.cur.slot { slotOf t s.cur.slot with since := since }
          match g.data, g.refused with
          | none, some c => (.fault { slotFault s c (if c = .page then 4 else 0) va with sup := decide (c = .page), held := decide (c = .page) }, s)
          | none, none => (.waits, s)
          | some (d, p), _ => if p then (.fault (slotFault s .poison 0 (va - BitVec.ofNat 64 (va.toNat % 128))), s) else (.got d, s)
/-- The wait for such a read. -/
def readWait (va : State → Dword) (n : Nat) (s : State) : Option Hold × State :=
  let r := issueRead s (va s) n
  match r.1 with
  | .waits => (some (.drain []), r.2)
  | .fault _ => (none, s)
  | .got _ => (none, r.2)

/-! ## FORK, RDV, SPAWN -/

/-- A cox or carter as FORK starts it (20 R471; 06 R175; 15 R372). -/
def forkedUnit (u f : Nat) (t : Thread) (off : Word) : Thread :=
  { live := true, ferry := f, num := 0, s0 := { occ := true, off := off &&& 0xFFFFFFFC }, g := t.g, sg := launchSg u 0 }
/-- Start the cox of the issuing ferry, unless it has been started. -/
def startCox (s : State) (a : Src) : State :=
  let f := (curUnit s).ferry
  if a = .zero ∨ (curFerry s).coxStarted then s
  else
    let off := gOf s a
    let t := curUnit s
    modFerry (putUnit s s.cur.ctx (0x40 + f) (forkedUnit (0x40 + f) f t off)) s.cur.ctx f fun x => { x with coxStarted := true }
/-- Start the carter of the issuing ferry, unless it has been started. -/
def startCarter (s : State) (b : Src) : State :=
  let f := (curUnit s).ferry
  if b = .zero ∨ (curFerry s).carStarted then s
  else
    let off := gOf s b
    let t := curUnit s
    modFerry (putUnit s s.cur.ctx (0x44 + f) (forkedUnit (0x44 + f) f t off)) s.cur.ctx f fun x => { x with carStarted := true }
/-- FORK (20 R471). -/
def execFork (a b : Src) (s : State) : Ans := runWord (.fork a b) s fun s => startCarter (startCox s a) b
/-- RDV (20 R472). -/
def execRdv (n : BitVec 4) (s : State) : Ans := runWord (.rdv n) s fun s => arriveBar s n.toNat none .rdv false
/-- SPAWN's wait: FENCE 0x1F, then the ticket (20 R473). -/
def spawnWait (a : Src) (s : State) : Option Hold × State :=
  let w := fenceWait 0x1F s
  match w.1 with
  | some h => (some h, modCurUnit w.2 fun t => putSlot t s.cur.slot { slotOf t s.cur.slot with since := 0 })
  | none => readWait (fun s => ggOf s a) 64 w.2
/-- SPAWN's checks and its enqueue: the status code and the state (06 R172). -/
def spawnTicket (s : State) (t : List Byte) : Nat × State :=
  let fe := curFerry s
  let q := queueOf s fe
  let code := tkCheck t (curCtx s).cls fe.pri
  if code ≠ 0 then (code, s)
  else if qFull s q then (1, s)
  else (0, enqueue s q t (curCtx s).asid 2 none)
/-- SPAWN (20 R473). -/
def execSpawn (d : Dst) (a : Src) (s : State) : Ans :=
  runWaiting (.spawn d a) s (spawnWait a) fun s =>
    let r := issueRead s (ggOf s a) 64
    match r.1 with
    | .waits => s
    | .fault f => addFault r.2 f
    | .got t =>
      let q := spawnTicket r.2 t
      putD q.2 d (BitVec.ofNat 32 q.1)

/-! ## Special registers (14 R352; 13 R328; 20 R474) -/

/-- $trap.skid with PEND and INH. -/
def trapSkid (t : Thread) : Word :=
  t.trap.skid ||| (if t.pendTrap.isSome then 0x400 else 0) ||| (if t.inh then 0x800 else 0)
/-- A special register as the issuing unit reads it. -/
def readSpecial (s : State) (n : Nat) : Dword :=
  let t := curUnit s
  let x := curCtx s
  if n = 0x00 then BitVec.ofNat 64 (curFerry s).index
  else if n = 0x01 then BitVec.ofNat 64 (curCore s)
  else if n = 0x02 then BitVec.ofNat 64 (ctlField s 0x0200 31 1 * 2 ^ 31 + ctlField s 0x0200 0 6)
  else if n = 0x03 then (clk s (curCore s)).setWidth 64
  else if n = 0x08 then x.tvec
  else if n = 0x10 then zext64 t.trap.cause
  else if n = 0x11 then zext64 t.trap.off
  else if n = 0x12 then BitVec.ofNat 64 t.trap.plane
  else if n = 0x13 then zext64 t.trap.lanes
  else if n = 0x14 then zext64 t.trap.mask
  else if n = 0x15 then t.trap.addr
  else if n = 0x16 then zext64 t.trap.word
  else if n = 0x17 then zext64 (trapSkid t)
  else if n = 0x20 then zext64 x.abft.syn
  else if n = 0x21 then zext64 x.abft.unit
  else if n = 0x22 then zext64 x.abft.row
  else if n = 0x23 then zext64 x.abft.col
  else if n = 0x24 then zext64 x.abftFixed
  else if n = 0x28 then zext64 x.hintdrop
  else 0
/-- Write a special register; one that is read-only is left as it is. -/
def writeSpecial (s : State) (n : Nat) (v : Dword) : State :=
  let w : Word := v.setWidth 32
  if n = 0x08 then modCtx s s.cur.ctx fun x => { x with tvec := v }
  else if n = 0x11 then modCurUnit s fun t => { t with trap := { t.trap with off := w &&& 0xFFFFFFFC } }
  else if n = 0x24 then modCtx s s.cur.ctx fun x => { x with abftFixed := w }
  else if n = 0x28 then modCtx s s.cur.ctx fun x => { x with hintdrop := w }
  else s
/-- SRD (20 R474). -/
def execSrd (d : Dst) (a : BitVec 8) (s : State) : Ans :=
  runWord (.srd d a) s fun s =>
    writeGroup s d (isWide (curTy s) || wideReg a.toNat) (resOf (readSpecial s a.toNat))
/-- SWR (20 R474). -/
def execSwr (a : Src) (b : BitVec 8) (s : State) : Ans :=
  runWord (.swr a b) s fun s => writeSpecial s b.toNat (srcGroup s a (wideReg b.toNat))

/-! ## Traps and breakpoints (20 R475, R476; 13 R331) -/

/-- TRAP (20 R475): a user trap that resumes after the word. -/
def execTrap (i : BitVec 5) (s : State) : Ans :=
  runWord (.trap i) s fun s => addFault s { slotFault s .trap i.toNat 0 with after := true }
/-- TRET (13 R331). -/
def execTret (s : State) : Ans :=
  runWord .tret s fun s => stay (returnFromTrap s s.cur.ctx s.cur.unit s.cur.slot)
/-- BKPT (20 R476): held for the supervisor; it passes once after RETRY. -/
def execBkpt (i : BitVec 8) (s : State) : Ans :=
  runWord (.bkpt i) s fun s =>
    if (curUnit s).bkptPass = some s.cur.off then s
    else addFault s { slotFault s .bkpt 0 0 with sup := true, held := true }

/-! ## Time (20 R477) -/

/-- RDTIM. -/
def execRdtim (d : Dst) (s : State) : Ans :=
  runWord (.rdtim d) s fun s => writeGroup s d true (resOf (BitVec.ofNat 64 (fabTime s)))
/-- RDLC's wait: every access that the unit issued before it. -/
def clockWait (s : State) : Option Hold × State :=
  let ids := if (curSlot s).waited then [] else openIds (curUnit s) [0, 1, 2, 3, 4]
  (if ids.isEmpty then none else some (.drain ids), s)
/-- RDLC. -/
def execRdlc (d : Dst) (s : State) : Ans :=
  runWaiting (.rdlc d) s clockWait fun s => writeGroup s d true (resOf ((clk s (curCore s)).setWidth 64))

/-! ## LPINV and SCRUB (09 R244; 20 R478) -/

/-- LPINV. -/
def execLpinv (s : State) : Ans := runWord .lpinv s fun s => modCurUnit s fun t => { t with lp := [] }
/-- The poisoned words of a range of the bank. -/
def poisonedWords (x : Ctx) (off n : Nat) : Nat :=
  (x.lsPoison.filter fun e => e.2 && decide (off / 4 ≤ e.1) && decide (e.1 < (off + n) / 4)).length
/-- A bank with a range of zeros. -/
def scrubbed (x : Ctx) (off n : Nat) : Ctx :=
  { x with
    ls := x.ls.filter fun e => decide (e.1 < off) || decide (off + n ≤ e.1)
    lsPoison := x.lsPoison.filter fun e => decide (e.1 < off / 4) || decide ((off + n) / 4 ≤ e.1)
    lsErr := x.lsErr.filter fun e => decide (e.1 < off / 4) || decide ((off + n) / 4 ≤ e.1) }
/-- SCRUB. -/
def execScrub (d : Dst) (a : Src) (s : State) : Ans :=
  runWord (.scrub d a) s fun s =>
    let g := ggOf s a
    let off := bitsN g.toNat 0 32
    let n := bitsN g.toNat 32 32
    if off % 128 ≠ 0 ∨ n % 128 ≠ 0 ∨ 0x20000 < off + n then addFault s (slotFault s .perm 2 (BitVec.ofNat 64 off))
    else
      let k := poisonedWords (curCtx s) off n
      putD (modCtx s s.cur.ctx fun x => scrubbed x off n) d (BitVec.ofNat 32 k)

end Sys2Proof.Machine
end

