-- ==== Sys2Proof/Machine/Carter.lean ====
section
/-! DEFINITION. The carter's words, opcodes 0xA8 to 0xB0, and the movement processor: copies, their segments and
suspension, shadow windows, halo declarations and replica hints (20 R459 to R469, R480; 09 R256 to R259; 04 R113 to R118). -/

namespace Sys2Proof.Machine

/-! ## Names and status words (20 R463; 11 R294, R295) -/

/-- The name of a carter word fails at issue: its form, its endpoint or its width; 0 is no name where a copy takes it. -/
def engineNameFault (s : State) (n : Dword) (zero : Bool) (ws : List Nat) : Option LaneFault :=
  if zero && decide (n = 0) then none
  else
    match nameCheck s n with
    | some c => some (slotFault s c 0 n)
    | none => if nmWidth n ∈ ws then none else some (slotFault s .lnWidth 0 n)
/-- DETAIL of a copy's status (20 R463). -/
def copyDetail (cause : Nat) (slot : Option Nat) : Nat :=
  cause % 256 * 2 ^ 16 + (match slot with
    | some k => k % 4 * 2 ^ 14 + 2 ^ 13
    | none => 0)
/-- The causes by number; R463's codes 7 to 10 have no cause in R321 (notes/assumptions/17.md). -/
def causeOfFree (x : Nat) : Cause :=
  [.illegal, .addrNoncanon, .page, .perm, .poison, .cellLost, .peerLost, .timeout, .firewall, .haloWrite, .planeAlign,
   .stackOverflow, .lnSecondUse, .lnStale, .lnForeign, .lnWidth, .lnFull, .abft, .nv, .dz, .ovf, .unf, .nx, .trap, .bkpt].getD
    (x % 25) .illegal
/-- The cause with which an unnamed copy that failed halts its context. -/
def copyCause (s : State) (code : Nat) : Cause × State :=
  if code = 1 then (.addrNoncanon, s) else if code = 2 then (.page, s) else if code = 3 then (.perm, s)
  else if code = 4 then (.poison, s) else if code = 5 then (.firewall, s) else if code = 6 then (.timeout, s)
  else if code = 11 then (.peerLost, s)
  else
    let r := takeFree s
    (causeOfFree r.1.toNat, r.2)
/-- Deliver a copy's status; a copy with no name that failed halts its context, with the translation code of its failure. -/
def copyStatus (s : State) (c u : Nat) (name : Dword) (word : Word) (fail : Option Nat) (slot : Option Nat) (count : Nat) (addr : Dword)
    (xcode : Nat := 0) : State :=
  if name = 0 then
    match fail with
    | none => s
    | some k =>
      let r := copyCause s k
      engineHalt r.2 c u (engineRecord r.2 c u r.1 0 xcode word addr)
  else deliverStatus s c u name word (statusEngine fail.isNone (copyDetail (fail.getD 0) slot)) (BitVec.ofNat 32 count)

/-! ## Descriptors (20 R459 to R461) -/

/-- FLAGS. -/
def Copy.dls (k : Copy) : Bool := k.flags.getLsbD 0
/-- SLS. -/
def Copy.sls (k : Copy) : Bool := k.flags.getLsbD 1
/-- SHOST. -/
def Copy.shost (k : Copy) : Bool := k.flags.getLsbD 2
/-- DHOST. -/
def Copy.dhost (k : Copy) : Bool := k.flags.getLsbD 3
/-- HPORT. -/
def Copy.hport (k : Copy) : Nat := if k.flags.getLsbD 4 then 1 else 0
/-- Elements of some dimensions. -/
def dimsCount (ds : List Dim) : Nat := ds.foldl (fun n d => n * d.count) 1
/-- The displacement of element n. -/
def dimsOff (f : Dim → Int) : List Dim → Nat → Int
  | [], _ => 0
  | d :: t, n => (n % d.count : Nat) * f d + dimsOff f t (n / d.count)
/-- The lowest and the highest displacement of an element. -/
def dimsSpan (f : Dim → Int) (ds : List Dim) : Int × Int :=
  ds.foldl (fun m d =>
    let e := ((d.count : Int) - 1) * f d
    (m.1 + min 0 e, m.2 + max 0 e)) (0, 0)
/-- The source address of element n. -/
def Copy.srcAt (k : Copy) (n : Nat) : Nat := wrapN (k.src.toNat + dimsOff Dim.sstr k.dims n) 80
/-- Its destination address. -/
def Copy.dstAt (k : Copy) (n : Nat) : Nat := wrapN (k.dst.toNat + dimsOff Dim.dstr k.dims n) 80
/-- A local-store side passes the bank. -/
def sideOut (base : Dword) (f : Dim → Int) (ds : List Dim) (esz : Nat) : Bool :=
  let m := dimsSpan f ds
  decide (dimsCount ds ≠ 0) && (decide ((base.toNat : Int) + m.1 < 0) || decide (0x20000 < (base.toNat : Int) + m.2 + esz))
/-- The context's ASID is bound to an enabled command window of a port that runs CXL (05 R123, R127). -/
def hostBound (s : State) (asid port : Nat) : Bool :=
  (mgetD s.ports port {}).up && (mgetD s.ports port {}).cxl &&
    (List.range 64).any fun w =>
      let b := ctlGet s (0x0C00 + 8 * (64 * port + w))
      bitN b 0 && decide (bitsN b 48 16 = asid)
/-- A copy is invalid for a reason that its descriptor's fields alone do not show (20 R461). -/
def copyBad (s : State) (asid : Nat) (k : Copy) : Bool :=
  (k.dls && k.dhost) || (k.sls && k.shost) || decide (0xFFFFFFFF < dimsCount k.dims) ||
    (k.dls && sideOut k.dst Dim.dstr k.dims k.esz) || (k.sls && sideOut k.src Dim.sstr k.dims k.esz) ||
    ((k.shost || k.dhost) && !hostBound s asid k.hport)
/-- A signed 32-bit field. -/
def fieldI (b : List Byte) (off : Nat) : Int := sextN (fieldB b off 4) 32
/-- The copy of a CPY descriptor, and whether a reserved field of it is non-zero. -/
def cpyOf (b : List Byte) : Copy × Bool :=
  ({ id := 0, word := 0, off := 0, name := 0, src := BitVec.ofNat 64 (fieldB b 0 8), dst := BitVec.ofNat 64 (fieldB b 8 8), esz := 1
     dims := [⟨fieldB b 0x10 4, 1, 1⟩], flags := BitVec.ofNat 8 (fieldB b 0x14 1), waits := [], segs := [] },
   decide (32 ≤ fieldB b 0x14 1) || !allZeroB (sliceB b 0x15 11))
/-- The dimensions of a CPYT descriptor. -/
def cpytDims (b : List Byte) (n : Nat) : List Dim :=
  (List.range n).map fun d => ⟨fieldB b (0x20 + 16 * d) 4, fieldI b (0x24 + 16 * d), fieldI b (0x28 + 16 * d)⟩
/-- The copy of a CPYT descriptor, and whether one of its fields makes it invalid. -/
def cpytOf (b : List Byte) : Copy × Bool :=
  let ec := fieldB b 0x10 1
  let nd := fieldB b 0x11 1
  let esz := 2 ^ min 3 ec
  let n := if nd ≤ 16 then nd else 0
  let ds := cpytDims b n
  let src := fieldB b 0 8
  let dst := fieldB b 8 8
  ({ id := 0, word := 0, off := 0, name := 0, src := BitVec.ofNat 64 src, dst := BitVec.ofNat 64 dst, esz := esz, dims := ds
     flags := BitVec.ofNat 8 (fieldB b 0x12 1), waits := [], segs := [] },
   decide (3 < ec) || decide (nd = 0) || decide (16 < nd) || decide (32 ≤ fieldB b 0x12 1) || !allZeroB (sliceB b 0x13 13) ||
     ds.any (fun d => decide (d.count = 0) || decide (d.sstr % (esz : Int) ≠ 0) || decide (d.dstr % (esz : Int) ≠ 0)) ||
     (List.range n).any (fun d => !allZeroB (sliceB b (0x2C + 16 * d) 4)) || decide (src % esz ≠ 0) || decide (dst % esz ≠ 0))

/-! ## Segments (20 R462) -/

/-- Elements from n on whose addresses on one side run on without a gap, at most room: whole stretches of dimension 0, as
long as the next one follows; a is the address of element n. -/
def runLen (addr : Nat → Nat) (stride : Int) (count0 esz total : Nat) : Nat → Nat → Nat → Nat → Nat
  | 0, _, _, _ => 0
  | fuel + 1, n, a, room =>
    let k := if stride = (esz : Int) then min (count0 - n % count0) room else min 1 room
    if k < room ∧ n + k < total ∧ addr (n + k) = a + k * esz then
      k + runLen addr stride count0 esz total fuel (n + k) (a + k * esz) (room - k)
    else k
/-- The extent of dimension 0 and its strides. -/
def Copy.dim0 (k : Copy) : Dim := k.dims.headD ⟨1, 1, 1⟩
/-- Length of the segment that begins at element n. -/
def Copy.segLen (k : Copy) (n : Nat) : Nat :=
  let a := k.dstAt n
  max 1 (runLen k.dstAt k.dim0.dstr k.dim0.count k.esz (dimsCount k.dims) 4097 n a ((4096 - a % 4096) / k.esz))
/-- The segments from element n on. -/
def Copy.cut (k : Copy) : Nat → Nat → List Seg
  | 0, _ => []
  | fuel + 1, n =>
    if dimsCount k.dims ≤ n then []
    else
      let l := k.segLen n
      { first := n, len := l, dst0 := k.dstAt n } :: Copy.cut k fuel (n + l)
/-- Elements whose writes have performed. -/
def Copy.performed (k : Copy) : Nat := k.segs.foldl (fun n g => n + g.wrote) 0
/-- The runs of source addresses of some elements: first address and bytes. -/
def Copy.srcRuns (k : Copy) : Nat → Nat → Nat → List (Nat × Nat)
  | 0, _, _ => []
  | fuel + 1, n, left =>
    if left = 0 then []
    else
      let a := k.srcAt n
      let l := max 1 (runLen k.srcAt k.dim0.sstr k.dim0.count k.esz (n + left) 4097 n a left)
      (a, l * k.esz) :: Copy.srcRuns k fuel (n + l) (left - l)
/-- Cut runs into parts that lie in one line each, with their positions in the segment. -/
def cutRuns : Nat → List (Nat × Nat) → List (Nat × Nat × Nat)
  | _, [] => []
  | pos, (a, n) :: t =>
    let cuts := (List.range (n / 128 + 2)).filterMap fun i =>
      let lo := max a (128 * (a / 128 + i))
      let hi := min (a + n) (128 * (a / 128 + i + 1))
      if lo < hi then some (pos + (lo - a), lo, hi - lo) else none
    cuts ++ cutRuns (pos + n) t
/-- The windows in which destinations of a copy lie. -/
def copyWins (s : State) (x : Ctx) (k : Copy) : List Nat :=
  if k.dls || k.dhost then []
  else
    nub (k.segs.filterMap fun g =>
      match walk s (dieOf (ctxCore x)) x.asid x.cls (BitVec.ofNat 64 g.dst0) {} with
      | .ok t => if t.kind = 3 then some t.wid else none
      | .bad _ _ => none
      | .waits _ => none)
/-- The first line of the tables that the walks for a copy's destinations wait for (09 R240). -/
def copyGap (s : State) (x : Ctx) (k : Copy) (bad : Bool) : Option Nat :=
  if bad || copyBad s x.asid k || k.dls || k.dhost then none
  else
    (k.cut (dimsCount k.dims + 1) 0).findSome? fun g =>
      match walk s (dieOf (ctxCore x)) x.asid x.cls (BitVec.ofNat 64 g.dst0) {} with
      | .waits line => some line
      | .ok _ => none
      | .bad _ _ => none

/-! ## Translating a segment at issue (09 R257, R258; 20 R462, R464) -/

/-- How a part of a segment fails at issue: its cause of R463, its address, and the fault record of a translation. -/
structure PartBad where
  code : Nat
  va : Dword
  xlat : Option (Cause × Nat) := none
  lost : Bool := false
  /-- It does not fail: its walk waits for a line of the tables (09 R240). -/
  walks : Bool := false
  deriving DecidableEq, Repr
/-- A window takes writes of a copy (09 R258; 20 R466, R467). -/
def winTakes (s : State) (c u : Nat) (k : Copy) (wid : Nat) : Bool :=
  k.discarded ||
    (winFlag (winEntry s wid) 2 && (decide (wid ∉ s.winFaulted) || k.resumed) &&
      (s.publs.filter fun p => decide (p.wid = wid)).all fun p => decide ((c, u, k.id) ∈ p.waits))
/-- One part in memory. -/
def memPart (s : State) (c u : Nat) (k : Copy) (dst : Bool) (pos va len : Nat) : (Part ⊕ PartBad) × State :=
  let x := getCtx s c
  let core := ctxCore x
  let a := BitVec.ofNat 64 va
  if 2 ^ 64 < va + len ∨ !canonAccess a len then (.inr { code := 1, va := a }, s)
  else
    match tlbGet s core x.asid x.cls a { r := !dst, w := dst } with
    | (.bad cause code, s) =>
      (.inr { code := if cause = .perm then 3 else 2, va := a, xlat := some (cause, code) }, walkEnd s (dieOf core))
    | (.waits _, s) => (.inr { code := 0, va := a, walks := true }, s)
    | (.ok t, s) =>
      let win := dst && decide (t.kind = 3)
      let e := winEntry s t.wid
      let pa := if win then xlatPa t a - winBase e (winFlag e 1) + winBase e (!winFlag e 1) else xlatPa t a
      if win && !winTakes s c u k t.wid then (.inr { code := 8, va := a }, s)
      else
        let ep := bitsN pa 45 7
        if ep ≠ ownEp s ∧ !sessLive s ep then (.inr { code := 11, va := a, lost := epLost s ep }, s)
        else if pageRefused s (pa / 128) then (.inr { code := 2, va := a }, s)
        else
          let part : Part := { spot := .mem pa, pos := pos, len := len, va := a, wid := if win then some t.wid else none }
          (.inl part, countAccess s core t)
/-- The parts of one side of a segment. -/
def sideParts (c u : Nat) (k : Copy) (dst : Bool) : List (Nat × Nat × Nat) → State → (List Part × Option PartBad) × State
  | [], s => (([], none), s)
  | (pos, a, n) :: t, s =>
    let here : (Part ⊕ PartBad) × State :=
      if (if dst then k.dls else k.sls) then (.inl { spot := .bank a, pos := pos, len := n, va := BitVec.ofNat 64 a }, s)
      else if (if dst then k.dhost else k.shost) then (.inl { spot := .host a, pos := pos, len := n, va := BitVec.ofNat 64 a }, s)
      else memPart s c u k dst pos a n
    match here with
    | (.inr b, s) => (([], some b), s)
    | (.inl p, s) =>
      let r := sideParts c u k dst t s
      ((p :: r.1.1, r.1.2), r.2)

/-! ## Copies in progress -/

/-- A copy of a carter. -/
def getCopy (s : State) (c u id : Nat) : Option Copy := (getUnit s c u).copies.find? fun k => decide (k.id = id)
/-- Change it. -/
def modCopy (s : State) (c u id : Nat) (f : Copy → Copy) : State :=
  modUnit s c u fun t => { t with copies := t.copies.map fun k => if k.id = id then f k else k }
/-- Change a segment of it. -/
def modSeg (s : State) (c u id n : Nat) (f : Seg → Seg) : State :=
  modCopy s c u id fun k => { k with segs := k.segs.map fun g => if g.first = n then f g else g }
/-- The segment has been issued, and has neither performed nor failed. -/
def Seg.isOpen (g : Seg) : Bool := g.issued && !g.done && g.failed.isNone
/-- Nothing of the copy is left to do. -/
def Copy.over (k : Copy) : Bool := !(k.segs.any Seg.isOpen) && (k.stopped || k.segs.all Seg.issued)
/-- The copy's end is looked at. -/
def copyCheck (s : State) (c u id : Nat) : State :=
  if (getCopy s c u id).any Copy.over then post s 0 (.copyComplete c u id) else s
/-- A PAGE or PERM of translation writes a record while the ring is on; nothing is halted or held (20 R464). -/
def copyRecord (s : State) (c u : Nat) (k : Copy) (b : PartBad) : State :=
  let die := dieOf (ctxCore (getCtx s c))
  match b.xlat with
  | none => s
  | some (cause, code) =>
    let f : PendingFault :=
      { record := { cause := causeWord cause 0 code, off := k.off, addr := b.va, word := k.word }
        cause := cause, sup := true, held := false, slot := false, age := 0 }
    if fltOn s die then ringWrite s die (recordBytes s c u f false) else s
/-- A segment fails: the copy issues no further one. One that touches a lost cell halts the context (03 R77); R463 gives
that failure no code (notes/assumptions/17.md). -/
def failSeg (s : State) (c u id n : Nat) (b : PartBad) : State :=
  match getCopy s c u id with
  | none => s
  | some k =>
    let r := if b.lost then takeFree s else (0, s)
    let code := if b.lost then r.1.toNat % 256 else b.code
    let s := copyRecord r.2 c u k b
    let s := if b.lost then engineFault s c u .cellLost k.word b.va else s
    let s := modSeg s c u id n fun g => { g with failed := some (code, b.va), xcode := (b.xlat.map Prod.snd).getD 0, issued := true }
    copyCheck (modCopy s c u id fun k => { k with stopped := true, lost := k.lost || b.lost }) c u id
/-- The context's copies may issue segments: it is active, or has no ferry left, and it is not halted (06 R170; 13 R323). -/
def copiesGo (s : State) (c : Nat) : Bool :=
  let x := getCtx s c
  !s.stopped && !x.halted && (x.ferries.isEmpty || (match x.place with
    | .bank k _ => decide ((getCore s k).active = some c)
    | _ => false))
/-- Issue one segment: both sides are translated, and it is on its way or has failed; it stays where a walk waits. -/
def issueSeg (s : State) (c u : Nat) (k : Copy) (g : Seg) : State :=
  let ss := sideParts c u k false (cutRuns 0 (k.srcRuns (g.len + 1) g.first g.len)) s
  let ds := sideParts c u k true (cutRuns 0 [(g.dst0, g.len * k.esz)]) ss.2
  let bad := match ss.1.2 with
    | some b => some b
    | none => ds.1.2
  if bad.any PartBad.walks then ds.2
  else
  let s := modSeg ds.2 c u k.id g.first fun g => { g with issued := true, src := ss.1.1, dst := ds.1.1 }
  match bad with
  | some b => failSeg s c u k.id g.first b
  | none => post s 1 (.copySegmentDone c u k.id g.first)
/-- COPY_SEGMENT_ISSUE (20 R462): the copy starts when the carter's earlier accesses have completed, and issues its next
segment unless 64 are open. -/
def execCopySegmentIssue (c u id : Nat) (s : State) : Ans :=
  .next (match getCopy s c u id with
  | none => s
  | some k =>
    if k.stopped then s
    else
      match k.segs.find? fun g => !g.issued with
      | none => s
      | some g =>
        if !idsDone (getUnit s c u) k.waits || !copiesGo s c || decide (64 ≤ (k.segs.filter Seg.isOpen).length) then
          post s 1 (.copySegmentIssue c u id)
        else post (issueSeg s c u k g) 1 (.copySegmentIssue c u id))

/-! ## A segment performs (20 R462; 10 R266, R267) -/

/-- What reading one part answers. -/
inductive PartGot where
  | got (d : List Byte)
  | waits
  | bad (b : PartBad)
  deriving DecidableEq, Repr
/-- The code of a request that its home refused or that was not answered in time: PAGE, TIMEOUT, FIREWALL. -/
def memCode (c : Cause) : Nat := if c = .page then 2 else if c = .timeout then 6 else 5
/-- n free bytes, eight from each free value. -/
def freeBytes (s : State) (n : Nat) : List Byte × State :=
  ((List.range n).map fun i => (Config.freeDword (s.free + i / 8)).extractLsb' (8 * (i % 8)) 8, { s with free := s.free + (n + 7) / 8 })
/-- Read one part: a line at its home, the bank, or the host, which answers with data that this machine does not hold or
refuses (notes/assumptions/18.md). -/
def readPart (s : State) (c : Nat) (k : Copy) (asks : List (Nat × Nat)) (p : Part) : PartGot × List (Nat × Nat) × State :=
  let x := getCtx s c
  match p.spot with
  | .bank o =>
    let s := readLs s c o p.len
    let x := getCtx s c
    (if bankPois x o p.len then .bad { code := 4, va := p.va } else .got (lsRead x o p.len), asks, s)
  | .mem pa =>
    let g := engineGet s (ctxCore x) (some c) asks pa p.len
    match g.data with
    | none => (g.refused.elim .waits fun r => .bad { code := memCode r, va := p.va }, g.asks, g.st)
    | some (d, pois) => (if pois then .bad { code := 4, va := p.va } else .got d, g.asks, g.st)
  | .host hpa =>
    let r := takeFree (emit s (.hostCopyRead k.hport hpa p.len))
    if r.1.getLsbD 0 then (.bad { code := 10, va := p.va }, asks, r.2)
    else
      let b := freeBytes r.2 p.len
      (.got b.1, asks, b.2)
/-- Read the parts of a segment in turn: the bytes, or the first failure, or that something waits. -/
def readParts (c : Nat) (k : Copy) : List Part → State → List (Nat × Nat) → PartGot × List (Nat × Nat) × State
  | [], s, asks => (.got [], asks, s)
  | p :: t, s, asks =>
    match readPart s c k asks p with
    | (.bad b, asks, s) => (.bad b, asks, s)
    | (.waits, asks, s) =>
      let r := readParts c k t s asks
      (match r.1 with
        | .bad b => .bad b
        | _ => .waits, r.2.1, r.2.2)
    | (.got d, asks, s) =>
      let r := readParts c k t s asks
      (match r.1 with
        | .got d' => .got (d ++ d')
        | x => x, r.2.1, r.2.2)
/-- A destination byte that a later element of the copy has already written (20 R462 step 7). -/
def laterWrote (k : Copy) (first va : Nat) : Bool :=
  k.segs.any fun g => decide (first < g.first) && decide (g.dst0 ≤ va) && decide (va < g.dst0 + g.wrote * k.esz)
/-- The runs of bytes of a part that no later element has written: position in the part and bytes. -/
def freshRuns (k : Copy) (first : Nat) (p : Part) (d : List Byte) : List (Nat × List Byte) :=
  let keep (i : Nat) : Bool := !laterWrote k first (p.va.toNat + i)
  if (List.range p.len).all keep then [(0, d)]
  else ((List.range p.len).filter keep).map fun i => (i, [d.getD i 0])
/-- Write runs of one line. -/
def putRuns (core c : Nat) (w : RepWrite) (pa : Nat) : List (Nat × List Byte) → State → PutRes × State
  | [], s => (.done, s)
  | (i, d) :: t, s =>
    match enginePut s core (some c) w (pa + i) d with
    | (.done, s) => putRuns core c w pa t s
    | r => r
/-- The write time of a shadow's line is kept for its publish (09 R259). -/
def noteShadow (s : State) (core pa : Nat) (wid : Option Nat) : State :=
  match wid with
  | none => s
  | some w =>
    match getL2 s (putDie s core (pa / 128)) (pa / 128) with
    | none => s
    | some x => { s with winTime := mset s.winTime w (stampMax (mgetD s.winTime w 0) x.wts) }
/-- Write one part. -/
def writePart (s : State) (c u : Nat) (k : Copy) (first : Nat) (p : Part) (d : List Byte) : PutRes × State :=
  let x := getCtx s c
  let runs := freshRuns k first p d
  match p.spot with
  | .bank o => (.done, modCtx s c fun x => runs.foldl (fun x r => lsWrite x (o + r.1) r.2) x)
  | .mem pa =>
    let r := putRuns (ctxCore x) c (.copy c u k.id) pa runs s
    (r.1, if r.1 = .done then noteShadow r.2 (ctxCore x) pa p.wid else r.2)
  | .host hpa =>
    let r := takeFree s
    if r.1.getLsbD 0 then (.refused .illegal, r.2) else (.done, emit r.2 (.hostCopyWrite k.hport hpa d))
/-- The code of a write that was refused: FIREWALL, PAGE, or the host's. -/
def putCode (p : Part) (cause : Cause) : Nat :=
  match p.spot with
  | .host _ => 10
  | _ => memCode cause
/-- Write the parts of a segment in turn: what is left, and the failure. -/
def writeParts (c u : Nat) (k : Copy) (g : Seg) (d : List Byte) : List Part → State → List Part × Option PartBad × State
  | [], s => ([], none, s)
  | p :: t, s =>
    match writePart s c u k g.first p (sliceB d p.pos p.len) with
    | (.waits, s) => (p :: t, none, s)
    | (.refused cause, s) => (p :: t, some { code := putCode p cause, va := p.va }, s)
    | (.done, s) =>
      let n := (p.pos + p.len) / k.esz
      writeParts c u k g d t (modSeg s c u k.id g.first fun g => { g with wrote := max g.wrote n })
/-- Another endpoint has not answered in time (02 R54). -/
def segLate (s : State) (g : Seg) (ps : List Part) : Option PartBad :=
  if g.deadline = 0 ∨ s.now < g.deadline then none
  else
    (ps.find? fun p => match p.spot with
      | .mem pa => decide (bitsN pa 45 7 ≠ ownEp s)
      | _ => false).map fun p => { code := 6, va := p.va }
/-- The segment waits: the time of what it has asked other endpoints for runs from its first wait on (02 R54). -/
def segTimed (s : State) (c : Nat) (ps : List Part) (g : Seg) : Seg :=
  let far := ps.any fun p => match p.spot with
    | .mem pa => decide (bitsN pa 45 7 ≠ ownEp s)
    | _ => false
  if far ∧ g.deadline = 0 then { g with deadline := s.now + timeoutOf (getCtx s c) } else g
/-- COPY_SEGMENT_DONE (20 R462): the segment reads its source, then writes its destination; it performs, fails or goes on. -/
def execCopySegmentDone (c u id n : Nat) (s : State) : Ans :=
  .next (match getCopy s c u id with
  | none => s
  | some k =>
    match k.segs.find? fun g => decide (g.first = n) && g.isOpen with
    | none => s
    | some g =>
      let again (s : State) (ps : List Part) : State :=
        match segLate s g ps with
        | some b => failSeg s c u id n b
        | none => post (modSeg s c u id n (segTimed s c ps)) 1 (.copySegmentDone c u id n)
      if s.stopped then s
      else
      match g.data with
      | none =>
        match readParts c k g.src s g.asks with
        | (.bad b, _, s) => failSeg s c u id n b
        | (.waits, asks, s) => again (modSeg s c u id n fun g => { g with asks := asks }) g.src
        | (.got d, _, s) => post (modSeg s c u id n fun g => { g with data := some d, asks := [], deadline := 0 }) 0 (.copySegmentDone c u id n)
      | some d =>
        match writeParts c u k g d g.dst s with
        | (_, some b, s) => failSeg s c u id n b
        | (left, none, s) =>
          let s := modSeg s c u id n fun g => { g with dst := left }
          if left.isEmpty then
            copyCheck (modSeg s c u id n fun g => { g with done := true, wrote := g.len, src := [], data := none }) c u id
          else again s left)

/-! ## The end of a copy (20 R463 to R466) -/

/-- The lowest-indexed failed segment. -/
def Copy.lead (k : Copy) : Option (Nat × Dword) := (k.segs.find? fun g => g.failed.isSome).bind Seg.failed
/-- Its translation code. -/
def Copy.leadCode (k : Copy) : Nat := (k.segs.find? fun g => g.failed.isSome).elim 0 Seg.xcode
/-- The lowest free suspension slot; none once the carter has exited. -/
def suspSlot (t : Thread) : Option Nat :=
  if t.exited then none else (List.range 4).find? fun k => (mget? t.susp k).isNone
/-- What a slot keeps of a copy: the segments that have not performed, to be issued again. -/
def suspend (k : Copy) : Copy :=
  { k with segs := k.segs.map fun g =>
      if g.done then g else { first := g.first, len := g.len, dst0 := g.dst0, wrote := g.wrote } }
/-- Windows of a failed copy that are open, and not being published, hold a faulted copy now (09 R258; 20 R464, R467). -/
def winsFault (s : State) (ws : List Nat) : State :=
  ws.foldl (fun s w =>
    if winFlag (winEntry s w) 2 then { s with winFaulted := addOnce s.winFaulted w } else s) s
/-- Copies that a publish waits for are remembered as failed. -/
def publNotes (s : State) (c u id : Nat) (wins : List Nat) (failed : Bool) : State :=
  { s with publs := s.publs.map fun p =>
      if (c, u, id) ∈ p.waits then
        { p with waits := p.waits.erase (c, u, id), failed := p.failed || (failed && decide (p.wid ∈ wins)) }
      else p }
/-- A publish of a window is in progress and does not wait for this copy. -/
def publHolds (s : State) (c u id w : Nat) : Bool :=
  s.publs.any fun p => decide (p.wid = w) && decide ((c, u, id) ∉ p.waits)
/-- COPY_COMPLETE (20 R464 to R466): the copy leaves the processor, is suspended if it failed and a slot is free, and
delivers its status. -/
def execCopyComplete (c u id : Nat) (s : State) : Ans :=
  .next (match getCopy s c u id with
  | none => s
  | some k =>
    if !k.over then s
    else
      let s := modUnit s c u fun t => { t with copies := t.copies.filter fun x => decide (x.id ≠ id) }
      if k.discarded then copyStatus (publNotes s c u id k.wins true) c u k.name k.word (some 8) none k.performed 0
      else
        match k.lead with
        | none =>
          let s := publNotes s c u id k.wins false
          let s := if k.resumed then { s with winFaulted := s.winFaulted.filter fun w => decide (w ∉ k.wins) } else s
          copyStatus s c u k.name k.word none none k.performed 0
        | some (code, addr) =>
          let slot := suspSlot (getUnit s c u)
          let s := match slot with
            | some j => modUnit s c u fun t => { t with susp := mset t.susp j (suspend k) }
            | none => s
          let s := winsFault s (k.wins.filter fun w => !publHolds s c u id w)
          let s := publNotes s c u id k.wins true
          if k.lost && decide (k.name = 0) then s else copyStatus s c u k.name k.word (some code) slot k.performed addr k.leadCode)

/-! ## The copy words (20 R459 to R465) -/

/-- The carter's wait for one of its eight copies. -/
def copyWait (s : State) : Option Hold × State := (if (curUnit s).copies.length < 8 then none else some .busy, s)
/-- Put a copy in progress. -/
def startCopy (s : State) (k : Copy) : State :=
  let c := s.cur.ctx
  let u := s.cur.unit
  let t := curUnit s
  let k := { k with id := t.nextCopy, waits := openIds t [0, 1, 2, 3, 4] }
  let s := modCurUnit s fun t => { t with copies := t.copies ++ [k], nextCopy := t.nextCopy + 1 }
  post s 1 (.copySegmentIssue c u k.id)
/-- A copy whose descriptor has been read: invalid, empty, or started. -/
def beginCopy (s : State) (k : Copy) (bad : Bool) (name : Dword) : State :=
  let x := curCtx s
  let k := { k with word := s.cur.word, off := s.cur.off, name := name }
  if bad || copyBad s x.asid k then copyStatus s s.cur.ctx s.cur.unit name s.cur.word (some 7) none 0 0
  else if dimsCount k.dims = 0 then copyStatus s s.cur.ctx s.cur.unit name s.cur.word none none 0 0
  else
    let k := { k with segs := k.cut (dimsCount k.dims + 1) 0 }
    startCopy s { k with wins := copyWins s x k }
/-- The wait for the walks of a copy's destinations. -/
def gapWait (s : State) (k : Copy × Bool) : Option Hold × State :=
  match copyGap s (curCtx s) k.1 k.2 with
  | some line => (some (.drain []), walkAsk s (some s.cur.ctx) (curCore s) line)
  | none => (none, s)
/-- CPY's wait. -/
def cpyWait (a b : Src) (s : State) : Option Hold × State :=
  match copyWait s with
  | (some h, s) => (some h, modCurUnit s fun t => putSlot t s.cur.slot { slotOf t s.cur.slot with since := 0 })
  | (none, s) =>
    if (engineNameFault s (ggOf s b) true [2, 3]).isSome then (none, s)
    else
      let r := issueRead s (ggOf s a) 32
      match r.1 with
      | .waits => (some (.drain []), r.2)
      | .fault _ => (none, s)
      | .got d => gapWait r.2 (cpyOf d)
/-- CPY (20 R459, R462). -/
def execCpy (a b : Src) (s : State) : Ans :=
  runWaiting (.cpy a b) s (cpyWait a b) fun s =>
    match engineNameFault s (ggOf s b) true [2, 3] with
    | some f => addFault s f
    | none =>
      let r := issueRead s (ggOf s a) 32
      match r.1 with
      | .waits => s
      | .fault f => addFault r.2 f
      | .got d => beginCopy r.2 (cpyOf d).1 (cpyOf d).2 (ggOf s b)
/-- A read of the bank by the word that issues: the bytes, or its fault. -/
def bankRead (s : State) (off align n : Nat) : List Byte ⊕ LaneFault :=
  let x := curCtx s
  if off % align ≠ 0 ∨ 0x20000 < off + n then .inr (slotFault s .perm (rangeDetail off align) (BitVec.ofNat 64 off))
  else
    match (List.range (n / 4)).find? fun i => lsPois x (off + 4 * i) with
    | some i => .inr (slotFault s .poison 1 (BitVec.ofNat 64 (ctxCore x * 2 ^ 32 + off + 4 * i)))
    | none => .inl (lsRead x off n)
/-- Bytes of a CPYT descriptor. -/
def cpytLen (s : State) (off : Nat) : Nat :=
  let nd := (lsByte (curCtx s) (off + 0x11)).toNat
  if 1 ≤ nd ∧ nd ≤ 16 then 32 + 16 * nd else 32
/-- CPYT's wait. -/
def cpytWait (a b : Src) (s : State) : Option Hold × State :=
  let off := bitsN (gOf s a).toNat 0 17
  match copyWait s with
  | (some h, s) => (some h, s)
  | (none, s) =>
    if (engineNameFault s (ggOf s b) true [2, 3]).isSome then (none, s)
    else
      match bankRead s off 32 (cpytLen s off) with
      | .inr _ => (none, s)
      | .inl d => gapWait s (cpytOf d)
/-- CPYT (20 R460, R462). -/
def execCpyt (a b : Src) (s : State) : Ans :=
  runWaiting (.cpyt a b) s (cpytWait a b) fun s =>
    match engineNameFault s (ggOf s b) true [2, 3] with
    | some f => addFault s f
    | none =>
      let off := bitsN (gOf s a).toNat 0 17
      let s := readLs s s.cur.ctx off (cpytLen s off)
      match bankRead s off 32 (cpytLen s off) with
      | .inr f => addFault s f
      | .inl d => beginCopy s (cpytOf d).1 (cpytOf d).2 (ggOf s b)
/-- CPYRES (20 R465). -/
def resumeCopy (s : State) (g : Nat) (name : Dword) : State :=
  let c := s.cur.ctx
  let u := s.cur.unit
  let slot := g % 4
  if bitsN g 2 6 ≠ 0 ∨ bitsN g 9 23 ≠ 0 then copyStatus s c u name s.cur.word (some 7) none 0 0
  else
    match mget? (curUnit s).susp slot with
    | none => copyStatus s c u name s.cur.word (some 9) none 0 0
    | some k =>
      let s := modCurUnit s fun t => { t with susp := mdel t.susp slot }
      if bitN g 8 then copyStatus s c u name s.cur.word none none k.performed 0
      else startCopy s { k with word := s.cur.word, off := s.cur.off, name := name, stopped := false, resumed := true }
/-- CPYRES. -/
def execCpyres (a b : Src) (s : State) : Ans :=
  runWaiting (.cpyres a b) s copyWait fun s =>
    match engineNameFault s (ggOf s b) true [2, 3] with
    | some f => addFault s f
    | none => resumeCopy s (gOf s a).toNat (ggOf s b)

/-! ## Windows (09 R256 to R259; 20 R466, R467) -/

/-- Write the flags byte of a window's entry. -/
def winFlagSet (s : State) (wid k : Nat) (b : Bool) : State :=
  let pa := ctlGet s 0x2410 + 32 * wid + 0x1C
  let x := hwNat s pa 1
  hwWrite s pa (leBytes 1 (x - (if bitN x k then 2 ^ k else 0) + (if b then 2 ^ k else 0)))
/-- A publish of a window is in progress. -/
def publOpen (s : State) (wid : Nat) : Bool := s.publs.any fun p => decide (p.wid = wid)
/-- The first checks of R466: code 1 or 2, or 0. -/
def winCheck (s : State) (g : Nat) : Nat :=
  let e := winEntry s (g % 65536)
  if 65536 ≤ g ∨ !winFlag e 0 then 1 else if fieldB e 0x16 2 ≠ (curCtx s).asid then 2 else 0
/-- SHOPEN. -/
def openWindow (s : State) (g : Nat) : Nat × State :=
  let wid := g % 65536
  let e := winEntry s wid
  let k := winCheck s g
  if k ≠ 0 then (k, s)
  else if winFlag e 2 || winFlag e 3 || publOpen s wid then (3, s)
  else (0, { (winFlagSet s wid 2 true) with winFaulted := s.winFaulted.erase wid, winTime := mdel s.winTime wid })
/-- SHOPEN (20 R466). -/
def execShopen (d : Dst) (a : Src) (s : State) : Ans :=
  runWord (.shopen d a) s fun s =>
    let r := openWindow s (gOf s a).toNat
    putD r.2 d (BitVec.ofNat 32 r.1)
/-- End every copy into a window: those in progress issue no more, those suspended free their slots. -/
def discardCopies (s : State) (wid : Nat) : State :=
  let stop (k : Copy) : Copy := if wid ∈ k.wins then { k with stopped := true, discarded := true } else k
  let unit (t : Thread) : Thread := { t with copies := t.copies.map stop, susp := t.susp.filter fun k => decide (wid ∉ k.2.wins) }
  let s : State := { s with ctxs := s.ctxs.map fun e => (e.1, { e.2 with units := e.2.units.map fun u => (u.1, unit u.2) }) }
  (s.ctxs.map Prod.fst).foldl (fun s c => (unitKeys s c).foldl (fun s u =>
    ((getUnit s c u).copies.filter fun k => k.discarded && k.over).foldl (fun s k => post s 0 (.copyComplete c u k.id)) s) s) s
/-- SHDISC. -/
def discardWindow (s : State) (g : Nat) : Nat × State :=
  let wid := g % 65536
  let e := winEntry s wid
  let k := winCheck s g
  if k ≠ 0 then (k, s)
  else if !winFlag e 2 || winFlag e 3 || publOpen s wid then (3, s)
  else
    let s := { (winFlagSet s wid 2 false) with winFaulted := s.winFaulted.erase wid }
    (0, discardCopies s wid)
/-- SHDISC (20 R466). -/
def execShdisc (d : Dst) (a : Src) (s : State) : Ans :=
  runWord (.shdisc d a) s fun s =>
    let r := discardWindow s (gOf s a).toNat
    putD r.2 d (BitVec.ofNat 32 r.1)
/-- The copies into a window's shadow that are in progress. -/
def shadowCopies (s : State) (wid : Nat) : List (Nat × Nat × Nat) :=
  (s.ctxs.map Prod.fst).flatMap fun c => (unitKeys s c).flatMap fun u =>
    ((getUnit s c u).copies.filter fun k => decide (wid ∈ k.wins)).map fun k => (c, u, k.id)
/-- PUBL's effect: refused at once, or the publish waits for the copies into its shadow. -/
def startPubl (s : State) (g : Nat) (name : Dword) : State :=
  let wid := g % 65536
  let e := winEntry s wid
  let k := winCheck s g
  let code := if k ≠ 0 then k else if !winFlag e 2 || winFlag e 3 || publOpen s wid || decide (wid ∈ s.winFaulted) then 3 else 0
  if code ≠ 0 then deliverStatus s s.cur.ctx s.cur.unit name s.cur.word (statusEngine false code) 0
  else
    let p : Publ := { wid := wid, ctx := s.cur.ctx, unit := s.cur.unit, name := name, word := s.cur.word, waits := shadowCopies s wid }
    post { s with publs := s.publs ++ [p] } 1 (.publComplete wid)
/-- PUBL (20 R467). -/
def execPubl (a b : Src) (s : State) : Ans :=
  runWord (.publ a b) s fun s =>
    match engineNameFault s (ggOf s b) false [2] with
    | some f => addFault s f
    | none => startPubl s (gOf s a).toNat (ggOf s b)
/-- The switch of R259: one step at the window's entry, at a time later than the core's clock and every write of the
shadow; the sweep of scope 3 starts. -/
def switchWindow (s : State) (p : Publ) : State :=
  let core := ctxCore (getCtx s p.ctx)
  let t := stampMax (clk s core) (mgetD s.winTime p.wid 0) + 1
  let e := winEntry s p.wid
  let pa := ctlGet s 0x2410 + 32 * p.wid
  let s := hwWrite s (pa + 0x10) (leBytes 6 t.toNat)
  let s := winFlagSet (winFlagSet (winFlagSet s p.wid 1 (!winFlag e 1)) p.wid 2 false) p.wid 3 true
  let s := raiseClock s core t
  let r := startSweep s 3 0 p.wid 0 false
  { r.2 with publs := r.2.publs.map fun q => if q.wid = p.wid then { q with switched := true } else q }
/-- The sweep of a publish runs. -/
def publSweeps (s : State) (wid : Nat) : Bool := s.sweeps.any fun w => decide (w.scope = 3) && decide (w.target = wid) && !w.reg
/-- PUBL_COMPLETE (09 R259; 20 R467): the switch once the copies have ended, and the delivery after the sweep. -/
def execPublComplete (wid : Nat) (s : State) : Ans :=
  let ended (s : State) : State := { s with publs := s.publs.filter fun p => decide (p.wid ≠ wid) }
  .next (match s.publs.find? fun p => decide (p.wid = wid) with
  | none => s
  | some p =>
    if p.switched then
      if publSweeps s wid then post s 1 (.publComplete wid)
      else deliverStatus (ended (winFlagSet s wid 3 false)) p.ctx p.unit p.name p.word (statusEngine true 0) 0
    else if !p.waits.isEmpty then post s 1 (.publComplete wid)
    else if p.failed then
      deliverStatus { (ended s) with winFaulted := addOnce s.winFaulted wid } p.ctx p.unit p.name p.word (statusEngine false 4) 0
    else post (switchWindow s p) 1 (.publComplete wid))

/-! ## Halo tiles (04 R113 to R118; 20 R468) -/

/-- A rule of R113 on the fields of a descriptor is broken (code 1). -/
def haloForm (b : List Byte) : Bool :=
  let h := haloOf b
  decide (1 < fieldB b 0x14 1) || !allZeroB (sliceB b 0x16 2) || !allZeroB (sliceB b 0x1C 4) || decide (h.trows = 0) || decide (h.tcols = 0) ||
    decide (h.rows % h.trows ≠ 0) || decide (h.cols % h.tcols ≠ 0) || decide (h.hw = 0) || decide (4 < h.hw) || decide (h.trows < h.hw) ||
    decide (h.tcols < h.hw) || decide (h.base % h.esz ≠ 0) || decide (h.pitch % h.esz ≠ 0) || decide (h.pitch < h.cols * h.esz) ||
    decide (h.loff % 8 ≠ 0)
/-- The owners of a region's tiles are wrong (code 3). -/
def haloOwners (h : HaloD) : Bool :=
  let os := h.owners.take h.tiles
  os.any (fun o => decide (319 < o)) || decide ((nub os).length < os.length)
/-- Bytes lo to hi of the address space touch an element of a region. -/
def HaloD.touches (h : HaloD) (lo hi : Nat) : Bool :=
  if hi ≤ h.base ∨ h.rows = 0 ∨ h.pitch = 0 then false
  else
    let r := min (h.rows - 1) ((hi - 1 - h.base) / h.pitch)
    decide (lo < h.base + r * h.pitch + h.cols * h.esz)
/-- Two regions share a byte (code 5). -/
def haloOverlap (a b : HaloD) : Bool :=
  (List.range a.rows).any fun r => b.touches (a.base + r * a.pitch) (a.base + r * a.pitch + a.cols * a.esz)
/-- The tile of a core. -/
def HaloD.tileOf (h : HaloD) (core : Nat) : Option Nat := (List.range h.tiles).find? fun t => decide (h.owners.getD t 0xFFFF = core)
/-- The lowest code from 1 to 8 that applies to a declaration, or 0. -/
def haloCode (x : Ctx) (core : Nat) (b : List Byte) : Nat :=
  let h := haloOf b
  if haloForm b then 1
  else if 16 < h.tiles then 2
  else if haloOwners h then 3
  else if 0x20000 < h.loff + h.frameLen then 4
  else if x.halos.any fun e => haloOverlap h (haloOf e.2.desc) then 5
  else if 4 ≤ x.halos.length then 6
  else if (h.tileOf core).isNone then 8
  else 0
/-- What a fill answers: it waits, a read faulted, or it is over. -/
inductive Fill where
  | waits | bad | done
  deriving DecidableEq, Repr
/-- Read the elements of a frame in turn and write them into the bank. Elements before one whose read faults are left as
they were or written: R468 leaves it open (notes/assumptions/19.md). -/
def fillFrame (c : Nat) (h : HaloD) (tile : Nat) : List (Nat × Nat) → State → List (Nat × Nat) → Fill × List (Nat × Nat) × State
  | [], s, asks => (.done, asks, s)
  | (r, k) :: t, s, asks =>
    match readElem s c asks (h.va r k) h.esz with
    | (.bad _ _, asks, s) => (.bad, asks, s)
    | (.waits, asks, s) =>
      let q := fillFrame c h tile t s asks
      (if q.1 = .bad then .bad else .waits, q.2.1, q.2.2)
    | (.got d, asks, s) =>
      let q := fillFrame c h tile t s asks
      let w (s : State) : State := modCtx s c fun x => lsWrite x (h.frameOff tile r k) d
      match q.1 with
      | .done => (.done, q.2.1, w q.2.2)
      | .waits => q
      | .bad =>
        let f := takeFree q.2.2
        (.bad, q.2.1, if f.1.getLsbD 0 then w f.2 else f.2)
/-- Lines that a fill asked for, with the count that the slot keeps. -/
def fillAsks (s : State) : List (Nat × Nat) :=
  let sl := curSlot s
  if sl.waited && decide (sl.since ≠ 0) then s.l2.map fun e => (e.1 / 4, sl.since - 1) else []
/-- HALO's declaration of the descriptor b: the code and the state, or that the fill waits. -/
def declareHalo (s : State) (b : List Byte) : Option Nat × State :=
  let c := s.cur.ctx
  let x := curCtx s
  let h := haloOf b
  let code := haloCode x (ctxCore x) b
  if code ≠ 0 then (some code, s)
  else
    let tile := (h.tileOf (ctxCore x)).getD 0
    let since := if (curSlot s).waited && decide ((curSlot s).since ≠ 0) then (curSlot s).since else s.cohSeq + 1
    let q := fillFrame c h tile (h.frameElems tile) s (fillAsks s)
    match q.1 with
    | .waits => (none, modCurUnit q.2.2 fun t => putSlot t s.cur.slot { slotOf t s.cur.slot with since := since })
    | .bad => (some 9, q.2.2)
    | .done => (some 0, modCtx q.2.2 c fun x => { x with halos := mset x.halos h.base { desc := b, tile := tile } })
/-- HALO's removal. -/
def removeHalo (s : State) (b : List Byte) : Nat × State :=
  let base := (haloOf b).base
  if (mget? (curCtx s).halos base).isNone then (7, s)
  else (0, modCtx s s.cur.ctx fun x => { x with halos := mdel x.halos base })
/-- The descriptor that HALO names, and whether it removes. -/
def haloDesc (s : State) (a : Src) : (List Byte ⊕ LaneFault) × Bool :=
  let g := (gOf s a).toNat
  (bankRead s (bitsN g 0 17) 64 64, bitN g 31)
/-- HALO's wait for its fill. -/
def haloWait (a : Src) (s : State) : Option Hold × State :=
  match haloDesc s a with
  | (.inl b, false) =>
    let r := declareHalo s b
    if r.1.isNone then (some (.drain []), r.2) else (none, s)
  | _ => (none, s)
/-- HALO (20 R468). -/
def execHalo (d : Dst) (a : Src) (s : State) : Ans :=
  runWaiting (.halo d a) s (haloWait a) fun s =>
    let s := readLs s s.cur.ctx (bitsN (gOf s a).toNat 0 17) 64
    match haloDesc s a with
    | (.inr f, _) => addFault s f
    | (.inl b, true) =>
      let r := removeHalo s b
      putD r.2 d (BitVec.ofNat 32 r.1)
    | (.inl b, false) =>
      let r := declareHalo s b
      putD r.2 d (BitVec.ofNat 32 (r.1.getD 0))
/-- HALOP (20 R468). -/
def execHalop (s : State) : Ans := runWord .halop s fun s => startPushes s s.cur.ctx s.cur.unit s.cur.word

/-! ## REPLH (20 R469) -/

/-- REPLH's effect at a VA. -/
def askReplica (s : State) (va : Dword) : State :=
  let x := curCtx s
  let core := curCore s
  let drop (s : State) : State := dropHints s s.cur.ctx 1
  if !canonical va then drop s
  else
    match translate s s.cur.ctx s.cur.unit none va { r := true } with
    | (.bad _ _, s) => drop (walkEnd s (dieOf core))
    | (.waits _, s) => modCur s fun k => { k with stay := true }
    | (.ok t, s) =>
      if t.kind ≠ 1 ∨ 1 < t.size ∨ !acrOn s (dieOf core) then drop s
      else acrRecord s (dieOf core) x.asid core t.va t.size 0 3 (bitsN t.pa 45 7)
/-- REPLH's wait for its walk. -/
def replhWait (a : Src) (s : State) : Option Hold × State :=
  if !canonical (ggOf s a) then (none, s)
  else
    match translate s s.cur.ctx s.cur.unit none (ggOf s a) { r := true } with
    | (.waits _, s) => (some (.drain []), s)
    | (.ok _, s) => (none, s)
    | (.bad _ _, s) => (none, s)
/-- REPLH. -/
def execReplh (a : Src) (s : State) : Ans := runWaiting (.replh a) s (replhWait a) fun s => askReplica s (ggOf s a)

/-! ## Lost cells (03 R77) -/

/-- The part of an open segment that lies in a lost endpoint. -/
def lostPart (s : State) (g : Seg) : Option Part :=
  (g.src ++ g.dst).find? fun p => match p.spot with
    | .mem pa => epLost s (bitsN pa 45 7)
    | _ => false
/-- Every segment in flight that touches a lost cell fails, and its context halts. -/
def copiesLost (s : State) : State :=
  (s.ctxs.map Prod.fst).foldl (fun s c => (unitKeys s c).foldl (fun s u =>
    (getUnit s c u).copies.foldl (fun s k => (k.segs.filter Seg.isOpen).foldl (fun s g =>
      match lostPart s g with
      | none => s
      | some p => failSeg s c u k.id g.first { code := 0, va := p.va, lost := true }) s) s) s) s

end Sys2Proof.Machine
end

