-- ==== Sys2Proof/Machine/Cox.lean ====
section
/-! DEFINITION. The cox's words, opcodes 0xB8 to 0xC0 and 0xD9, the matrix engine, and the mills (12 R299 to R319;
20 R457, R470). -/

namespace Sys2Proof.Machine

/-! ## Format blocks (12 R302, R303) -/

/-- An 8-bit operand type: i8, n8 or a binary8pP type. -/
def isEight (ty : Nat) : Bool := decide (ty = 0) || decide (ty = 4) || isB8 ty
/-- i8 or n8. -/
def isByteInt (ty : Nat) : Bool := decide (ty = 0) || decide (ty = 4)
/-- K and the group size of a pair of operand types, where R302 has a row for it. -/
def classOf (a b : Nat) : Option (Nat × Nat) :=
  if a = 26 ∨ b = 26 then (if (a = 26 || isEight a) && (b = 26 || isEight b) then some (128, 32) else none)
  else if isEight a && isEight b then some (64, 16)
  else if (a = 8 ∨ a = 9) ∧ (b = 8 ∨ b = 9) then some (32, 8)
  else if a = 10 ∧ b = 10 then some (16, 4)
  else if a = 11 ∧ b = 11 then some (8, 2)
  else none
/-- The accumulator types that a row of R302 allows. -/
def accAllowed (a b acct : Nat) : Bool :=
  if a = 11 then decide (acct = 1)
  else if (a = 26 || isByteInt a) && (b = 26 || isByteInt b) then decide (acct = 0) || decide (acct = 2)
  else decide (acct = 0)
/-- ATYPE of a format block. -/
def fbA (b : List Byte) : Nat := fieldB b 0 1
/-- BTYPE. -/
def fbB (b : List Byte) : Nat := fieldB b 1 1
/-- ABLK and BBLK. -/
def fbBlk (b : List Byte) (isB : Bool) : Nat := fieldB b (if isB then 3 else 2) 1
/-- ASCT and BSCT. -/
def fbSct (b : List Byte) (isB : Bool) : Nat := fieldB b (if isB then 5 else 4) 1
/-- ACCT. -/
def fbAcct (b : List Byte) : Nat := fieldB b 6 1
/-- SPARSE. -/
def fbSparse (b : List Byte) : Bool := bitN (fieldB b 7 1) 0
/-- INF. -/
def fbInf (b : List Byte) : Bool := bitN (fieldB b 7 1) 1
/-- ASCALE and BSCALE. -/
def fbScale (b : List Byte) (isB : Bool) : Nat := fieldB b (if isB then 0x0C else 8) 4
/-- ASTRIDE and BSTRIDE. -/
def fbStride (b : List Byte) (isB : Bool) : Nat := fieldB b (if isB then 0x14 else 0x10) 4
/-- The type of one side. -/
def fbTy (b : List Byte) (isB : Bool) : Nat := if isB then fbB b else fbA b
/-- K of a format block. -/
def fbK (b : List Byte) : Nat := ((classOf (fbA b) (fbB b)).map Prod.fst).getD 0
/-- The group size. -/
def fbG (b : List Byte) : Nat := ((classOf (fbA b) (fbB b)).map Prod.snd).getD 0
/-- Bytes of a row of k elements (12 R304). -/
def rowBytes (ty k : Nat) : Nat := if ty = 26 then (k + 4) / 5 else k * tySize ty
/-- A block length and a scale type that a side may not have. -/
def scaleBad (b : List Byte) (isB : Bool) : Bool :=
  let blk := fbBlk b isB
  let ty := fbTy b isB
  decide (blk ∉ [0, 16, 32, 64]) || decide (1 < fbSct b isB) ||
    (decide (blk ≠ 0) && (!(isEight ty || decide (ty = 26)) || decide (fbAcct b = 2))) ||
    (decide (blk = 16) && decide (fbG b = 32))
/-- A stride that a side may not have. -/
def strideBad (b : List Byte) (isB : Bool) : Bool :=
  decide (fbStride b isB < rowBytes (fbTy b isB) (fbK b)) || decide (fbStride b isB % 16 ≠ 0)
/-- FMTB faults ILLEGAL on a format block. -/
def fmtBad (b : List Byte) : Bool :=
  (classOf (fbA b) (fbB b)).isNone || !accAllowed (fbA b) (fbB b) (fbAcct b) || scaleBad b false || scaleBad b true ||
    strideBad b false || strideBad b true || decide (4 ≤ fieldB b 7 1) || !allZeroB (sliceB b 0x18 8)

/-! ## Faults and waits of the cox's words (12 R299, R301) -/

/-- A field value outside its set: ILLEGAL (operand). -/
def coxIllegal (s : State) : LaneFault := slotFault s .illegal 1 0
/-- The state of the cox that issues. -/
def coxNow (s : State) : CoxState := (curUnit s).cox
/-- Change it. -/
def modCox (s : State) (c u : Nat) (f : CoxState → CoxState) : State := modUnit s c u fun t => { t with cox := f t.cox }
/-- The key of tile n of the ferry that issues. -/
def tileKey (s : State) (n : Nat) : Nat := (curFerry s).accTiles.getD n 0
/-- Two tiles overlap: f64 tiles take two (12 R306). -/
def tilesMeet (k ty k' ty' : Nat) : Bool :=
  decide (k < k' + (if ty' = 1 then 2 else 1)) && decide (k' < k + (if ty = 1 then 2 else 1))
/-- The type that a tile has, or takes when a command first names it (12 R309). -/
def tileTy (s : State) (k : Nat) : Nat :=
  match mget? (curCtx s).tiles k with
  | some t => t.ty
  | none => ((coxNow s).fmt.map fbAcct).getD 0
/-- ACCT in force, or f32. -/
def acctNow (s : State) : Nat := ((coxNow s).fmt.map fbAcct).getD 0
/-- A command that names a tile waits for every earlier command that names it (12 R299). -/
def tileWait (n : Nat) (ty : State → Nat) (s : State) : Option Hold × State :=
  let k := tileKey s n
  let t := ty s
  (if (coxNow s).cmds.any fun c => tilesMeet k t c.tile (tileTy s c.tile) then some (.drain []) else none, s)
/-- A tile number that a type cannot have: f64 takes an even pair below the ferry's ACC (12 R306). -/
def pairBad (s : State) (n ty : Nat) : Bool := decide (ty = 1) && (decide (n % 2 = 1) || decide ((curFerry s).acc ≤ n + 1))
/-- A local-store range that a cox command may not name: PERM. -/
def rangeFault (s : State) (off align n : Nat) : Option LaneFault :=
  if off % align ≠ 0 ∨ 0x20000 < off + n then some (slotFault s .perm (rangeDetail off align) (BitVec.ofNat 64 off)) else none
/-- The first fault of some checks. -/
def firstFault : List (Option LaneFault) → Option LaneFault
  | [] => none
  | some f :: _ => some f
  | none :: t => firstFault t
/-- The engine of a core looks for a command. -/
def wakeEngine (s : State) (core d : Nat) : State := post s d (.coxCommandIssue core)
/-- Queue a command of the cox that issues. -/
def queueCmd (s : State) (k : CoxCmd) : State :=
  wakeEngine (modCox s s.cur.ctx s.cur.unit fun x => { x with cmds := x.cmds ++ [k] }) (curCore s) 1
/-- A command of the word that issues. -/
def newCmd (s : State) (n : Nat) : CoxCmd :=
  { op := (s.cur.word.extractLsb' 24 8).toNat, tile := tileKey s n, a := 0, b := 0, name := 0, word := s.cur.word, off := s.cur.off
    fmt := (coxNow s).fmt.getD [], scaleA := [], scaleB := [], zmap := [], policy := (coxNow s).policy, tie := (coxNow s).tie, age := s.now }
/-- The number of the tile that an operand names. -/
def accNum : Dst → Nat
  | .acc k => k.val
  | _ => 0

/-! ## Tiles (12 R309) -/

/-- A tile of a context. -/
def getTile (s : State) (c k : Nat) : Tile := mgetD (getCtx s c).tiles k {}
/-- Element n of a tile, counted row by row. -/
def Tile.elem (t : Tile) (n : Nat) : Dword := t.el.getD n 0
/-- All elements. -/
def Tile.elems (t : Tile) : List Dword := if t.el = [] then List.replicate 4096 0 else t.el
/-- Free elements of a tile whose accumulator another tile has taken in part (notes/assumptions/20.md). -/
def freeTile (s : State) (t : Tile) : Tile × State :=
  let m : Dword := if t.ty = 1 then BitVec.allOnes 64 else 0xFFFFFFFF
  ({ t with el := (List.range 4096).map fun i => Config.freeDword (s.free + i) &&& m, kept := false, rows := [], cols := [] },
   { s with free := s.free + 4096 })
/-- Write a tile; a tile that shares an accumulator with it loses its contents. -/
def putTile (s : State) (c k : Nat) (t : Tile) : State :=
  let hit := (getCtx s c).tiles.filter fun e => decide (e.1 ≠ k) && tilesMeet k t.ty e.1 e.2.ty
  let s := hit.foldl (fun s e =>
    let r := freeTile s e.2
    modCtx r.2 c fun x => { x with tiles := mset x.tiles e.1 r.1 }) s
  modCtx s c fun x => { x with tiles := mset x.tiles k t }
/-- A tile as ACZ leaves it. -/
def zeroTile (ty policy : Nat) : Tile := { ty := ty, kept := decide (policy ≠ 2) }
/-- The first command that names a tile acts as if ACZ came just before it. -/
def touchTile (s : State) (n : Nat) : State :=
  let k := tileKey s n
  if (mget? (curCtx s).tiles k).isSome then s else putTile s s.cur.ctx k (zeroTile (acctNow s) (coxNow s).policy)

/-! ## FMTB, ACZ, ACCHK, FINJ -/

/-- FMTB (12 R303). -/
def execFmtb (a : Src) (s : State) : Ans :=
  runWord (.fmtb a) s fun s =>
    let s := readLs s s.cur.ctx (gOf s a).toNat 32
    match bankRead s (gOf s a).toNat 32 32 with
    | .inr f => addFault s f
    | .inl b => if fmtBad b then addFault s (coxIllegal s) else modCox s s.cur.ctx s.cur.unit fun x => { x with fmt := some b }
/-- ACZ (12 R309). -/
def execAcz (d : Dst) (s : State) : Ans :=
  runWaiting (.acz d) s (tileWait (accNum d) acctNow) fun s =>
    if (coxNow s).fmt.isNone || pairBad s (accNum d) (acctNow s) then addFault s (coxIllegal s)
    else putTile s s.cur.ctx (tileKey s (accNum d)) (zeroTile (acctNow s) (coxNow s).policy)
/-- The state word of ACCHK. -/
def coxWord (x : CoxState) : Word :=
  BitVec.ofNat 32 (x.policy + (if x.tie then 4 else 0) + x.flags.toNat * 2 ^ 9)
/-- The policy becomes OFF: no tile's state is kept on, except for commands that were issued before. -/
def endKeeping (s : State) : State :=
  let fe := curFerry s
  let cs := (coxNow s).cmds
  let s := modCtx s s.cur.ctx fun x => { x with tiles := x.tiles.map fun e =>
    if e.1 ∈ fe.accTiles ∧ !(cs.any fun c => decide (c.tile = e.1)) then (e.1, { e.2 with kept := false })
    else e }
  modCox s s.cur.ctx s.cur.unit fun x => { x with cmds := x.cmds.map fun c => { c with endKeep := true } }
/-- ACCHK (12 R315). -/
def execAcchk (d : Dst) (a : Src) (s : State) : Ans :=
  runWord (.acchk d a) s fun s =>
    let g := gOf s a
    let p := bitsN g.toNat 0 2
    if p = 3 then addFault s (coxIllegal s)
    else
      let w := coxWord (coxNow s)
      let s := if p = 2 then endKeeping s else s
      let s := modCox s s.cur.ctx s.cur.unit fun x =>
        { x with policy := p, tie := g.getLsbD 2, flags := if g.getLsbD 8 then 0 else x.flags }
      putD s d w
/-- The mask of a FINJ on an element of a type. -/
def injMask (ty : Nat) (x : Word) : Dword := if ty = 1 then x.setWidth 64 <<< 32 else x.setWidth 64
/-- FINJ (20 R470). -/
def execFinj (d : Dst) (a b : Src) (s : State) : Ans :=
  runWaiting (.finj d a b) s (tileWait (accNum d) fun s => tileTy s (tileKey s (accNum d))) fun s =>
    let n := accNum d
    let k := tileKey s n
    if pairBad s n (tileTy s k) then addFault s (coxIllegal s)
    else
      let g := (gOf s a).toNat
      let i := 64 * bitsN g 8 6 + bitsN g 0 6
      let s := touchTile s n
      let t := getTile s s.cur.ctx k
      putTile s s.cur.ctx k { t with el := t.elems.set i (t.elem i ^^^ injMask t.ty (gOf s b)) }

/-! ## MMA, MMAS, ACLD and the drains, at issue -/

/-- Bytes of one side of an MMA. -/
def sideBytes (b : List Byte) (isB : Bool) : Nat := 63 * fbStride b isB + rowBytes (fbTy b isB) (fbK b)
/-- Bytes of one side's scales. -/
def scaleBytes (b : List Byte) (isB : Bool) : Nat := if fbBlk b isB = 0 then 0 else 64 * (fbK b / fbBlk b isB)
/-- Bytes that a command reads at issue, without an alignment; none are read for a length of 0. -/
def issueBytes (s : State) (off n : Nat) : List Byte ⊕ LaneFault :=
  if n = 0 then .inl []
  else if 0x20000 < off + n then .inr (slotFault s .perm 2 (BitVec.ofNat 64 off))
  else
    match (List.range n).find? fun i => lsPois (curCtx s) (off + i) with
    | some i => .inr (slotFault s .poison 1 (BitVec.ofNat 64 (curCore s * 2 ^ 32 + (off + i) / 4 * 4)))
    | none => .inl (lsRead (curCtx s) off n)
/-- Storage errors that the rows of one side meet (07 R207). -/
def readSide (s : State) (c : Nat) (f : List Byte) (isB : Bool) (base : Nat) : State :=
  (List.range 64).foldl (fun s m => readLs s c (base + m * fbStride f isB) (rowBytes (fbTy f isB) (fbK f))) s
/-- MMA and MMAS at issue: the checks of R303, R304, R306 and R310, the scales and the zero map. -/
def issueMma (s : State) (n : Nat) (sparse : Bool) (aOff zOff bOff : Word) : State :=
  match (coxNow s).fmt with
  | none => addFault s (coxIllegal s)
  | some f =>
    let k := tileKey s n
    if fbSparse f != sparse || pairBad s n (fbAcct f) || decide (tileTy s k ≠ fbAcct f) then addFault s (coxIllegal s)
    else
      let s := readLs s s.cur.ctx (fbScale f false) (scaleBytes f false)
      let s := readLs s s.cur.ctx (fbScale f true) (scaleBytes f true)
      let s := readLs s s.cur.ctx zOff.toNat (if sparse then fbK f / 8 else 0)
      let bad := firstFault [rangeFault s aOff.toNat 16 (sideBytes f false), rangeFault s bOff.toNat 16 (sideBytes f true)]
      match bad, issueBytes s (fbScale f false) (scaleBytes f false), issueBytes s (fbScale f true) (scaleBytes f true),
        issueBytes s zOff.toNat (if sparse then fbK f / 8 else 0) with
      | some e, _, _, _ => addFault s e
      | none, .inr e, _, _ => addFault s e
      | none, .inl _, .inr e, _ => addFault s e
      | none, .inl _, .inl _, .inr e => addFault s e
      | none, .inl sa, .inl sb, .inl z =>
        let s := touchTile s n
        queueCmd s { newCmd s n with a := aOff, b := bOff, scaleA := sa, scaleB := sb, zmap := z }
/-- The second register of a g pair. -/
def gNext (s : State) (a : Src) : Word := (ggOf s a).extractLsb' 32 32
/-- MMA (12 R306). -/
def execMma (d : Dst) (a b : Src) (s : State) : Ans :=
  runWaiting (.mma d a b) s (tileWait (accNum d) acctNow) fun s => issueMma s (accNum d) false (gOf s a) 0 (gOf s b)
/-- MMAS (12 R310). -/
def execMmas (d : Dst) (a b : Src) (s : State) : Ans :=
  runWaiting (.mmas d a b) s (tileWait (accNum d) acctNow) fun s =>
    issueMma s (accNum d) true ((ggOf s a).extractLsb' 0 32) (gNext s a) (gOf s b)
/-- Bytes of an element of an accumulator type. -/
def accSize (ty : Nat) : Nat := if ty = 1 then 8 else 4
/-- ACLD (12 R309). -/
def execAcld (d : Dst) (a : Src) (s : State) : Ans :=
  runWaiting (.acld d a) s (tileWait (accNum d) acctNow) fun s =>
    let n := accNum d
    let ty := acctNow s
    if (coxNow s).fmt.isNone || pairBad s n ty then addFault s (coxIllegal s)
    else
      match rangeFault s (gOf s a).toNat 128 (4096 * accSize ty) with
      | some f => addFault s f
      | none =>
        let s := touchTile s n
        queueCmd s { newCmd s n with a := gOf s a, b := BitVec.ofNat 32 ty }
/-- A type that ACCVT converts to. -/
def cvtTarget (ty : Nat) : Bool := decide (ty ∈ [0, 1, 4, 5, 8, 9]) || isB8 ty
/-- A drain at issue. -/
def issueDrain (s : State) (n : Nat) (cvt : Bool) (g : Word) (name : Dword) : State :=
  let ty := tileTy s (tileKey s n)
  let tgt := bitsN g.toNat 19 5
  if pairBad s n ty || (cvt && (!cvtTarget tgt || decide (4 < bitsN g.toNat 24 3))) then addFault s (coxIllegal s)
  else
    let size := if cvt then tySize tgt else accSize ty
    match firstFault [engineNameFault s name true [2], rangeFault s (bitsN g.toNat 0 17) 128 (4096 * size)] with
    | some f => addFault s f
    | none =>
      let s := touchTile s n
      queueCmd s { newCmd s n with a := g, name := name }
/-- ACST (12 R309). -/
def execAcst (d : Dst) (a b : Src) (s : State) : Ans :=
  runWaiting (.acst d a b) s (tileWait (accNum d) fun s => tileTy s (tileKey s (accNum d))) fun s =>
    issueDrain s (accNum d) false (gOf s a) (ggOf s b)
/-- ACCVT (12 R309). -/
def execAccvt (d : Dst) (a b : Src) (s : State) : Ans :=
  runWaiting (.accvt d a b) s (tileWait (accNum d) fun s => tileTy s (tileKey s (accNum d))) fun s =>
    issueDrain s (accNum d) true (gOf s a) (ggOf s b)

/-! ## Values (12 R304 to R307) -/

/-- A NaN of any kind, as the engine takes it. -/
def Num.quiet : Num → Num
  | .nan _ => .nan false
  | v => v
/-- Element k of the bytes of a row or a column; base is the element of the first byte's first value. -/
def elemOf (ty : Nat) (inf : Bool) (b : List Byte) (k : Nat) : Num :=
  if ty = 26 then .ofInt (tritVal (tritOf (fieldB b (k / 5) 1) (k % 5)))
  else (valOf ty inf false (fieldB b (k * tySize ty) (tySize ty))).quiet
/-- A scale byte (12 R305), in the domain in force for its operands (15 R367). -/
def scaleVal (sct : Nat) (inf : Bool) (b : List Byte) (i : Nat) : Num :=
  valOf (if sct = 0 then 27 else 22) inf false (fieldB b i 1)
/-- The exact value of an accumulator element. -/
def accVal (ty : Nat) (x : Dword) : Num :=
  if ty = 2 then .ofInt (sextN (x.toNat % 2 ^ 32) 32) else (valOf (if ty = 1 then 11 else 10) false false x.toNat).quiet
/-- Round into an accumulator type under RNE; the flag OF. -/
def accRound (ty : Nat) (v : Num) : Dword × BitVec 4 :=
  if ty = 2 then
    (match v with
      | .fin n m e => BitVec.ofNat 64 (wrapN (if e < 0 then scaledTo n (m / 2 ^ e.natAbs) 0 0 else scaledTo n m e 0) 32)
      | _ => 0, 0)
  else
    let r := roundNum (if ty = 1 then 11 else 10) { rm := 0, sat := false, inf := true, ftz := false, x := 0 } v.quiet
    (BitVec.ofNat 64 r.bits, if r.flags &&& fOF ≠ 0 then 1 else 0)
/-- The scale that checksum sums have: below every product of R302. -/
def sumScale : Nat := 2400
/-- A value as a checksum term: signed and absolute, none where it is not finite. -/
def termOf : Num → Option Int × Option Int
  | .fin n m e =>
    let x := scaledTo false m e (-(sumScale : Int))
    (some (if n then -x else x), some x)
  | _ => (none, none)
/-- Sum of two checksum terms. -/
def addTerm (a b : Option Int × Option Int) : Option Int × Option Int :=
  (a.1.bind fun x => b.1.map fun y => x + y, a.2.bind fun x => b.2.map fun y => x + y)
/-- Sum of some. -/
def sumTerms (l : List (Option Int × Option Int)) : Option Int × Option Int := l.foldl addTerm (some 0, some 0)
/-- Sums of the 64 rows or columns, where [] stands for zeros. -/
def addSums (old new : List (Option Int × Option Int)) : List (Option Int × Option Int) :=
  if old = [] then new else List.zipWith addTerm old new
/-- Rows of a list of 64 elements each. -/
def rowsOf {α : Type} (l : List α) : List (List α) := (List.range 64).map fun m => (l.drop (64 * m)).take 64
/-- Columns from rows. -/
def colsOf (rows : List (List (Option Int × Option Int))) : List (Option Int × Option Int) :=
  rows.foldl (fun c r => if c = [] then r else List.zipWith addTerm c r) []

/-! ## A K group (12 R306, R307, R310, R311) -/

/-- One element of a K group: its new value, the flags NV and OF, and its checksum term. -/
structure ElemOut where
  acc : Dword
  fl : BitVec 4
  term : Option Int × Option Int
  deriving DecidableEq, Repr
/-- Acc + the exact sum of the products of a row and a column. -/
def accElem (ty : Nat) (kept : Bool) (a b : List Num) (x : Dword) : ElemOut :=
  let r := dotSum 0 (List.zip a b) (accVal ty x)
  let q := accRound ty r.1
  { acc := q.1, fl := q.2 ||| (if r.2 &&& fNV ≠ 0 then 2 else 0)
    term := if kept then sumTerms ((List.zipWith mulNum a b).map fun p => termOf p.1) else (some 0, some 0) }
/-- One scaled element, and the flags that it sets: TI 8, NAN 4, NV 2. -/
def scaledElem (v sc : Num) : Num × BitVec 4 :=
  let p := mulNum v sc
  (p.1.quiet, (if v.isNan || sc.isNan then 4 else 0) ||| (if p.2 &&& fNV ≠ 0 then 2 else 0))
/-- The elements of a K group in one row of A or column of B, with flags; marked elements are zero and their bytes are
not looked at. -/
def sideLine (x : Ctx) (f : List Byte) (isB : Bool) (base : Nat) (scales : List Byte) (line k0 g : Nat) (marked : Nat → Bool) : List Num × BitVec 4 :=
  let ty := fbTy f isB
  let bytes := lsRead x (base + line * fbStride f isB) (rowBytes ty (fbK f))
  let blk := fbBlk f isB
  let es := (List.range g).map fun i =>
    let k := k0 + i
    let v := if marked k then Num.fin false 0 0 else elemOf ty (fbInf f) bytes k
    let ti : BitVec 4 := if ty = 26 && !marked k && decide (242 < fieldB bytes (k / 5) 1) then 8 else 0
    let q := if blk = 0 then (v, (if v.isNan then 4 else 0 : BitVec 4))
      else scaledElem v (scaleVal (fbSct f isB) (fbInf f) scales (line * (fbK f / blk) + k / blk))
    (q.1, q.2 ||| ti)
  (es.map Prod.fst, es.foldl (fun m e => m ||| e.2) 0)
/-- The first poisoned word that a K group reads. -/
def groupPoison (x : Ctx) (f : List Byte) (isB : Bool) (base k0 g : Nat) (marked : Nat → Nat → Bool) : Option Nat :=
  let ty := fbTy f isB
  let size := tySize ty
  (List.range 64).findSome? fun line => (List.range g).findSome? fun i =>
    let k := k0 + i
    let o := base + line * fbStride f isB + (if ty = 26 then k / 5 else k * size)
    if marked line k then none
    else if lsPois x o then some (o / 4 * 4) else if size = 8 && lsPois x (o + 4) then some (o / 4 * 4 + 4) else none
/-- A block of A is marked in the zero map of a command. -/
def CoxCmd.marked (k : CoxCmd) (row pos : Nat) : Bool := decide (k.op = 0xBA) && bitN (fieldB k.zmap (pos / 8) 1) (row / 8)
/-- Every block of a K group is marked. -/
def CoxCmd.allMarked (k : CoxCmd) (k0 g : Nat) : Bool :=
  decide (k.op = 0xBA) && (List.range g).all fun i => decide (fieldB k.zmap ((k0 + i) / 8) 1 = 0xFF)
/-- The tile and the flags after a K group. -/
def groupTile (x : Ctx) (k : CoxCmd) (t : Tile) : Tile × BitVec 4 :=
  let g := fbG k.fmt
  let k0 := g * k.grp
  let as := (List.range 64).map fun m => sideLine x k.fmt false k.a.toNat k.scaleA m k0 g (k.marked m)
  let bs := (List.range 64).map fun n => sideLine x k.fmt true k.b.toNat k.scaleB n k0 g fun _ => false
  let kept := t.kept && decide (k.policy ≠ 2)
  let outs := List.zipWith (fun a r => List.zipWith (fun b e => accElem t.ty kept a b e) (bs.map Prod.fst) r) (as.map Prod.fst) (rowsOf t.elems)
  let fl := (as ++ bs).foldl (fun m e => m ||| e.2) (0 : BitVec 4)
  let fl := outs.flatten.foldl (fun m o => m ||| o.fl) fl
  let terms := outs.map fun r => r.map ElemOut.term
  ({ t with
      el := outs.flatten.map ElemOut.acc
      kept := kept
      rows := if kept then addSums t.rows (terms.map sumTerms) else []
      cols := if kept then addSums t.cols (colsOf terms) else [] }, fl)

/-! ## The engine serves a command (12 R299, R306, R316) -/

/-- The command of a cox that the engine has before it. -/
def headCmd (s : State) (c u : Nat) : Option CoxCmd := (getUnit s c u).cox.cmds.head?
/-- The commands that follow the one at the engine: the next one of this cox is ready from now, behind those of the other
coxes that have waited (12 R299). -/
def restCmds (now : Nat) : List CoxCmd → List CoxCmd
  | _ :: k :: t => { k with age := now } :: t
  | _ => []
/-- The command leaves the engine, which looks for another. -/
def endCmd (s : State) (core c u : Nat) : State :=
  let s := match headCmd s c u with
    | some k => if k.endKeep then modCtx s c fun x => { x with tiles := x.tiles.map fun e =>
        if e.1 = k.tile then (e.1, { e.2 with kept := false }) else e } else s
    | none => s
  let s := modCox s c u fun x => { x with cmds := restCmds s.now x.cmds }
  wakeEngine (modCore s core fun k => { k with engine := none }) core 1
/-- A command fails: the context halts and the command ends (12 R301). -/
def failCmd (s : State) (core c u : Nat) (k : CoxCmd) (cause : Cause) (detail : Nat) (addr : Dword) : State :=
  let r := engineRecord s c u cause detail 0 k.word addr
  endCmd (engineHalt s c u { r with record := { r.record with off := k.off } }) core c u
/-- The same for a poisoned word of the bank. -/
def failPoison (s : State) (core c u : Nat) (k : CoxCmd) (o : Nat) : State :=
  failCmd s core c u k .poison 1 (BitVec.ofNat 64 (core * 2 ^ 32 + o))
/-- Set sticky flags of a cox. -/
def setCoxFlags (s : State) (c u : Nat) (f : BitVec 4) : State := modCox s c u fun x => { x with flags := x.flags ||| f }
/-- Change the command at the engine. -/
def modHead (s : State) (c u : Nat) (f : CoxCmd → CoxCmd) : State :=
  modCox s c u fun x => { x with cmds := match x.cmds with
    | [] => []
    | k :: t => f k :: t }
/-- Cycles for which a command occupies the engine (12 R302; R310 for a sparse one). -/
def cmdCycles (k : CoxCmd) : Nat :=
  let d := if fbA k.fmt = 10 ∨ fbA k.fmt = 11 then 32 else 16
  if k.op ≠ 0xBA then d
  else
    let c := fbK k.fmt / 8
    let z := (List.range c).countP fun j => decide (fieldB k.zmap j 1 ≠ 0xFF)
    max 2 (2 * ((d * z + 2 * c - 1) / (2 * c)))
/-- Those of the K group that runs. -/
def groupCycles (k : CoxCmd) : Nat := if k.grp < 3 then cmdCycles k / 4 else cmdCycles k - 3 * (cmdCycles k / 4)
/-- Run one K group. -/
def runGroup (s : State) (core c u : Nat) (k : CoxCmd) : State :=
  let g := fbG k.fmt
  let k0 := g * k.grp
  let s := if k.allMarked k0 g then s else readSide (readSide s c k.fmt false k.a.toNat) c k.fmt true k.b.toNat
  let x := getCtx s c
  let next (s : State) : State :=
    let s := modHead s c u fun k => { k with grp := k.grp + 1 }
    post s (groupCycles k) (if k.grp + 1 < 4 then .coxCommandIssue core else .mmaComplete core)
  if k.allMarked k0 g then next s
  else
    let bad := match groupPoison x k.fmt false k.a.toNat k0 g k.marked with
      | some o => some o
      | none => groupPoison x k.fmt true k.b.toNat k0 g fun _ _ => false
    match bad with
    | some o => failPoison s core c u k o
    | none =>
      let r := groupTile x k (getTile s c k.tile)
      let s := setCoxFlags (putTile s c k.tile r.1) c u r.2
      next (modHead s c u fun k => { k with ti := k.ti || r.2.getLsbD 3 })
/-- A tile as ACLD loads it. -/
def loadedTile (x : Ctx) (k : CoxCmd) : Tile :=
  let ty := k.b.toNat
  let bytes := lsRead x k.a.toNat (4096 * accSize ty)
  let el := (List.range 4096).map fun i => BitVec.ofNat 64 (fieldB (bytes.drop (accSize ty * i)) 0 (accSize ty))
  let terms := rowsOf (el.map fun e => termOf (accVal ty e))
  let kept := decide (k.policy ≠ 2)
  { ty := ty, el := el, kept := kept, rows := if kept then terms.map sumTerms else [], cols := if kept then colsOf terms else [] }
/-- Serve ACLD. -/
def runLoad (s : State) (core c u : Nat) (k : CoxCmd) : State :=
  let s := readLs s c k.a.toNat (4096 * accSize k.b.toNat)
  let x := getCtx s c
  match (List.range (1024 * accSize k.b.toNat)).find? fun i => lsPois x (k.a.toNat + 4 * i) with
  | some i => failPoison s core c u k (k.a.toNat + 4 * i)
  | none => endCmd (putTile s c k.tile (loadedTile x k)) core c u
/-- Serve the command at the engine. -/
def runCmd (s : State) (core c u : Nat) (k : CoxCmd) : State :=
  if k.op = 0xBC then runLoad s core c u k
  else if k.op = 0xBD ∨ k.op = 0xBE then post s 16 (.drainComplete core)
  else runGroup s core c u k
/-- The context is the core's active one. -/
def isActive (s : State) (core c : Nat) : Bool := decide ((getCore s core).active = some c)
/-- Commands of the active context's coxes that are ready. -/
def readyCmds (s : State) (c : Nat) : List (Nat × CoxCmd) :=
  [64, 65, 66, 67].filterMap fun u => (headCmd s c u).map fun k => (u, k)
/-- The oldest. -/
def oldestCmd : List (Nat × CoxCmd) → Option (Nat × CoxCmd)
  | [] => none
  | e :: t =>
    match oldestCmd t with
    | none => some e
    | some f => if e.2.age ≤ f.2.age then some e else some f
/-- A command of MMA or MMAS. -/
def CoxCmd.isMma (k : CoxCmd) : Bool := decide (k.op = 0xB9) || decide (k.op = 0xBA)
/-- COX_COMMAND_ISSUE (12 R299, R306, R316): the next K group of the command in the engine, which stops between groups when its
context is no longer active and leaves the engine to others, or the oldest command that is ready. Throttling withholds MMA and MMAS (01 R23), and nothing is
served once the package has stopped (01 R24). -/
def execCoxCommandIssue (core : Nat) (s : State) : Ans :=
  .next (if s.stopped then s else match (getCore s core).engine with
  | some (c, u) =>
    match headCmd s c u with
    | none => wakeEngine (modCore s core fun k => { k with engine := none }) core 1
    | some k =>
      if !isActive s core c ∧ k.grp < 4 then wakeEngine (modCore s core fun k => { k with engine := none }) core 1
      else if k.isMma ∧ k.grp < 4 then (if s.throttle = 0 then runGroup s core c u k else wakeEngine s core 1)
      else s
  | none =>
    match (getCore s core).active with
    | none => s
    | some c =>
      if (getCtx s c).halted then s
      else
        match oldestCmd (readyCmds s c) with
        | none => s
        | some (u, k) =>
          if k.isMma ∧ s.throttle ≠ 0 then wakeEngine s core 1
          else runCmd (modCore s core fun e => { e with engine := some (c, u) }) core c u k)
/-- MMA_COMPLETE (12 R306, R308): the command ends; TIE then halts the context if it has set TI. -/
def execMmaComplete (core : Nat) (s : State) : Ans :=
  .next (match (getCore s core).engine with
  | none => s
  | some (c, u) =>
    match headCmd s c u with
    | none => s
    | some k =>
      if k.grp < 4 then s
      else if k.ti && k.tie then failCmd s core c u k .illegal 1 0
      else endCmd s core c u)

/-! ## Drains (12 R309, R312 to R314) -/

/-- How a line fails its check: the size of the difference at the checksum's scale and the tolerance times 2^16, or that its
element sum is infinite, or NaN. -/
inductive LineOut where
  | off (diff tol : Nat)
  | inf
  | nan
  deriving DecidableEq, Repr
/-- Compare the exact sum of a line's elements with what is expected. -/
def lineOut (ty : Nat) (el : List Num) (want : Option Int × Option Int) : Option LineOut :=
  match want.1, want.2 with
  | some e, some a =>
    if ty = 2 then
      let sum := (el.map fun v => ((termOf v).1.getD 0)).foldl (· + ·) 0
      let d := sextN (wrapN ((sum - e) / 2 ^ sumScale) 32) 32
      if d = 0 then none else some (.off d.natAbs 0)
    else
      match (sumTerms (el.map termOf)).1 with
      | some x =>
        let d := (x - e).natAbs
        if d * 2 ^ 16 ≤ a.natAbs then none else some (.off d a.natAbs)
      | none =>
        let nan := el.any Num.isNan || (decide (.inf false ∈ el) && decide (.inf true ∈ el))
        some (if nan then .nan else .inf)
  | _, _ => none
/-- MAG of one line (12 R314); a NaN sum has no ratio. -/
def magOf (ty : Nat) : LineOut → Nat
  | .off d a =>
    if ty = 2 then (if d = 0 then 0 else log2N d + 1)
    else if a = 0 then 255
    else
      let r := d * 2 ^ 16 / a
      if r < 2 then 0 else min 255 (log2N r)
  | .inf => 255
  | .nan => 0
/-- The lines of a tile: 64 rows or 64 columns of values. -/
def tileLines (el : List Num) (cols : Bool) : List (List Num) :=
  if cols then (List.range 64).map fun n => (List.range 64).map fun m => el.getD (64 * m + n) (.fin false 0 0) else rowsOf el
/-- The lines out of tolerance. -/
def linesOut (ty : Nat) (el : List Num) (sums : List (Option Int × Option Int)) (cols : Bool) : List (Nat × LineOut) :=
  (tileLines el cols).zipIdx.filterMap fun l => (lineOut ty l.1 (sums.getD l.2 (some 0, some 0))).map fun o => (l.2, o)
/-- Bit j: a line of lines 8j to 8j + 7 is out. -/
def lineBits (l : List (Nat × LineOut)) : Nat :=
  (List.range 8).foldl (fun m j => m + (if l.any fun e => decide (e.1 / 8 = j) then 2 ^ j else 0)) 0
/-- The largest MAG. The ratio of a line whose sum is NaN is a free value where no other line has the largest MAG
(notes/assumptions/21.md). -/
def largestMag (s : State) (ty : Nat) (l : List LineOut) : Nat × State :=
  let m := l.foldl (fun m o => max m (magOf ty o)) 0
  if l.any (fun o => decide (o = .nan)) && decide (m < 255) then
    let r := takeFree s
    (r.1.toNat % 256, r.2)
  else (m, s)
/-- The element that CORRECT computes: the column's checksum less its other elements (12 R312). -/
def correctedElem (t : Tile) (el : List Num) (m n : Nat) : Dword × BitVec 4 :=
  let want := (t.cols.getD n (some 0, some 0)).1.getD 0
  let others := (List.range 64).filterMap fun r => if r = m then none else some ((el.getD (64 * r + n) (.fin false 0 0)).negate)
  let v := others.foldl (fun a x => (addNum 0 a x).1) (Num.ofScaled 0 want (-(sumScale : Int)))
  accRound t.ty v
/-- What the check of a drain decides: the tile, CODE 2 or not, rows, columns and corrected elements of DETAIL, and the
checksum registers of a failure. -/
structure Judged where
  tile : Tile
  bad : Bool := false
  rows : Nat := 0
  cols : Nat := 0
  fixed : Nat := 0
  abft : Option Abft := none
  fl : BitVec 4 := 0
  deriving DecidableEq, Repr
/-- The check of R312. -/
def judge (s : State) (core u : Nat) (fe : Ferry) (k : CoxCmd) (t : Tile) : Judged × State :=
  if !t.kept then ({ tile := t }, s)
  else
    let el := t.elems.map (accVal t.ty)
    let ro := linesOut t.ty el t.rows false
    let co := linesOut t.ty el t.cols true
    match ro, co with
    | [], [] => ({ tile := t }, s)
    | r, c =>
      match decide (k.policy = 0), r, c with
      | true, [(m, _)], [(n, _)] =>
        let x := correctedElem t el m n
        ({ tile := { t with el := t.elems.set (64 * m + n) x.1 }, rows := 1, cols := 1, fixed := 1, fl := x.2 }, s)
      | _, _, _ =>
        let mg := largestMag s t.ty ((r ++ c).map Prod.snd)
        let a : Abft :=
          { syn := BitVec.ofNat 32 (lineBits r * 2 ^ 24 + lineBits c * 2 ^ 16 + mg.1 * 2 ^ 8)
            unit := BitVec.ofNat 32 (core * 2 ^ 16 + (u - 64) % 4 * 2 ^ 8 + fe.accTiles.idxOf k.tile)
            row := (r.head?.map fun e => BitVec.ofNat 32 e.1).getD 0xFFFFFFFF
            col := (c.head?.map fun e => BitVec.ofNat 32 e.1).getD 0xFFFFFFFF }
        ({ tile := t, bad := true, rows := r.length, cols := c.length, abft := some a }, mg.2)
/-- One element as a drain writes it, with the engine flags of ACCVT (12 R308). -/
def drainElem (k : CoxCmd) (ty : Nat) (x : Dword) : List Byte × BitVec 4 :=
  if k.op = 0xBD then (leBytes (accSize ty) x.toNat, 0)
  else
    let g := k.a.toNat
    let tgt := bitsN g 19 5
    let v := accVal ty x
    let r := convert tgt { rm := bitsN g 24 3, sat := bitN g 27, inf := bitN g 28, ftz := false, x := 0 } v
    (leBytes (tySize tgt) r.bits,
     (if v.isNan then 4 else 0) ||| (if r.flags &&& fNV ≠ 0 then 2 else 0) ||| (if r.flags &&& fOF ≠ 0 then 1 else 0))
/-- $abft.fixed after a correction; it saturates. -/
def fixedAfter (w : Word) (n : Nat) : Word := if w.toNat + n ≤ 0xFFFFFFFF then w + BitVec.ofNat 32 n else 0xFFFFFFFF
/-- The drain's write to the bank, its flags and $abft. -/
def drainWrite (s : State) (c u : Nat) (k : CoxCmd) (j : Judged) : State :=
  let es := j.tile.elems.map (drainElem k j.tile.ty)
  let fl := es.foldl (fun m e => m ||| e.2) j.fl
  let s := if j.fixed = 0 then s else putTile s c k.tile j.tile
  let s := modCtx s c fun x =>
    { (lsWrite x (bitsN k.a.toNat 0 17) (es.flatMap Prod.fst)) with abftFixed := fixedAfter x.abftFixed j.fixed }
  modCox s c u fun x => { x with flags := x.flags ||| fl, failed := if x.failed.isNone then j.abft else x.failed }
/-- The status word of a drain. -/
def drainStatus (j : Judged) : Word := statusEngine (!j.bad) (j.rows * 2 ^ 16 + j.cols * 2 ^ 8 + j.fixed)
/-- The status sets out. -/
def drainDeliver (s : State) (c u : Nat) (k : CoxCmd) (st : Word) : State :=
  if k.name = 0 then s
  else deliverStatus (modCox s c u fun x => { x with sent := x.sent ++ [k.name] }) c u k.name k.word st 0
/-- DRAIN_COMPLETE (12 R309, R312). -/
def execDrainComplete (core : Nat) (s : State) : Ans :=
  .next (match (getCore s core).engine with
  | none => s
  | some (c, u) =>
    match headCmd s c u with
    | none => s
    | some k =>
      if !(k.op = 0xBD || k.op = 0xBE) then s
      else if !isActive s core c then wakeEngine (modCore s core fun k => { k with engine := none }) core 1
      else
        let r := judge s core u (getFerry s c (u - 64)) k (getTile s c k.tile)
        let s := drainWrite r.2 c u k r.1
        drainDeliver (endCmd s core c u) c u k (drainStatus r.1))

end Sys2Proof.Machine
end

