-- ==== Sys2Proof/Machine/Mill.lean ====
section
/-! DEFINITION. The mills beside the stacks (12 R317 to R319). -/

namespace Sys2Proof.Machine

/-! ## The descriptor (12 R317) -/

/-- WVA. -/
def mlWva (b : List Byte) : Nat := fieldB b 0 8
/-- WPITCH. -/
def mlPitch (b : List Byte) : Nat := fieldB b 8 4
/-- NROW. -/
def mlRows (b : List Byte) : Nat := fieldB b 0x0C 2
/-- WTYPE. -/
def mlWty (b : List Byte) : Nat := fieldB b 0x0E 1
/-- XTYPE. -/
def mlXty (b : List Byte) : Nat := fieldB b 0x0F 1
/-- K. -/
def mlK (b : List Byte) : Nat := fieldB b 0x10 4
/-- XOFF. -/
def mlXoff (b : List Byte) : Nat := fieldB b 0x14 4
/-- WSVA. -/
def mlWsva (b : List Byte) : Nat := fieldB b 0x18 8
/-- XSC. -/
def mlXsc (b : List Byte) : Nat := fieldB b 0x20 1
/-- INF. -/
def mlInf (b : List Byte) : Bool := bitN (fieldB b 0x21 1) 0
/-- RNAME. -/
def mlRname (b : List Byte) : Dword := BitVec.ofNat 64 (fieldB b 0x28 8)
/-- SNAME. -/
def mlSname (b : List Byte) : Dword := BitVec.ofNat 64 (fieldB b 0x30 8)
/-- Bytes of a row of W. -/
def mlRowBytes (b : List Byte) : Nat := if mlWty b = 26 then mlK b / 5 else mlK b
/-- A field of the descriptor outside its range, for a result name of this width. -/
def mlBad (b : List Byte) : Bool :=
  let tern := decide (mlWty b = 26)
  let most := if nmWidth (mlRname b) = 4 then 32 else 64
  !(tern || isEight (mlWty b)) || !(isEight (mlXty b) || decide (mlXty b = 8) || decide (mlXty b = 9)) ||
    decide (mlRows b = 0) || decide (most < mlRows b) || decide (mlK b = 0) || decide (mlK b % (if tern then 640 else 128) ≠ 0) ||
    decide ((if tern then 65280 else 65536) < mlK b) || decide (mlPitch b % 128 ≠ 0) || decide (mlPitch b < mlRowBytes b) ||
    decide (mlWva b % 128 ≠ 0)

/-! ## MILL at issue -/

/-- The walk of the first row. -/
def millWalk (s : State) (b : List Byte) : Walk :=
  let x := curCtx s
  walk s (dieOf (curCore s)) x.asid x.cls (BitVec.ofNat 64 (mlWva b)) { r := true }
/-- MILL's wait: at four outstanding (12 R299), while throttling withholds it (01 R23), and for the walk of its first row. -/
def millWait (a : Src) (s : State) : Option Hold × State :=
  if 4 ≤ millsOut s s.cur.ctx s.cur.unit ∨ s.throttle ≠ 0 then (some .busy, s)
  else
    match bankRead s (gOf s a).toNat 64 64 with
    | .inr _ => (none, s)
    | .inl b =>
      match millWalk s b with
      | .waits line => if mlBad b then (none, s) else (some (.drain []), walkAsk s (some s.cur.ctx) (curCore s) line)
      | .ok _ => (none, s)
      | .bad _ _ => (none, s)
/-- The stack whose mill takes a command: that of the first row, where translation finds it, or the die's first. -/
def millStack (s : State) (b : List Byte) : Nat :=
  match millWalk s b with
  | .ok t => bitsN (xlatPa t (BitVec.ofNat 64 (mlWva b))) 36 3
  | .bad _ _ => 2 * dieOf (curCore s)
  | .waits _ => 2 * dieOf (curCore s)
/-- Cycles for which a GEMV occupies the mill at least (12 R319). -/
def millCycles (b : List Byte) : Nat :=
  let per := if mlWty b = 26 then 40960 else 8192
  (mlRows b * mlK b + per - 1) / per
/-- Queue the job at its stack. -/
def queueMill (s : State) (b x : List Byte) : State :=
  let k := millStack s b
  let js := mgetD s.mills k []
  let start := js.foldl (fun m j => max m j.due) s.now
  let fe := curFerry s
  let j : MillJob :=
    { ctx := s.cur.ctx, unit := s.cur.unit, core := curCore s, span := fe.span, index := fe.index, asid := (curCtx s).asid
      cls := (curCtx s).cls, desc := b, x := x, word := s.cur.word, off := s.cur.off, due := start + millCycles b }
  post { s with mills := mset s.mills k (js ++ [j]) } (start + millCycles b - s.now) (.millComplete k)
/-- MILL (12 R317). -/
def execMill (a : Src) (s : State) : Ans :=
  runWaiting (.mill a) s (millWait a) fun s =>
    let s := readLs s s.cur.ctx (gOf s a).toNat 64
    match bankRead s (gOf s a).toNat 64 64 with
    | .inr f => addFault s f
    | .inl b =>
      match engineNameFault s (mlRname b) false [4, 5], engineNameFault s (mlSname b) true [2] with
      | some f, _ => addFault s f
      | none, some f => addFault s f
      | none, none =>
        let n := mlK b * tySize (mlXty b)
        if mlBad b then addFault s (coxIllegal s)
        else if mlXoff b % 16 ≠ 0 then addFault s (slotFault s .perm 3 (BitVec.ofNat 64 (mlXoff b)))
        else
          let s := readLs s s.cur.ctx (mlXoff b) n
          match issueBytes s (mlXoff b) n with
          | .inr f => addFault s f
          | .inl x => queueMill s b x

/-! ## The mill reads W and the scales (12 R318; 10 R266) -/

/-- What a mill reads, the cause number of R318 with which a line fails, its address and its translation code, or the line that a
walk waits for. -/
inductive MillGot where
  | got (b : List Byte)
  | bad (cause : Nat) (va : Dword) (code : Nat)
  | waits (line : Nat)
  deriving DecidableEq, Repr
/-- Bytes of one line as the stack holds them: a mill never sees what an L2 holds dirty (12 R318; 10 R266). -/
def stackLine (s : State) (line : Nat) : (List Byte × Bool) × State :=
  let s := readHbm s line
  ((memLine s line, mgetD s.poison line false), s)
/-- The part of a row that lies in one line; stk is the one stack that every line must lie in. -/
def millPart (s : State) (j : MillJob) (die : Nat) (stk : Option Nat) (va n : Nat) : MillGot × Option Nat × State :=
  let a := BitVec.ofNat 64 va
  if 2 ^ 64 < va + n ∨ !canonAccess a n then (.bad 1 a 0, stk, s)
  else
    match walk s die j.asid j.cls a { r := true } with
    | .waits line => (.waits line, stk, s)
    | .bad c code => (.bad (if c = .perm then 3 else 2) a code, stk, s)
    | .ok t =>
      let pa := xlatPa t a
      let k := bitsN pa 36 3
      if t.kind ≠ 1 ∨ bitsN pa 45 7 ≠ ownEp s ∨ k / 2 ≠ die ∨ stk.getD k ≠ k then (.bad 5 a 0, stk, s)
      else
        let r := stackLine s (pa / 128)
        (if r.1.2 then .bad 4 a 0 else .got (sliceB r.1.1 (pa % 128) n), some k, r.2)
/-- Some parts in turn; the first that fails decides. -/
def millParts (j : MillJob) (die : Nat) : List (Nat × Nat) → Option Nat → State → MillGot × Option Nat × State
  | [], stk, s => (.got [], stk, s)
  | (va, n) :: t, stk, s =>
    match millPart s j die stk va n with
    | (.got b, stk, s) =>
      match millParts j die t stk s with
      | (.got b', stk, s) => (.got (b ++ b'), stk, s)
      | r => r
    | r => r
/-- The lines of n bytes from an address. -/
def vaParts (va n : Nat) : List (Nat × Nat) := (cutRuns 0 [(va, n)]).map Prod.snd
/-- Why a mill does not compute: a line failed, or a walk waits. -/
inductive MillStop where
  | bad (cause : Nat) (va : Dword) (code : Nat)
  | waits (line : Nat)
  deriving DecidableEq, Repr
/-- The rows in turn. -/
def millRows (j : MillJob) (die : Nat) : List Nat → Option Nat → State → (List (List Byte) ⊕ MillStop) × Option Nat × State
  | [], stk, s => (.inl [], stk, s)
  | r :: t, stk, s =>
    match millParts j die (vaParts (mlWva j.desc + r * mlPitch j.desc) (mlRowBytes j.desc)) stk s with
    | (.bad c a x, stk, s) => (.inr (.bad c a x), stk, s)
    | (.waits l, stk, s) => (.inr (.waits l), stk, s)
    | (.got b, stk, s) =>
      match millRows j die t stk s with
      | (.inr e, stk, s) => (.inr e, stk, s)
      | (.inl l, stk, s) => (.inl (b :: l), stk, s)
/-- W and the row scales. -/
def millRead (s : State) (j : MillJob) : (List (List Byte) × List Byte ⊕ MillStop) × State :=
  let die := dieOf j.core
  match millRows j die (List.range (mlRows j.desc)) none s with
  | (.inr e, _, s) => (.inr e, s)
  | (.inl w, stk, s) =>
    if mlWsva j.desc = 0 then (.inl (w, []), s)
    else
      match millParts j die (vaParts (mlWsva j.desc) (mlRows j.desc)) stk s with
      | (.bad c a x, _, s) => (.inr (.bad c a x), s)
      | (.waits l, _, s) => (.inr (.waits l), s)
      | (.got b, _, s) => (.inl (w, b), s)

/-! ## The GEMV (12 R317) -/

/-- x with its scale. -/
def millX (j : MillJob) : List Num :=
  let ty := mlXty j.desc
  let sc := valOf 27 false false (mlXsc j.desc)
  (List.range (mlK j.desc)).map fun k => (mulNum (elemOf ty (mlInf j.desc) (j.x.drop (k * tySize ty)) 0) sc).1.quiet
/-- The elements of a row of W with its scale. -/
def millW (j : MillJob) (row : List Byte) (sc : Num) : List Num :=
  let ty := mlWty j.desc
  let raw := if ty = 26 then row.flatMap fun y => (List.range 5).map fun i => Num.ofInt (tritVal (tritOf y.toNat i))
    else row.map fun y => (valOf ty (mlInf j.desc) false y.toNat).quiet
  raw.map fun v => (mulNum v sc).1.quiet
/-- y[n]: the groups in turn, each rounded once. -/
def millDot (g : Nat) : Nat → List Num → List Num → Dword → Dword
  | 0, _, _, y => y
  | k + 1, w, x, y =>
    let s := dotSum 0 (List.zip (w.take g) (x.take g)) (accVal 0 y)
    millDot g k (w.drop g) (x.drop g) (accRound 0 s.1).1
/-- The elements of y. -/
def millY (j : MillJob) (w : List (List Byte)) (sc : List Byte) : List Dword :=
  let g := if mlWty j.desc = 26 then 32 else 16
  let x := millX j
  w.zipIdx.map fun r =>
    let s := if mlWsva j.desc = 0 then Num.fin false 1 0 else valOf 27 false false (fieldB sc r.2 1)
    millDot g (mlK j.desc / g) (millW j r.1 s) x 0
/-- The bytes that are delivered through RNAME: 32 or 64 elements, +0 beyond NROW. -/
def millData (j : MillJob) (y : List Dword) : List Byte :=
  (List.range (if nmWidth (mlRname j.desc) = 4 then 32 else 64)).flatMap fun i => leBytes 4 (y.getD i 0).toNat

/-! ## MILL_COMPLETE (12 R318) -/

/-- Deliver a status word of a mill. -/
def millStatus (s : State) (j : MillJob) (st : Word) : State :=
  if mlSname j.desc = 0 then s else deliverStatus s j.ctx j.unit (mlSname j.desc) j.word st 0
/-- The cause with which a failed mill without a status name halts its context; cause 5 is none of R321's
(notes/assumptions/17.md). -/
def millCause (s : State) (n : Nat) : Cause × State :=
  if n = 1 then (.addrNoncanon, s) else if n = 2 then (.page, s) else if n = 3 then (.perm, s) else if n = 4 then (.poison, s)
  else
    let r := takeFree s
    (causeOfFree r.1.toNat, r.2)
/-- A line failed. -/
def millFails (s : State) (j : MillJob) (n : Nat) (va : Dword) (code : Nat) : State :=
  if mlSname j.desc = 0 then
    let r := millCause s n
    let f := engineRecord r.2 j.ctx j.unit r.1 0 code j.word va
    engineHalt r.2 j.ctx j.unit { f with record := { f.record with off := j.off } }
  else millStatus s j (statusEngine false n)
/-- Drop or change the first job in phase 0 of a stack. -/
def setJob (s : State) (stk : Nat) (f : MillJob → Option MillJob) : State :=
  let rec go : List MillJob → List MillJob
    | [] => []
    | j :: t => if j.phase = 0 then (f j).toList ++ t else j :: go t
  { s with mills := mset s.mills stk (go (mgetD s.mills stk [])) }
/-- Run the first job that waits: read W, and send the result or report the failure. -/
def runMill (s : State) (stk : Nat) (j : MillJob) : State :=
  match millRead s j with
  | (.inr (.bad c va x), s) => millFails (setJob s stk fun _ => none) j c va x
  | (.inr (.waits line), s) => post (walkAsk s (some j.ctx) j.core line) 1 (.millComplete stk)
  | (.inl (w, sc), s) =>
    let s := setJob s stk fun j => some { j with phase := 1 }
    let x := getCtx s j.ctx
    sendLanding s j.ctx
      { name := mlRname j.desc, data := millData j (millY j w sc), width := nmWidth (mlRname j.desc), cls := j.cls
        clock := some (getCore s (ctxCore x)).lc, origin := .engine j.ctx j.unit j.word }
/-- The results that have been delivered: their statuses follow, and the jobs are over. -/
def millsTold (s : State) (stk : Nat) : State :=
  let js := mgetD s.mills stk []
  let s := { s with mills := mset s.mills stk (js.filter fun j => decide (j.phase < 2)) }
  (js.filter fun j => decide (j.phase = 2)).foldl (fun s j => millStatus s j (statusEngine true 0)) s
/-- MILL_COMPLETE (12 R318). -/
def execMillComplete (stk : Nat) (s : State) : Ans :=
  let s := millsTold s stk
  .next (if s.stopped then s else if mgetD s.recal stk false then post s 1 (.millComplete stk) else match (mgetD s.mills stk []).find? fun j => decide (j.phase = 0) with
  | none => s
  | some j => if j.due ≤ s.now then runMill s stk j else s)

end Sys2Proof.Machine
end

