-- ==== Sys2Proof/Machine/Audit.lean ====
section
/-! DEFINITION. The root-of-trust block: measurement registers, image checks, the audit log and attestation
(05 R133 to R143). -/

namespace Sys2Proof.Machine

/-! ## Digests, keys and measurement registers (05 R133, R137, R138) -/

/-- The 48 bytes of a digest, in the order in which SHA-384 gives them. -/
def digestBytes (d : Digest) : List Byte := (List.range 48).map fun i => d.extractLsb' (376 - 8 * i) 8
/-- MRi. -/
def getMr (s : State) (i : Nat) : Digest := mgetD s.mrs i 0
/-- MRi := SHA-384(MRi ‖ D). -/
def extendMr (s : State) (i : Nat) (d : Digest) : State :=
  { s with mrs := mset s.mrs i (Config.sha384 (digestBytes (getMr s i) ++ digestBytes d)) }
/-- CDI0. How MINVER1 enters the key derivation, as 4 little-endian bytes, is the model's choice
(notes/assumptions/23.md). -/
def cdi0 : List Byte := Config.hkdf Config.deviceSecret (digestBytes Config.rootKey ++ leBytes 4 (Config.minVersion 1))
/-- CDI1. -/
def cdi1 (s : State) : List Byte := Config.hkdf cdi0 (digestBytes (getMr s 0) ++ digestBytes (getMr s 2))
/-- The certificate of the Alias key, which the DeviceID key signs (05 R138). -/
def aliasCertificate (s : State) : List Byte :=
  let key := Config.publicKey (cdi1 s)
  key ++ sliceB (Config.sign cdi0 (Config.sha384 key)) 0 96
/-- The certificate chain: Nimian's authority, DeviceID, Alias (05 R139). -/
def certChain (s : State) : List (List Byte) := [Config.caCertificate, Config.deviceCertificate, aliasCertificate s]
/-- An ECDSA signature: the 48 bytes of each of its two integers. -/
def sigBytes (b : List Byte) : List Byte := sliceB b 0 96

/-! ## Images (05 R134, R135) -/

/-- H of an image: its header up to SIG, and its payload. -/
def imageHash (b : List Byte) : Digest := Config.sha384 (sliceB b 0 0xA0 ++ sliceB b 0x100 (fieldB b 0x0C 4))
/-- Every check of R135, and the ranges that R134 gives LENGTH and ENTRY. -/
def imageOk (b : List Byte) (ty : Nat) : Bool :=
  decide (fieldB b 0 4 = 0x39444D4E) && decide (fieldB b 4 2 = ty) && allZeroB (sliceB b 6 2) && allZeroB (sliceB b 0x18 8) &&
    decide (1 ≤ fieldB b 0x0C 4) && decide (fieldB b 0x0C 4 ≤ 2 ^ 26) && decide (fieldB b 0x10 8 < fieldB b 0x0C 4) &&
    allZeroB (sliceB b 0x81 31) && decide (Config.sha384 (sliceB b 0x20 97) = Config.rootKey) &&
    decide (Config.minVersion ty ≤ fieldB b 8 4) && Config.verify (sliceB b 0x20 97) (sliceB b 0xA0 96) (imageHash b)

/-! ## The audit log (05 R140, R142) -/

/-- An entry's 128 bytes. -/
def auditBytes (e : AuditEntry) : List Byte :=
  leBytes 8 e.seq ++ leBytes 8 e.time ++ leBytes 2 e.ty ++ leBytes 2 e.source ++ leBytes 4 0 ++ sliceB e.payload 0 56 ++ digestBytes e.prev
/-- The head: the digest of the newest entry; zero before the first. -/
def auditHead (s : State) : Digest :=
  match s.audit.getLast? with
  | none => 0
  | some e => Config.sha384 (auditBytes e)
/-- Entries that have not been released. -/
def auditUnreleased (s : State) : Nat := s.auditNext - s.auditReleased
/-- Write the next entry; the ring holds the newest 4,096. -/
def auditPut (s : State) (ty source : Nat) (payload : List Byte) : State :=
  let e : AuditEntry := { seq := s.auditNext, time := fabTime s, ty := ty, source := source, payload := sliceB payload 0 56, prev := auditHead s }
  let l := s.audit ++ [e]
  { s with audit := l.drop (l.length - 4096), auditNext := s.auditNext + 1 }
/-- The address at which a supervisor core starts in an image (05 R134, R136): the offset of ENTRY in the file. -/
def imageEntry (b : List Byte) : Nat := 0x100 + fieldB b 0x10 8
/-- Append an entry; a full ring counts the event as lost, and the first entry after it is preceded by a LOSS entry, whose
payload begins with the count in 8 little-endian bytes. Where only one entry is free the LOSS entry takes it, and the event itself is
lost again (both the model's choice, notes/assumptions/130.md). -/
def auditAppend (s : State) (ty source : Nat) (payload : List Byte) : State :=
  let lose (s : State) : State := { s with auditDropped := s.auditDropped + 1, auditLost := s.auditLost + 1 }
  if 4096 ≤ auditUnreleased s then lose s
  else
    let s := if s.auditLost = 0 then s else { (auditPut s 0x000A 0 (leBytes 8 s.auditLost)) with auditLost := 0 }
    if 4096 ≤ auditUnreleased s then lose s else auditPut s ty source payload
/-- 56 free bytes: what the payload of an entry holds where the spec does not say (notes/assumptions/23.md). -/
def auditFree (s : State) (ty : Nat) : State :=
  let b := freeBytes s 56
  auditAppend b.2 ty 0 b.1
/-- AUD_CTL.RESULT. -/
def audResult (s : State) (r : Nat) : State := ctlPut s 0x0740 28 3 r
/-- AUD_SEQ. -/
def audSeq (s : State) : Nat := ctlGet s 0x0748
/-- AUD_ADDR, aligned to 128 bytes. -/
def audAddr (s : State) : Nat := ctlGet s 0x0750 / 128 * 128
/-- AUD_APPEND (05 R141): the TYPE in AUD_IN must be one of firmware's. -/
def execAudAppend (core : Nat) (s : State) : Ans :=
  let ty := fieldB s.audIn 0 2
  .next (if ty < 0x0100 then audResult s 1 else audResult (auditAppend s ty (core + 1) (sliceB s.audIn 8 56)) 0)
/-- AUD_RELEASE (05 R142): up to the last SEQ of the most recent export. -/
def execAudRelease (s : State) : Ans :=
  .next (if s.auditExported.any fun e => decide (audSeq s ≤ e) then
      audResult { s with auditReleased := max s.auditReleased (audSeq s + 1) } 0
    else audResult s 3)
/-- The 256 bytes of an export record. The order in which it holds its fields and what fills it up are the model's
(notes/assumptions/23.md). -/
def exportRecord (s : State) : List Byte :=
  let body := digestBytes (auditHead s) ++ leBytes 8 s.auditReleased ++ leBytes 8 (s.auditNext - 1) ++ leBytes 32 s.audNonce.toNat ++
    leBytes 8 s.auditDropped
  sliceB (body ++ sigBytes (Config.sign cdi0 (Config.sha384 body))) 0 256
/-- AUD_EXPORT (05 R143). -/
def execAudExport (s : State) : Ans :=
  let last := s.auditNext - 1
  let s := hwWrite s (audAddr s) (exportRecord s)
  .next (audResult (auditFree { s with auditExported := some last } 0x000B) 0)
/-- AUD_READ (05 R141). -/
def execAudRead (s : State) : Ans :=
  .next (match s.audit.find? fun e => decide (e.seq = audSeq s) with
  | none => audResult s 2
  | some e => audResult (hwWrite s (audAddr s) (auditBytes e)) 0)

/-! ## Extension by the supervisor, and attestation (05 R137, R139) -/

/-- RTB_EXTEND: a write of RTB_EXT_CTL (05 R137). -/
def execRtbExtend (val : Word) (s : State) : Ans :=
  let idx := bitsN val.toNat 0 3
  let s := ctlPut s 0x09B0 0 3 idx
  .next (if !val.getLsbD 31 then s
    else if idx < 4 then ctlPut (ctlPut s 0x09B0 29 1 1) 0x09B0 30 1 0
    else ctlPut (ctlPut (extendMr s idx s.extData) 0x09B0 29 1 0) 0x09B0 30 1 1)
/-- SPDM_GET_MEASUREMENTS (05 R139): the blocks, signed with the Alias key over the requester's nonce, with the
certificate chain. The order and the encoding of what the signature covers are the model's choice (notes/assumptions/23.md). -/
def execSpdmGetMeasurements (requester : Nat) (nonce : BitVec 256) (s : State) : Ans :=
  let mrs := (List.range 8).map (getMr s)
  let last := s.auditNext - 1
  let body := leBytes 32 nonce.toNat ++ mrs.flatMap digestBytes ++ digestBytes (auditHead s) ++ leBytes 8 last
  .next (emit s (.measurements requester nonce mrs (auditHead s) last (sigBytes (Config.sign (cdi1 s) (Config.sha384 body))) (certChain s)))

end Sys2Proof.Machine
end

