-- ==== Sys2Proof/Machine/Fabric.lean ====
section
/-! DEFINITION. The optical fabric: plans and their switches, packets, acknowledgement and replay, weak channels, keys,
heartbeats and budgets (02 R33 to R54). What a lost peer or cell brings is in Machine/Cells.lean. -/

namespace Sys2Proof.Machine

/-! ## Channels (02 R35, R39, R44) -/

/-- A transmitter or receiver entry keeps its tuning through the switch in progress. -/
def entryStays (now : Map Nat) (new : Option (Map Nat)) (k : Nat) : Bool :=
  match new with
  | none => true
  | some m => decide (mget? m k = mget? now k)
/-- A port has an entry tuned to a peer. -/
def tuned (now : Map Nat) (new : Option (Map Nat)) (port peer : Nat) : Bool :=
  now.any fun e => decide (e.1 / 16 = port) && decide (e.2 = peer) && entryStays now new e.1
/-- Ports over which packets to a peer are sprayed. -/
def txPorts (s : State) (ep : Nat) : List Nat :=
  (List.range 16).filter fun n => tuned s.planActive.tx (s.switching.map Plan.tx) n ep && decide ((ep, n) ∉ s.removed)
/-- A receiver of a port is tuned to a peer. -/
def rxTuned (s : State) (plane ep : Nat) : Bool :=
  tuned s.planActive.rx (if s.rxMoved then s.switching.map Plan.rx else none) plane ep
/-- FAB_STAT: set a field. -/
def fabStat (s : State) (lo w v : Nat) : State := ctlPut s 0x0120 lo w v
/-- Every stream to every peer may send. -/
def transmitAll (s : State) : State :=
  s.sess.foldl (fun s e => e.2.streams.foldl (fun s k => if k.2.waiting.isEmpty then s else post s 0 (.fabPacketTransmit e.1 k.1)) s) s

/-! ## Sending (02 R41 to R43, R48 to R50) -/

/-- The number of a key: sender, receiver, session tag, and which of the session's keys; 0 is the heartbeat key. -/
def keyNum (src dst tag gen : Nat) : Nat := src + 128 * (dst + 128 * (tag + 65536 * gen))
/-- The key generation in a slot. -/
def Session.gen (x : Session) (slot : Bool) : Nat := if slot then x.gen1 else x.gen0
/-- The counter of the slot used for sending. -/
def Session.ctr (x : Session) : Nat := if x.kslot then x.pctr1 else x.pctr0
/-- The counter value that is never used (02 R50). -/
def lastCtr : Nat := 2 ^ 48 - 1
/-- Replace a session. -/
def putSess (s : State) (ep : Nat) (x : Session) : State := { s with sess := mset s.sess ep x }
/-- Change a session that is live. -/
def modSess (s : State) (ep : Nat) (f : Session → Session) : State :=
  match mget? s.sess ep with
  | none => s
  | some x => putSess s ep (f x)
/-- A stream of a session. -/
def Session.stream (x : Session) (k : Nat) : Stream := mgetD x.streams k {}
/-- Change a stream. -/
def Session.modStream (x : Session) (k : Nat) (f : Stream → Stream) : Session := { x with streams := mset x.streams k (f (x.stream k)) }
/-- The salt of a key slot, for sending or for receiving. -/
def Session.txSalt (x : Session) (slot : Bool) : BitVec 32 := if slot then x.txSalt1 else x.txSalt0
/-- See Session.txSalt. -/
def Session.rxSalt (x : Session) (slot : Bool) : BitVec 32 := if slot then x.rxSalt1 else x.rxSalt0
/-- The IV: the salt, 16 zero bits and PCTR (02 R48). -/
def ivOf (salt : BitVec 32) (pctr : Nat) : BitVec 96 := salt ++ (0 : BitVec 16) ++ BitVec.ofNat 48 pctr
/-- The header as a 128-bit little-endian value; its reserved bits are 0 (02 R41). -/
def packetHeader (p : Packet) : BitVec 128 :=
  BitVec.ofNat 24 0 ++ BitVec.ofNat 16 p.pseq ++ BitVec.ofNat 48 p.pctr ++ BitVec.ofNat 1 0 ++ BitVec.ofNat 7 p.src ++ BitVec.ofNat 1 0 ++
    BitVec.ofNat 7 p.dst ++ BitVec.ofNat 4 p.ndata ++ BitVec.ofNat 3 p.stream ++ BitVec.ofBool p.kslot ++ BitVec.ofNat 16 p.stag
/-- The 32 bytes of the header flit: the header in the clear, then the tag. -/
def headerFlit (p : Packet) : List Byte := leBytes 16 (packetHeader p).toNat ++ leBytes 16 p.tag.toNat
/-- A counter of the slot in use passes 2^47 with this step (02 R49). -/
def ctrPassed (s : State) (ep old new : Nat) : State :=
  if old ≤ 2 ^ 47 ∧ 2 ^ 47 < new then fabStat (modSess s ep fun x => { x with rot := true }) 9 1 1 else s
/-- The packet that a session sends next on a stream, with a payload and a sequence number. -/
def nextPacket (s : State) (ep : Nat) (x : Session) (stream pseq : Nat) (m : Msg) : Packet :=
  let ctl := decide (stream = 7)
  let key := keyNum (ownEp s) ep x.tag (if ctl then 0 else x.gen x.kslot)
  let iv := if ctl then ivOf 0 x.hbCtr else ivOf (x.txSalt x.kslot) x.ctr
  let p : Packet :=
    { pseq := pseq, pctr := if ctl then x.hbCtr else x.ctr, src := ownEp s, dst := ep, ndata := msgFlits m, stream := stream
      kslot := x.kslot, stag := x.tag, tag := 0, payload := m, crypt := if ctl then none else some { key := key, iv := iv } }
  { p with tag := Config.packetTag key iv (packetHeader p) m }
/-- Flit times since power-on, in which each channel sends one flit (02 R35). -/
def flitNow (s : State) : Nat := s.now * 125 / 288
/-- Flits queued on a channel to a peer. -/
def queuedFlits (s : State) (ep port : Nat) : Nat := mgetD s.chanQ (16 * ep + port) 0 - flitNow s
/-- Queue a packet of n flits on a channel. -/
def queueFlits (s : State) (ep port n : Nat) : State :=
  { s with chanQ := mset s.chanQ (16 * ep + port) (max (flitNow s) (mgetD s.chanQ (16 * ep + port) 0) + n) }
/-- A packet leaves on a plane, and its key's counter rises. -/
def launchPacket (s : State) (ep stream pseq plane : Nat) (m : Msg) : State :=
  match mget? s.sess ep with
  | none => s
  | some x =>
    let p := nextPacket s ep x stream pseq m
    let s := putSess s ep (if stream = 7 then { x with hbCtr := x.hbCtr + 1 }
      else if x.kslot then { x with pctr1 := x.pctr1 + 1 } else { x with pctr0 := x.pctr0 + 1 })
    let s := emit (queueFlits s ep plane (1 + p.ndata)) (.packet plane p)
    if stream = 7 then s else ctrPassed s ep x.ctr (x.ctr + 1)
/-- Data traffic to a peer stops at the end of its counter (02 R50). -/
def stopTraffic (s : State) (ep : Nat) : State := fabStat (modSess s ep fun x => { x with halted := true }) 10 1 1
/-- The plane of some, in ascending order, with the fewest flits queued toward a peer; the lowest port wins a tie (02 R43). -/
def pickPlane (s : State) (ep : Nat) (l : List Nat) : Nat :=
  (l.foldl (fun (m : Option Nat) n => match m with
    | none => some n
    | some k => if queuedFlits s ep n < queuedFlits s ep k then some n else some k) none).getD 0
/-- An SPDM message leaves on stream 6 with STAG 0, without protection of the packet (02 R42). -/
def sendSpdm (s : State) (ep : Nat) (m : Spdm) : State :=
  match txPorts s ep with
  | [] => s
  | ports =>
    let n := pickPlane s ep ports
    let k := mgetD s.spdmSeq ep 0
    let p : Packet :=
      { pseq := k, pctr := 0, src := ownEp s, dst := ep, ndata := msgFlits (.spdm m), stream := 6, kslot := false, stag := 0, tag := 0
        payload := .spdm m }
    emit (queueFlits { s with spdmSeq := mset s.spdmSeq ep ((k + 1) % 65536) } ep n (1 + p.ndata)) (.packet n p)
/-- Bytes per period that a context may inject; none is no limit (02 R52). -/
def budgetOf (x : Ctx) : Option Nat :=
  let b := bitsN x.fabcfg.toNat 16 16
  if b = 0xFFFF then none else some (8192 * b)
/-- A waiting message is admitted: it is charged to no context, or its context has budget left. -/
def admitted (s : State) (stream : Nat) (w : Option Nat × Msg) : Bool :=
  match w.1 with
  | none => true
  | some c =>
    if stream = 0 ∨ stream = 3 then (budgetOf (getCtx s c)).all fun b => decide ((getCtx s c).fabCharge < b) else true
/-- Charge a packet to its context. -/
def chargePacket (s : State) (stream : Nat) (w : Option Nat × Msg) : State :=
  match w.1 with
  | none => s
  | some c =>
    if (stream = 0 ∨ stream = 3) ∧ (mget? s.ctxs c).isSome then
      modCtx s c fun x => { x with fabCharge := x.fabCharge + 32 * (1 + msgFlits w.2) }
    else s
/-- FAB_PACKET_TRANSMIT (02 R43, R50, R52): the first waiting packet that is admitted goes out. -/
def execFabPacketTransmit (ep stream : Nat) (s : State) : Ans :=
  .next (match mget? s.sess ep with
  | none => s
  | some x =>
    let st := x.stream stream
    let ports := txPorts s ep
    if ports.isEmpty || (decide (stream < 4) && (x.halted || decide (64 ≤ st.unacked.length))) then s
    else if stream < 4 ∧ x.ctr = lastCtr then stopTraffic s ep
    else
      match st.waiting.find? (admitted s stream) with
      | none => s
      | some w =>
        let n := pickPlane s ep ports
        let pseq := st.nextSeq % 65536
        let s := launchPacket (chargePacket s stream w) ep stream pseq n w.2
        let sent (st : Stream) : Stream :=
          { st with nextSeq := st.nextSeq + 1, waiting := st.waiting.erase w
                    unacked := if stream < 4 then st.unacked ++ [(n, nextPacket s ep x stream pseq w.2)] else st.unacked }
        let s := modSess s ep fun x => x.modStream stream sent
        let s := if stream < 4 then post s 3600 (.replayTimeout ep stream pseq) else s
        if st.waiting.length ≤ 1 then s else post s 0 (.fabPacketTransmit ep stream))
/-- Send a message on stream 7 over one plane at once. -/
def sendControl (s : State) (ep plane : Nat) (m : Msg) : State :=
  match mget? s.sess ep with
  | none => s
  | some x =>
    let pseq := (x.stream 7).nextSeq % 65536
    modSess (launchPacket s ep 7 pseq plane m) ep fun x => x.modStream 7 fun st => { st with nextSeq := st.nextSeq + 1 }

/-! ## Acknowledgement and replay (02 R43) -/

/-- A packet that is not acknowledged goes out again, on another channel where there is one. -/
def replay (s : State) (ep stream pseq : Nat) : State :=
  match mget? s.sess ep with
  | none => s
  | some x =>
    match (x.stream stream).unacked.find? fun u => decide (u.2.pseq = pseq) with
    | none => s
    | some u =>
      let s := post s 3600 (.replayTimeout ep stream pseq)
      let ports := txPorts s ep
      let others := ports.filter fun n => decide (n ≠ u.1)
      if x.halted || ports.isEmpty then s
      else if x.ctr = lastCtr then stopTraffic s ep
      else
        let n := pickPlane s ep (if others.isEmpty then ports else others)
        let s := launchPacket s ep stream pseq n u.2.payload
        modSess s ep fun x => x.modStream stream fun st =>
          { st with unacked := st.unacked.map fun v => if v.2.pseq = pseq then (n, v.2) else v }
/-- REPLAY_TIMEOUT: 2 µs without an acknowledgement. -/
def execReplayTimeout (ep stream pseq : Nat) (s : State) : Ans := .next (replay s ep stream pseq)
/-- The distance of a sequence number from a base. -/
def seqDist (pseq base : Nat) : Nat := (pseq + 65536 - base % 65536) % 65536
/-- SELECTIVE_ACK: packets that it shows received are done, and those that it shows missing behind three later ones are
replayed. -/
def execSelectiveAck (ep stream base : Nat) (bitmap : BitVec 64) (s : State) : Ans :=
  .next (match mget? s.sess ep with
  | none => s
  | some x =>
    let got (p : Packet) : Bool := let d := seqDist p.pseq base; decide (32768 ≤ d) || (decide (d < 64) && bitmap.getLsbD d)
    let left := (x.stream stream).unacked.filter fun u => !got u.2
    let lost := left.filter fun u =>
      decide (3 ≤ ((List.range 64).countP fun k => bitmap.getLsbD k && decide (seqDist u.2.pseq base < k)))
    let s := modSess s ep fun x => x.modStream stream fun st => { st with unacked := left }
    let s := lost.foldl (fun s u => replay s ep stream u.2.pseq) s
    post s 0 (.fabPacketTransmit ep stream))
/-- Send the selective acknowledgement of a stream. -/
def sendAckFor (s : State) (ep stream : Nat) : State :=
  match mget? s.sess ep with
  | none => s
  | some x =>
    let st := x.stream stream
    let bits := (List.range 64).foldl
      (fun (m : BitVec 64) k => if (st.rxBase + k) % 65536 ∈ st.rxSeen then m ||| BitVec.ofNat 64 (2 ^ k) else m) 0
    sendMsg (modSess s ep fun x => x.modStream stream fun st => { st with rxSinceAck := 0 }) ep none (.selack stream st.rxBase bits)
/-- ACK_TIMER: 500 ns after the first arrival that is not acknowledged. -/
def execAckTimer (ep stream : Nat) (s : State) : Ans :=
  .next (match mget? s.sess ep with
  | none => s
  | some x => if (x.stream stream).rxSinceAck = 0 then s else sendAckFor s ep stream)

/-! ## Receiving (02 R41 to R45, R47 to R49) -/

/-- Count a dropped packet in FAB_DROPS: TAGDROP, or AUTHDROP. -/
def dropPacket (s : State) (tag : Bool) : State := ctlCount s 0x0124 (if tag then 16 else 0) 16 1
/-- An instance has failed: every context with a unit that waits in an arrival passing a test halts (07 R197). -/
def hbarFailed (s : State) (p : HArrival → Bool) : State :=
  let waits (t : Thread) : Bool := anySlot t (hWaits p)
  let cs := (s.ctxs.filter fun e => e.2.units.any fun u => waits u.2).map Prod.fst
  cs.foldl (fun s c =>
    let u := ((unitKeys s c).find? fun u => waits (getUnit s c u)).getD 0
    engineFault s c u .cellLost 0 0) s
/-- The answer is to this arrival of this endpoint. -/
def sameSent (x a : HArrival) : Bool :=
  sameKey x a && (if a.kind = .waiter then decide (x.kind = .waiter) && sameEngine x a else decide (x.kind = .now) && sameFerry x a)
/-- The home says that an instance has completed for one of its arrivals or engines, or that it has failed. -/
def hbarTold (s : State) (a : HArrival) : State :=
  if a.kind = .discard then
    hbarFailed { s with hsent := s.hsent.filter fun x => !sameKey x a } fun h => sameKey h a && decide (h.home = a.home)
  else
    let mine := s.hsent.filter fun x => sameSent x a
    mine.foldl (fun s x => hRelease s (if sameCell s a.home then some a.clock else none) x)
      { s with hsent := s.hsent.filter fun x => !sameSent x a }
/-- A message reaches the protocol engines. -/
def takeMsg (s : State) (ep : Nat) (m : Msg) : State :=
  match m with
  | .rds m => post s 0 (.rds m) | .rdown m => post s 0 (.rdown m) | .wrbk m => post s 0 (.wrbk m) | .data m => post s 0 (.data m)
  | .refuse m => post s 0 (.refuse m) | .cmp m => post s 0 (.cmp m) | .cmpack m => post s 0 (.cmpack m) | .inv m => post s 0 (.inv m)
  | .fwds m => post s 0 (.fwds m) | .fwdown m => post s 0 (.fwdown m) | .fwdrec m => post s 0 (.fwdrec m)
  | .binv m => post s 0 (.binv m) | .ack m => post s 0 (.ack m)
  | .drds m => post s 0 (.drds m) | .drdown m => post s 0 (.drdown m) | .ddata m => post s 0 (.ddata m)
  | .dfwds m => post s 0 (.dfwds m) | .dfwdown m => post s 0 (.dfwdown m) | .dack m => post s 0 (.dack m)
  | .drecall m => post s 0 (.drecall m) | .dwrbk m => post s 0 (.dwrbk m) | .dcmp m => post s 0 (.dcmp m)
  | .land m => post s 0 (.landingStore m)
  | .landResult tid res => landAnswer s tid res
  | .lreq m => post s 0 (.lreqRead m)
  | .lreqResult tid res => landAnswer s tid res
  | .atomic m => post s 0 (.homeAtomic m)
  | .atomicResult tid old res => atomicAnswer s tid old res
  | .harrive a => post s 0 (.hbarArrival a)
  | .hdone a => hbarTold s a
  | .selack stream base bits => post s 0 (.selectiveAck ep stream base bits)
  | .heartbeat time cell plan leaving clock => post s 0 (.heartbeat ep time cell plan leaving clock)
  | .channelNotice plane => post s 0 (.channelNotice ep plane)
  | .sessionEnd => post s 0 (.sessionEndNotice ep)
  | .spdm m => post s 0 (.spdmMessage ep m)
/-- The packet's tag is the one that a key of the session gives, and its data flits are sealed under that key, or in the clear on
stream 7. -/
def tagOk (s : State) (x : Session) (p : Packet) (gen : Nat) : Bool :=
  let key := keyNum p.src (ownEp s) x.tag gen
  let ctl := decide (p.stream = 7)
  let iv := ivOf (if ctl then 0 else x.rxSalt p.kslot) p.pctr
  decide (p.tag = Config.packetTag key iv (packetHeader p) p.payload) && decide (p.crypt = if ctl then none else some { key := key, iv := iv })
/-- An authenticated packet restarts the silence timer. -/
def hearPeer (s : State) (ep : Nat) : State := modSess s ep fun x => { x with heard := s.now }
/-- The first packet under a new key: the old slot is accepted for 100 µs more (02 R49). -/
def takeSlot (s : State) (ep : Nat) (slot : Bool) : State :=
  match mget? s.sess ep with
  | none => s
  | some x =>
    if x.rxSlot = slot then s
    else if x.installed then
      post (putSess s ep { x with rxSlot := slot, rxOld := true, installed := false, rxTop := 0, oldTill := s.now + 180000 }) 180000
        (.oldKeySlotRetire ep)
    else s
/-- The highest counter that has come in under the slot in use. -/
def topPassed (s : State) (ep : Nat) (p : Packet) : State :=
  match mget? s.sess ep with
  | none => s
  | some x =>
    if x.rxSlot ≠ p.kslot then s
    else ctrPassed (putSess s ep { x with rxTop := max x.rxTop p.pctr }) ep x.rxTop p.pctr
/-- A slot may be used by the sender: the one in use, the one with the newly installed key, or the old one for a while. -/
def slotOk (x : Session) (slot : Bool) : Bool := decide (x.rxSlot = slot) || x.installed || x.rxOld
/-- The base moves over what has been received. -/
def advanceBase : Nat → Stream → Stream
  | 0, st => st
  | n + 1, st =>
    if st.rxBase ∈ st.rxSeen then advanceBase n { st with rxBase := (st.rxBase + 1) % 65536, rxSeen := st.rxSeen.erase st.rxBase } else st
/-- A data packet of streams 0 to 3 that has passed its checks. -/
def takeData (s : State) (ep : Nat) (p : Packet) : State :=
  match mget? s.sess ep with
  | none => s
  | some x =>
    let st := x.stream p.stream
    let again := decide (32768 ≤ seqDist p.pseq st.rxBase) || decide (p.pseq ∈ st.rxSeen)
    let seen (st : Stream) : Stream :=
      let st := { st with rxSinceAck := st.rxSinceAck + 1 }
      if again then st else advanceBase 65536 { st with rxSeen := st.rxSeen ++ [p.pseq] }
    let s := modSess s ep fun x => x.modStream p.stream seen
    let s := if 16 ≤ st.rxSinceAck + 1 then sendAckFor s ep p.stream
      else if st.rxSinceAck = 0 then post s 900 (.ackTimer ep p.stream) else s
    if again then s else takeMsg s ep p.payload
/-- FAB_PACKET_RECEIVE: a packet on a plane, from the peer that the receiver is tuned to. -/
def execFabPacketReceive (plane chanPeer : Nat) (p : Packet) (s : State) : Ans :=
  .next (if !rxTuned s plane chanPeer || decide (p.dst ≠ ownEp s) || decide (8 < p.ndata) || decide (chanPeer ≠ p.src) then s
    else if p.stream = 4 ∨ p.stream = 5 then dropPacket s false
    else if p.stream = 6 then
      match p.payload with
      | .spdm m => if p.stag = 0 then post s 0 (.spdmMessage p.src m) else s
      | _ => s
    else
      match mget? s.sess p.src with
      | none => dropPacket s true
      | some x =>
        if p.stag ≠ x.tag then dropPacket s true
        else if p.stream = 7 then
          if tagOk s x p 0 then takeMsg (hearPeer s p.src) p.src p.payload else dropPacket s false
        else if !slotOk x p.kslot || !tagOk s x p (x.gen p.kslot) then dropPacket s false
        else takeData (topPassed (takeSlot (hearPeer s p.src) p.src p.kslot) p.src p) p.src p)
/-- CHANNEL_ERROR_WINDOW (02 R44): a weak channel is removed at the receiver, which tells the sender. -/
def execChannelErrorWindow (ep plane symbols corrected uncorrectable : Nat) (s : State) : Ans :=
  .next (if (symbols < corrected * 100000 ∨ 4 ≤ uncorrectable) ∧ rxTuned s plane ep ∧ sessLive s ep ∧ (ep, plane) ∉ s.removedRx then
      fabStat (sendMsg { s with removedRx := s.removedRx ++ [(ep, plane)] } ep none (.channelNotice plane)) 8 1 1
    else s)
/-- CHANNEL_NOTICE: the sender sprays on that channel no more. -/
def execChannelNotice (ep plane : Nat) (s : State) : Ans :=
  .next (if (ep, plane) ∈ s.removed then s else { s with removed := s.removed ++ [(ep, plane)] })

/-! ## Plans (02 R36 to R40) -/

/-- The entries of one half of a plan image: valid entries with their peers, by 16 * port + index. -/
def planHalf (b : List Byte) (off : Nat) : Map Nat :=
  (List.range 256).filterMap fun k =>
    let e := fieldB b (off + 2 * k) 2
    if bitN e 15 then some (k, bitsN e 0 7) else none
/-- Two entries of one port name the same peer, and so the same channel. -/
def planTwice (m : Map Nat) : Bool := m.any fun e => m.any fun f => decide (e.1 < f.1) && decide (e.1 / 16 = f.1 / 16) && decide (e.2 = f.2)
/-- A reserved field of a plan image is not zero. -/
def planReserved (b : List Byte) : Bool :=
  bitN (fieldB b 2 1) 7 || !allZeroB (sliceB b 3 61) || (List.range 512).any fun k => decide (bitsN (fieldB b (0x40 + 2 * k) 2) 7 8 ≠ 0)
/-- PERR of a LOAD (02 R38). -/
def planCheck (s : State) (b : List Byte) : Nat :=
  let self := bitsN (fieldB b 2 1) 0 7
  let tx := planHalf b 0x40
  let rx := planHalf b 0x240
  if self ≠ ownEp s ∨ ctlField s 0x0000 7 1 = 0 then 1
  else if (tx ++ rx).any fun e => decide (e.2 = self) then 2
  else if planTwice tx then 3
  else if planTwice rx then 4
  else if planReserved b then 5
  else if fieldB b 0 2 = 0 then 6
  else if s.armed.isSome then 7
  else 0
/-- The physical address of the image. -/
def planAddr (s : State) : Nat := ctlField s 0x0104 0 20 * 2 ^ 32 + ctlField s 0x0100 6 26 * 64
/-- LOAD: the state, and whether the image was accepted. -/
def loadPlan (s : State) : State × Bool :=
  let b := hwRead s (planAddr s) 1088
  let k := planCheck s b
  let s := fabStat s 11 3 k
  if k ≠ 0 then (s, false)
  else (fabStat { s with planPending := some { id := fieldB b 0 2, tx := planHalf b 0x40, rx := planHalf b 0x240 } } 15 1 1, true)
/-- FAB_PLAN_LOAD (02 R38). -/
def execFabPlanLoad (s : State) : Ans := .next (loadPlan s).1
/-- Cycles until fabric time reaches a value. -/
def untilFab (s : State) (t : Nat) : Nat := ((t - fabTime s) * 288 + 124) / 125
/-- FAB_SWITCH. -/
def switchTime (s : State) : Nat := ctlGet s 0x0114 * 2 ^ 32 + ctlGet s 0x0110
/-- SWITCH: arm a switch to the pending plan. -/
def armSwitch (s : State) : State :=
  if s.planPending.isNone then fabStat s 11 3 7
  else if s.armed.isSome then fabStat s 11 3 0
  else
    let t := switchTime s
    post (fabStat (fabStat { s with armed := some t } 14 1 1) 11 3 0) (untilFab s t) .planSwitchTime
/-- FAB_PLAN_SWITCH (02 R40). -/
def execFabPlanSwitch (s : State) : Ans := .next (armSwitch s)
/-- FAB_TIME_LO_READ (02 R40): the high half is latched. -/
def execFabTimeLoRead (s : State) : Ans := .next { s with timeLatch := BitVec.ofNat 32 (fabTime s / 2 ^ 32) }
/-- PLAN_SWITCH_TIME (02 R39): transmitters whose entries change stop and retune. -/
def execPlanSwitchTime (s : State) : Ans :=
  .next (match s.armed, s.switching with
  | some t, none =>
    if fabTime s < t then post s (max 1 (untilFab s t)) .planSwitchTime
    else post (post { s with switching := s.planPending, rxMoved := false } 90 .planSwitchRxRetune) 360 .planSwitchDone
  | _, _ => s)
/-- PLAN_SWITCH_RX_RETUNE: receivers whose entries change leave their old channels. -/
def execPlanSwitchRxRetune (s : State) : Ans := .next (if s.switching.isSome then { s with rxMoved := true } else s)
/-- A plan names a channel. -/
def planNames (m : Map Nat) (c : Nat × Nat) : Bool := m.any fun e => decide (e.1 / 16 = c.2) && decide (e.2 = c.1)
/-- PLAN_SWITCH_DONE: the switch is complete, and logged as a service operation (05 R147). -/
def execPlanSwitchDone (s : State) : Ans :=
  .next (match s.switching with
  | none => s
  | some p =>
    let s : State :=
      { s with planActive := p, planPending := none, armed := none, switching := none, rxMoved := false
               removed := s.removed.filter fun c => !planNames p.tx c
               removedRx := s.removedRx.filter fun c => !planNames p.rx c }
    auditFree (transmitAll (fabStat (fabStat (fabStat s 16 16 p.id) 15 1 0) 14 1 0)) 0x0009)

/-! ## Keys (02 R49, R50) -/

/-- SPDM_KEY_UPDATE: both ends have a new key in the idle slot; this sender uses it from now on, and stopped traffic
resumes. -/
def execSpdmKeyUpdate (ep : Nat) (s : State) : Ans :=
  .next (match mget? s.sess ep with
  | none => s
  | some x =>
    let g := max x.gen0 x.gen1 + 1
    let x := { x with kslot := !x.kslot, halted := false, rot := false, installed := true, rxOld := false }
    let tx := Config.sessionSalt (keyNum (ownEp s) ep x.tag g)
    let rx := Config.sessionSalt (keyNum ep (ownEp s) x.tag g)
    let x := if x.kslot then { x with pctr1 := 0, gen1 := g, txSalt1 := tx, rxSalt1 := rx }
      else { x with pctr0 := 0, gen0 := g, txSalt0 := tx, rxSalt0 := rx }
    let s := putSess s ep x
    (List.range 4).foldl (fun s k => post s 0 (.fabPacketTransmit ep k)) s)
/-- OLD_KEY_SLOT_RETIRE: 100 µs after the first packet under the new slot of the last rotation. -/
def execOldKeySlotRetire (ep : Nat) (s : State) : Ans :=
  .next (modSess s ep fun x => if x.oldTill ≤ s.now then { x with rxOld := false } else x)
/-- RETIRED_TAG_EXPIRY (02 R47). -/
def execRetiredTagExpiry (tag : Nat) (s : State) : Ans :=
  .next { s with tags := s.tags.filter fun t => decide (t.1 ≠ tag) || decide (s.now < t.2 + 1800000000) }

/-! ## Budgets and heartbeats (02 R52, R53) -/

/-- The fabric time at which the budget period after some fabric time begins: each is 50 µs, 39,062.5 flit times, long. -/
def nextPeriod (t : Nat) : Nat := ((t * 2 / 78125 + 1) * 78125 + 1) / 2
/-- FAB_BUDGET_PERIOD: once fabric time has reached it, a new period begins, and what waited may go. -/
def execFabBudgetPeriod (s : State) : Ans :=
  .next (if fabTime s < s.budgetAt then
      if s.pending.any fun t => decide (t.ev = .fabBudgetPeriod) then s else post s (max 1 (untilFab s s.budgetAt)) .fabBudgetPeriod
    else
      let s : State := { s with ctxs := s.ctxs.map fun e => (e.1, { e.2 with fabCharge := 0 }), budgetAt := nextPeriod (fabTime s) }
      post (transmitAll s) (max 1 (untilFab s s.budgetAt)) .fabBudgetPeriod)
/-- Fabric time has been set forward: what it has reached happens now. -/
def fabMoved (s : State) : State :=
  let s := if s.budgetAt ≤ fabTime s then post s 0 .fabBudgetPeriod else s
  if s.switching.isNone ∧ s.armed.any fun t => decide (t ≤ fabTime s) then post s 0 .planSwitchTime else s
/-- Channels to a peer in use (02 R51). -/
def nchan (s : State) (ep : Nat) : Nat := if sessLive s ep then (txPorts s ep).length else 0
/-- FAB_PEERn as it reads (02 R51). -/
def fabPeer (s : State) (ep : Nat) : Nat :=
  match mget? s.sess ep with
  | none => 0
  | some x =>
    2 ^ 31 + (if x.halted then 2 ^ 30 else 0) + (if x.rot then 2 ^ 29 else 0) + (if x.kslot then 2 ^ 28 else 0) +
      2 ^ 16 * nchan s ep + x.tag
/-- LSTATE of CELL_CFG (03 R61). -/
def lstate (s : State) : Nat := ctlField s 0x0200 8 3
/-- The highest clock of this package. -/
def highClock (s : State) : Stamp := s.cores.foldl (fun m e => stampMax m e.2.lc) 0
/-- HEARTBEAT_TIMER: a heartbeat to each live peer, on its channels in turn. -/
def execHeartbeatTimer (s : State) : Ans :=
  let s := (s.sess.map Prod.fst).foldl (fun s ep =>
    match mget? s.sess ep, txPorts s ep with
    | some x, p :: ps =>
      let l := p :: ps
      let s := sendControl s ep (l.getD (x.hbPlane % l.length) p)
        (.heartbeat (fabTime s) (ownCell s) s.planActive.id (decide (lstate s = 3)) (highClock s))
      modSess s ep fun x => { x with hbPlane := x.hbPlane + 1, flagged := x.flagged || decide (lstate s = 3) }
    | _, _ => s) s
  .next (if s.sess.isEmpty then s else post s 18000 .heartbeatTimer)

end Sys2Proof.Machine
end

