-- ==== Sys2Proof/Machine/Cells.lean ====
section
/-! DEFINITION. Sessions that begin and end, the loss of a peer and of its cell, the recovery engine, leaving and joining
(02 R46, R47, R53; 03 R59 to R62, R70 to R82, R87 to R90; 07 R197; 11 R297). -/

namespace Sys2Proof.Machine

/-! ## The end of a session (02 R47, R53) -/

/-- A session ends: a notice on every channel to the peer, and its tag is retired. -/
def endSession (s : State) (ep : Nat) : State :=
  match mget? s.sess ep with
  | none => s
  | some x =>
    let s := (txPorts s ep).foldl (fun s n => sendControl s ep n .sessionEnd) s
    post { s with sess := mdel s.sess ep, tags := s.tags ++ [(x.tag, s.now)] } 1800000000 (.retiredTagExpiry x.tag)
/-- Every session ends. -/
def endSessions (s : State) : State := (s.sess.map Prod.fst).foldl endSession s

/-! ## What a lost cell takes with it (03 R77, R79; 07 R197; 11 R293, R297) -/

/-- Accesses of all units in flight. -/
def flightRefs (s : State) : List AccRef :=
  (s.ctxs.map Prod.fst).flatMap fun c => (unitKeys s c).flatMap fun u =>
    ((getUnit s c u).flight.filter fun a => !a.done).map fun a => { ctx := c, unit := u, acc := a.id }
/-- A piece touches a lost cell. -/
def touchesLost (s : State) (k : AccKind) (p : Piece) : Bool :=
  if k = .lsto then epLost s (nmEp p.va)
  else (decide (p.served = .mem) && epLost s (homeEp p.line)) || (decide (k = .lreq) && epLost s (nmEp p.aux))
/-- Every item of an access that touches a lost cell fails; a landing request's failure is a deferred fault. -/
def failLost (s : State) (r : AccRef) : State :=
  match getAcc s r with
  | none => s
  | some a =>
    let hit := a.pieces.filter fun p => p.isOpen && touchesLost s a.kind p
    if hit.isEmpty then s
    else
      let s := if a.kind = .lreq then
          hit.foldl (fun s p =>
            let lanes : Mask := if p.lane = 32 then a.mask else laneBit p.lane
            modUnit s r.ctx r.unit fun t => joinLate t (deferredFault a lanes .cellLost p.va)) s
        else s
      haltCtx (failWhen s r .cellLost (touchesLost s a.kind)) r.ctx
/-- Landing stores that engines and responders of this endpoint have sent to a lost cell. -/
def landsLost (s : State) : State :=
  (s.landTxns.filter fun e => epLost s (nmEp e.2.1)).foldl (fun s e => landAnswer s e.1 (some .cellLost)) s
/-- Pushes that have asked for a line of a lost cell end, and their contexts halt. -/
def pushesLost (s : State) : State :=
  (s.ctxs.map Prod.fst).foldl (fun s c =>
    ((getCtx s c).pushes.filter fun p => p.asks.any fun a => epLost s (homeEp a.1)).foldl (fun s p =>
      engineFault (modCtx s c fun x => { x with pushes := x.pushes.filter fun q => decide (q.id ≠ p.id) }) c p.car .cellLost p.word 0) s) s
/-- Lines homed in a lost cell leave every cache, and nothing is written back. -/
def linesLost (s : State) : State :=
  let keep (line : Nat) : Bool := !epLost s (homeEp line)
  { s with
    l1 := s.l1.filter fun e => keep (e.1 / 320)
    l2 := s.l2.filter fun e => keep (e.1 / 4)
    wb := s.wb.filter fun e => keep (e.1 / 4)
    asks := s.asks.filter fun e => keep (e.1 / 8) }
/-- Names whose expected storer is lost are reclaimed. -/
def namesLostCell (s : State) : State :=
  s.cores.foldl (fun s k => k.2.landing.foldl (fun s e =>
    if e.2.state = .live ∧ e.2.expected.any (epLost s) then post s 0 (.nameReclaimCellLost k.1 e.1) else s) s) s
/-- An instance of a home here fails: every endpoint with an arrival or a wait at it is told, and contexts here that wait at it
halt (07 R197). -/
def hbarFails (s : State) (i : HInst) : State :=
  let eps := nub (((hCounted s i) ++ s.hwait.filter fun a => sameKey a i.key).map HArrival.ep)
  let s := eps.foldl (fun s e =>
    if e = ownEp s then s else sendMsg s e none (.hdone { i.key with ep := e, home := ownEp s, kind := .discard })) s
  hbarFailed { s with hbars := s.hbars.filter fun x => !sameKey x.key i.key, hwait := s.hwait.filter fun a => !sameKey a i.key }
    fun h => sameKey h i.key
/-- Open instances that counted an arrival of a lost cell fail, at their home; those of a lost home fail here. -/
def hbarsLost (s : State) (cell : Nat) : State :=
  let bad := s.hbars.filter fun i => (hCounted s i).any fun a => decide (a.cell = cell)
  let s := bad.foldl hbarFails s
  let s := { s with
    hsent := s.hsent.filter fun a => !epLost s a.home
    hstand := s.hstand.filter fun a => decide (a.cell ≠ cell)
    hwait := s.hwait.filter fun a => decide (a.cell ≠ cell) }
  hbarFailed s fun h => (decide (h.level = .cell) || decide (h.level = .domain)) && epLost s h.home
/-- A request comes from a lost cell. -/
def reqLost (s : State) (e : Ev) : Bool :=
  match e with
  | .rds m => epLost s m.src
  | .rdown m => epLost s m.src
  | .wrbk m => epLost s m.src
  | .homeAtomic m => epLost s m.src
  | .lreqRead m => (match m.origin with
    | .peer ep _ => epLost s ep
    | _ => false)
  | _ => false
/-- Requests of a lost cell that homes hold are discarded, and those on their way too: a grant of ownership that is not on its
way to its requester is pending no longer (03 R80). -/
def requestsLost (s : State) : State :=
  let g (h : HomeLine) : HomeLine :=
    { h with held := h.held.filter fun e => !reqLost s e, turn := if h.turn.any (reqLost s) then none else h.turn }
  let open_ (line : Nat) (f : FiltEntry) : Bool :=
    f.pend && !f.dataSent && epLost s f.grantee && (getHome s line).turn.any (reqLost s)
  { s with
    home := s.home.map fun e => (e.1, g e.2)
    filt := s.filt.map fun e => (e.1, if open_ e.1 e.2 then { e.2 with pend := false } else e.2)
    pending := s.pending.filter fun t => !reqLost s t.ev }
/-- RCV_STAT: set a field. -/
def rcvStat (s : State) (lo w v : Nat) : State := ctlPut s 0x0210 lo w v
/-- The recovery engine is called for a cell: it starts, or a further sweep is queued (03 R81, R82). -/
def callRecovery (s : State) (cell : Nat) : State :=
  let s := rcvStat s 0 6 cell
  if s.sweepCells.isEmpty then post (rcvStat { s with sweepCells := [cell] } 31 1 1) 0 (.recoveryEngineStart cell)
  else rcvStat { s with queuedCells := addOnce s.queuedCells cell } 30 1 1
/-- Another cell is declared lost (03 R60, R62, R77 to R79). -/
def loseCell (s : State) (cell : Nat) : State :=
  let s := if cell < 32 then ctlPut s 0x0208 cell 1 1 else ctlPut s 0x020C (cell - 32) 1 1
  let s := (cellEps s cell).foldl endSession s
  let s := auditFree s 0x0006
  let s := requestsLost s
  let s := (flightRefs s).foldl failLost s
  let s := copiesLost (landsLost (pushesLost s))
  let s := namesLostCell (linesLost s)
  callRecovery (hbarsLost s cell) cell
/-- A member of the endpoint's own cell is lost: every context halts with CELL_LOST, every session ends (03 R60). -/
def loseOwnCell (s : State) (cell : Nat) : State :=
  let s := if cell < 32 then ctlPut s 0x0208 cell 1 1 else ctlPut s 0x020C (cell - 32) 1 1
  let s := auditFree (rcvStat s 0 6 cell) 0x0006
  let live := (s.ctxs.filter fun e => e.2.live && !e.2.halted).map Prod.fst
  let s := live.foldl (fun s c => engineFault s c ((unitKeys s c).headD 0) .cellLost 0 0) s
  ctlPut (endSessions s) 0x0200 8 3 5
/-- A peer is declared lost: its session has ended, and the loss widens to its cell (02 R53; 03 R60). -/
def losePeer (s : State) (ep : Nat) : State :=
  match mget? s.sess ep with
  | none => s
  | some x =>
    let own := decide (ctlField s 0x0200 31 1 = 1) && decide (x.cell = ctlField s 0x0200 0 6)
    let s := fabStat (endSession s ep) 7 1 1
    if own then loseOwnCell s x.cell else loseCell s x.cell
/-- The session of a departing peer ends: no loss, the cell's bits are dropped and nothing is poisoned (03 R89). -/
def peerDeparts (s : State) (ep : Nat) : State :=
  match mget? s.sess ep with
  | none => s
  | some x =>
    let s := endSession s ep
    let s := { s with departed := addOnce s.departed ep }
    let g (f : FiltEntry) : FiltEntry :=
      let v := f.vec &&& ~~~ cellBit x.cell
      let f := { f with vec := v, awaitEps := f.awaitEps.erase ep }
      if f.cellOwner ∧ f.owner = x.cell then { f with st := if v = 0 then .i else .s, pend := false }
      else if f.st = .s ∧ v = 0 then { f with st := .i } else f
    if (cellEps s x.cell).isEmpty then
      (s.filt.map Prod.fst).foldl (fun s line => filtSettle (lineResume (evictDone (modFilt s line g) line) line) line) s
    else s

/-! ## Session set-up (02 R46, R47; 03 R59, R61) -/

/-- Live sessions and tags that are not free yet number 256: no new session is set up. -/
def tagsFull (s : State) : Bool := decide (256 ≤ s.sess.length + s.tags.length)
/-- A tag may not be used: a reserved one, one in use, or one that is retired. -/
def tagTaken (s : State) (tag : Nat) : Bool :=
  decide (tag = 0) || decide (0xFFFF ≤ tag) || s.sess.any (fun e => decide (e.2.tag = tag)) || s.tags.any fun t => decide (t.1 = tag)
/-- CELL_CFG.VALID: sessions may be live (03 R61). -/
def cellValid (s : State) : Bool := decide (ctlField s 0x0200 31 1 = 1)
/-- The session becomes live with the peer's cell, and with a traffic key and a salt for each direction (02 R46). -/
def sessionLive (s : State) (ep tag cell : Nat) : State :=
  let first := s.sess.isEmpty
  let s : State :=
    { s with
      sess := mset s.sess ep { tag := tag, cell := cell, heard := s.now, txSalt0 := Config.sessionSalt (keyNum (ownEp s) ep tag 1)
                               rxSalt0 := Config.sessionSalt (keyNum ep (ownEp s) tag 1) }
      peerCell := mset s.peerCell ep cell
      setups := mdel s.setups ep }
  let s := post s 144000 (.silenceTimeout ep)
  if first ∧ !(s.pending.any fun t => decide (t.ev = .heartbeatTimer)) then post s 18000 .heartbeatTimer else s
/-- A random tag is proposed to a peer (notes/assumptions/4.md). -/
def propose (s : State) (ep : Nat) : State :=
  let tag := Config.sessionTag s.free % 65534 + 1
  let s : State := { s with free := s.free + 1, setups := mset s.setups ep tag }
  sendSpdm s ep (.request tag (ctlField s 0x0200 0 6))
/-- A peer asks for a session. -/
def answerRequest (s : State) (ep tag cell : Nat) : State :=
  let s := losePeer s ep
  if tagsFull s then sendSpdm s ep .busy
  else if tagTaken s tag then sendSpdm s ep (.tagRefused tag)
  else if !cellValid s then s
  else sendSpdm (sessionLive s ep tag cell) ep (.accept tag (ctlField s 0x0200 0 6))
/-- SPDM_MESSAGE (02 R46, R47). -/
def execSpdmMessage (ep : Nat) (m : Spdm) (s : State) : Ans :=
  .next (match m with
  | .start => if sessLive s ep || tagsFull s || !cellValid s then s else propose s ep
  | .request tag cell => answerRequest s ep tag cell
  | .accept tag cell => if mget? s.setups ep = some tag ∧ !sessLive s ep ∧ !tagsFull s ∧ cellValid s then sessionLive s ep tag cell else s
  | .tagRefused tag => if mget? s.setups ep = some tag then propose s ep else s
  | .busy => if (mget? s.setups ep).isSome then post s 18000000 (.spdmBusyRetry ep) else s)
/-- SPDM_BUSY_RETRY (02 R47). -/
def execSpdmBusyRetry (ep : Nat) (s : State) : Ans :=
  .next (if (mget? s.setups ep).isSome ∧ !sessLive s ep ∧ !tagsFull s ∧ cellValid s then propose s ep else s)

/-! ## Heartbeats, silence, notices (02 R53; 03 R59; 04 R99) -/

/-- A clock more than 2^40 ticks behind the cell's highest is raised to 2^40 below it (04 R99). -/
def raiseBehind (high c : Stamp) : Stamp := if later high c && decide (2 ^ 40 < (high - c).toNat) then high - 2 ^ 40 else c
/-- HEARTBEAT: fabric time, the cell number, the departure flag and the clocks of a cell-mate. -/
def execHeartbeat (ep time cell _plan : Nat) (leaving : Bool) (clock : Stamp) (s : State) : Ans :=
  .next (match mget? s.sess ep with
  | none => s
  | some x =>
    let s := fabMoved { s with fabAdj := s.fabAdj + ((time - fabTime s : Nat) : Int) }
    if cell ≠ x.cell ∧ ep ∉ s.departed then losePeer s ep
    else
      let s : State := { s with peerCell := mset s.peerCell ep cell, departed := if cell = x.cell then s.departed else s.departed.erase ep }
      let s := putSess s ep { x with cell := cell, leaving := x.leaving || leaving }
      if sameCell s ep then { s with cores := s.cores.map fun e => (e.1, { e.2 with lc := raiseBehind clock e.2.lc }) } else s)
/-- SILENCE_TIMEOUT: 80 µs with no authenticated packet. -/
def execSilenceTimeout (ep : Nat) (s : State) : Ans :=
  .next (match mget? s.sess ep with
  | none => s
  | some x => if x.heard + 144000 ≤ s.now then losePeer s ep else post s (x.heard + 144000 - s.now) (.silenceTimeout ep))
/-- SESSION_END_NOTICE: the session ends at once; that of a peer whose departure has been announced is no loss. -/
def execSessionEndNotice (ep : Nat) (s : State) : Ans :=
  .next (match mget? s.sess ep with
  | none => s
  | some x => if x.leaving then peerDeparts s ep else losePeer s ep)

/-! ## The recovery engine (03 R80, R81) -/

/-- The cells that the sweep handles. -/
def sweepMask (s : State) : BitVec 64 := (s.sweepCells ++ s.queuedCells).foldl (fun m c => m ||| cellBit c) 0
/-- Ask the first surviving sharer of a list for its data; with none left the line is poisoned. -/
def askSharer (s : State) (line : Nat) (cells : List Nat) : State :=
  match cells with
  | [] => poisonLost s line
  | c :: _ =>
    let s := modFilt s line fun f => { f with recovering := cells, awaitEps := [] }
    post (askCells s line [c] (.fwdrec (xmsg s line (ownEp s) none false false))) 1800000 (.fwdrecTimeout line)
/-- The engine's action on one entry. -/
def recoverEntry (s : State) (line : Nat) : State :=
  let f := getFilt s line
  let bad := sweepMask s
  let left := f.awaitEps.filter fun e => !epLost s e
  let v := f.vec &&& ~~~ bad
  let s := modFilt s line fun f => { f with awaitEps := left }
  let s :=
    if f.cellOwner && bad.getLsbD f.owner then
      if f.pend && !f.dataSent && !bad.getLsbD f.prev && !left.isEmpty then
        modFilt s line fun f => { f with owner := f.prev, vec := cellBit f.prev, pend := false, orphan := true }
      else if f.st = .o then askSharer (modFilt s line fun f => { f with vec := v, pend := false }) line (vecCells v)
      else poisonLost s line
    else if f.cellOwner then
      modFilt s line fun f => { f with vec := v, st := if f.st = .o ∧ v = cellBit f.owner then .m else f.st }
    else modFilt s line fun f => { f with vec := v, st := if f.st = .s ∧ v = 0 then .i else f.st }
  let s := clearInvs s line
  if (getFilt s line).evicting then evictDone s line else filtSettle (lineResume s line) line
/-- Entries that name a lost cell or wait for one of its endpoints, those on which a request is held first. -/
def recoverLines (s : State) : List Nat :=
  let bad := sweepMask s
  let hit := s.filt.filter fun e =>
    decide (e.2.vec &&& bad ≠ 0) || (e.2.cellOwner && bad.getLsbD e.2.owner) || e.2.awaitEps.any (epLost s)
  let held (line : Nat) : Bool := !(getHome s line).held.isEmpty || (getHome s line).turn.isSome
  (hit.filter fun e => held e.1).map Prod.fst ++ (hit.filter fun e => !held e.1).map Prod.fst
/-- RECOVERY_ENGINE_START: the sweep handles every entry. -/
def execRecoveryEngineStart (_cell : Nat) (s : State) : Ans :=
  .next (post ((recoverLines s).foldl recoverEntry s) 1 .recoverySweepEnd)
/-- RECOVERY_SWEEP_END: a further sweep begins when one is queued. -/
def execRecoverySweepEnd (s : State) : Ans :=
  let next := s.queuedCells
  let s := rcvStat { s with sweepCells := next, queuedCells := [] } 30 1 0
  let s := s.home.foldl (fun s e => linePump s e.1) s
  .next (match next with
  | [] => rcvStat s 31 1 0
  | c :: _ => post s 0 (.recoveryEngineStart c))
/-- FWDREC_TIMEOUT: the next surviving sharer is asked. -/
def execFwdrecTimeout (line : Nat) (s : State) : Ans :=
  let f := getFilt s line
  .next (if f.recovering.isEmpty then s
    else
      let s := askSharer s line ((f.recovering.drop 1).filter fun c => !cellLost s c)
      if (getFilt s line).recovering.isEmpty then lossOver s line else s)

/-! ## Membership (03 R61, R88, R90) -/

/-- Lines of other homes that this endpoint owns. -/
def ownedAway (s : State) : List (Nat × Nat) :=
  (s.l2.filter fun e => !ownLine s (e.1 / 4) && e.2.st.owned).map fun e => (e.1 % 4, e.1 / 4)
/-- Steps 4 to 6 of a departure: lines are written back and copies dropped; once every write-back is answered, and every peer
has been sent the departure flag, the sessions end, and the departure is logged (05 R147). -/
def leaveStep (s : State) : State :=
  if lstate s ≠ 3 then s
  else
    let s := (ownedAway s).foldl (fun s e => writeBack s e.1 e.2) s
    let s : State :=
      { s with
        l2 := s.l2.filter fun e => ownLine s (e.1 / 4) || decide (e.2.st ≠ .s)
        l1 := s.l1.filter fun e => ownLine s (e.1 / 320) }
    let busy := (s.wb.any fun e => !ownLine s (e.1 / 4)) || !s.asks.isEmpty || !(flightRefs s).isEmpty ||
      s.sess.any fun e => !e.2.flagged && !(txPorts s e.1).isEmpty
    if busy then post s 1 .cellLeave else auditFree (ctlPut (endSessions s) 0x0200 8 3 4) 0x0009
/-- A departure begins, of a member or of an endpoint that is joining. -/
def leaveBegin (s : State) : State := if lstate s = 1 ∨ lstate s = 2 then ctlPut s 0x0200 8 3 3 else s
/-- CELL_LEAVE (03 R88). -/
def execCellLeave (s : State) : Ans := .next (leaveStep (leaveBegin s))
/-- CELL_CFG_WRITE (03 R61): CELL stays while the endpoint is a member or leaves; a valid cell begins the joining of an
endpoint that is out, has left or was lost. -/
def execCellCfgWrite (val : Word) (s : State) : Ans :=
  let st := lstate s
  let s := if st = 2 ∨ st = 3 then s else ctlPut s 0x0200 0 6 (bitsN val.toNat 0 6)
  let s := ctlPut s 0x0200 31 1 (bitsN val.toNat 31 1)
  let s := if val.getLsbD 31 ∧ (st = 0 ∨ st = 4 ∨ st = 5) then ctlPut s 0x0200 8 3 1 else s
  .next (if val.getLsbD 7 then leaveStep (leaveBegin s) else s)
/-- CELL_JOIN_COMPLETE (03 R90), logged (05 R147). -/
def execCellJoinComplete (s : State) : Ans := .next (if lstate s = 1 then auditFree (ctlPut s 0x0200 8 3 2) 0x0009 else s)

/-! ## The snoop filter's and the firewall's controls (03 R71, R72, R75) -/

/-- Evict what a diagnosis or a recall wants gone and can go now; the rest goes as soon as nothing is in progress on it. -/
def evictGone (s : State) : State :=
  let gone := (s.filt.filter fun e => (decide (waysOf s ≤ e.2.way) || recallWants s e.1) && filtFree e.2 && !filtIdle e.2).map Prod.fst
  gone.foldl startEvict s
/-- SF_CFG_WRITE (03 R71): entries in ways that leave use are evicted, and the write completes once they are gone, but for
those with a grant pending, which go when it closes. A further write waits for it. -/
def execSfCfgWrite (val : Word) (s : State) : Ans :=
  .next (if s.sfBusy then post s 1 (.sfCfgWrite val)
    else sfCheck (evictGone { (ctlPut s 0x0220 0 5 (bitsN val.toNat 0 5)) with sfBusy := true }))
/-- SF_RECALL_GO: every holder of every line of the page is back-invalidated. -/
def execSfRecallGo (s : State) : Ans :=
  .next (if s.recallPage.isSome then s
    else
      let page := ctlField s 0x022C 0 13 * 2 ^ 19 + ctlField s 0x0228 13 19
      recallCheck (evictGone (ctlPut { s with recallPage := some page } 0x0230 1 1 1)))
/-- FW_SYNC: the discard of the firewall cache begins. -/
def execFwSync (s : State) : Ans := .next (post (ctlPut s 0x0248 1 1 1) 0 .fwSyncDone)
/-- FW_SYNC_DONE. -/
def execFwSyncDone (s : State) : Ans := .next (ctlPut { s with fwCache := [] } 0x0248 1 1 0)

end Sys2Proof.Machine
end

