-- ==== Sys2Proof/Machine/Boot.lean ====
section
/-! DEFINITION. Package reset and the boot order, die-to-die links, patrol, power and temperature (01 R15 to R32; 05 R136,
R140, R145). -/

namespace Sys2Proof.Machine

/-! ## Die states, and a package that stops (01 R16, R24, R28) -/

/-- Set the state of compute die d in DIE_STATE: 0 offline, 1 active, 2 draining, 3 fenced. -/
def setDie (s : State) (d v : Nat) : State := ctlPut s 0x0008 (2 * d) 2 v
/-- The state of compute die d. -/
def dieState (s : State) (d : Nat) : Nat := ctlField s 0x0008 (2 * d) 2
/-- The state of stack m. -/
def stackState (s : State) (m : Nat) : Nat := ctlField s 0x0008 (12 + 2 * m) 2
/-- Set it. -/
def setStack (s : State) (m v : Nat) : State := ctlPut s 0x0008 (12 + 2 * m) 2 v
/-- All cores stop until package reset, and every session ends. -/
def stopPackage (s : State) : State := endSessions { s with stopped := true }

/-! ## Boot (05 R136) -/

/-- Cycles of 4 s. -/
def retryCycles : Nat := 7200000000
/-- The supervisor's image file is asked for over a management port. -/
def askImage (s : State) (port tries : Nat) : State := emit { s with boot := .fetching port tries } (.fetchImage port)
/-- The compute dies start, unless the coolant is too warm (01 R25). Before any inlet temperature has been measured they start: the
model's choice (notes/assumptions/130.md). -/
def startDies (s : State) : State :=
  if s.inletHot then s
  else s.fences.foldl (fun s d => post s 0 (.drainDie d)) ((List.range 4).foldl (fun s d => setDie s d 1) s)
/-- The package's endpoint number, and with it its default plan (01 R27; 02 R36; notes/assumptions/123.md). -/
def assignEndpoint (s : State) : State :=
  let ep := Config.endpoint % 128
  let s := ctlPut s 0x0000 0 8 (128 + ep)
  { s with planActive := Plan.default ep }
/-- Step 1: the ROM checks the first stage, measures it and starts supervisor core 0. A first stage that is refused ends the boot
(the model's choice, notes/assumptions/130.md). -/
def romStep (s : State) : State :=
  let b := Config.firstStage
  let s := assignEndpoint s
  if imageOk b 1 then
    auditFree (extendMr { s with boot := .firstStage, supRunning := [0], supEntry := imageEntry b } 0 (imageHash b)) 0x0001
  else auditFree { s with boot := .refused } 0x0002
/-- The place is a line of HBM. -/
def isHbm (p : ErrPlace) : Bool :=
  match p with
  | .hbm _ => true
  | _ => false
/-- The registers and storage that package reset gives their reset values; memory, the audit log and what has left the
package stay (05 R140; notes/assumptions/25.md). -/
def resetState (s : State) : State :=
  { State.reset with
    now := s.now, resetAt := s.now, free := s.free, fabAdj := s.fabAdj, errs := s.errs.filter fun e => isHbm e.1, out := s.out, mem := s.mem, poison := s.poison, inletHot := s.inletHot
    audit := s.audit, auditNext := s.auditNext, auditReleased := s.auditReleased, auditExported := s.auditExported
    auditDropped := s.auditDropped, auditLost := s.auditLost }
/-- Timers that run from package reset on. -/
def resetTimers (s : State) : State :=
  let s : State := { s with budgetAt := nextPeriod (fabTime s) }
  post (post (post s (untilFab s s.budgetAt) .fabBudgetPeriod) 90000 .schedPeriodBoundary) 4096 .clockSync
/-- PACKAGE_RESET. -/
def execPackageReset (s : State) : Ans := .next (romStep (resetTimers (resetState s)))
/-- POWER_ON: package reset, with the audit log cleared and nothing in memory. -/
def execPowerOn (s : State) : Ans :=
  .next (romStep (resetTimers { State.reset with
    now := s.now, resetAt := s.now, free := s.free, fabAdj := s.fabAdj, out := s.out, inletHot := s.inletHot }))
/-- BOOT_MEASUREMENT_EXTEND (05 R136, steps 2 and 5). -/
def execBootMeasurementExtend (idx : Nat) (d : Digest) (s : State) : Ans :=
  .next (if s.boot = .firstStage ∧ idx = 1 then
      let s := auditFree (extendMr s 1 d) 0x0001
      let s := (List.range 8).foldl (fun s m => setStack s m 1) (ctlPut s 0x0008 10 2 1)
      post (askImage (startDies s) 0 0) retryCycles .bootFetchRetryTimer
    else if s.boot = .supervisor ∧ idx = 3 then auditFree { (extendMr s 3 d) with boot := .running } 0x0001
    else s)
/-- BOOT_IMAGE_FETCHED (05 R136, steps 4 and 5); while the supervisor runs, the image of an update has come (R145 step 1). -/
def execBootImageFetched (img : List Byte) (s : State) : Ans :=
  .next (match s.boot with
  | .fetching _ _ =>
    if imageOk img 2 then
      auditFree (extendMr { s with boot := .supervisor, supRunning := List.range 16, supEntry := imageEntry img, image := img } 2 (imageHash img)) 0x0001
    else askImage (auditFree s 0x0002) 0 0
  | .running =>
    match s.update with
    | .fetching _ _ => post { s with update := .idle } 0 (.firmwareUpdateCheck img)
    | _ => s
  | _ => s)
/-- The next attempt to fetch an image: three on port 0, then three on port 1; then the failure is logged and it begins
again. -/
def nextTry (s : State) (port tries : Nat) : (Nat × Nat) × State :=
  if tries < 2 then ((port, tries + 1), s) else if port = 0 then ((1, 0), s) else ((0, 0), auditFree s 0x0001)
/-- The image of an update is asked for (05 R145 step 1). -/
def askUpdate (s : State) (port tries : Nat) : State :=
  post (emit { s with update := .fetching port tries } (.fetchImage port)) retryCycles .bootFetchRetryTimer
/-- BOOT_FETCH_RETRY_TIMER. While the supervisor runs it times the fetch of an update; one that finds no fetch in progress begins
it (notes/assumptions/131.md). -/
def execBootFetchRetryTimer (s : State) : Ans :=
  .next (match s.boot with
  | .fetching port tries =>
    let r := nextTry s port tries
    post (askImage r.2 r.1.1 r.1.2) retryCycles .bootFetchRetryTimer
  | .running =>
    match s.update with
    | .idle => askUpdate s 0 0
    | .fetching port tries =>
      let r := nextTry s port tries
      askUpdate r.2 r.1.1 r.1.2
    | .replacing _ _ => s
  | _ => s)
/-- Step 3 of an update: a core hands its duties over and is out of service; in the next step it has loaded the new image and
resumes, and the next core's turn comes. -/
def replaceCore (s : State) (core : Nat) (out : Bool) : State :=
  let again (s : State) : State := post s 1 (.firmwareUpdateCheck s.image)
  if 16 ≤ core then { s with update := .idle, supEntry := imageEntry s.image }
  else if out then
    again { s with update := .replacing (core + 1) false, supRunning := addOnce s.supRunning core, supOld := s.supOld.erase core }
  else again { s with update := .replacing core true, supRunning := s.supRunning.erase core }
/-- FIRMWARE_UPDATE_CHECK (05 R145): the check, and then the replacement core by core. A further image waits until the update in
progress is over. -/
def execFirmwareUpdateCheck (img : List Byte) (s : State) : Ans :=
  .next (match s.update with
  | .replacing core out => if img = s.image then replaceCore s core out else post s 1 (.firmwareUpdateCheck img)
  | _ =>
    if !imageOk img 2 then auditFree s 0x0002
    else
      let s := auditFree (extendMr { s with image := img } 2 (imageHash img)) 0x0008
      post { s with update := .replacing 0 false, supOld := List.range 16 } 1 (.firmwareUpdateCheck img))

/-! ## Links (01 R15, R16) -/

/-- The dies that a link joins: compute dies 0 to 3, X0 4, X1 5. -/
def linkEnds (n : Nat) : Nat × Nat :=
  [(0, 1), (0, 2), (0, 3), (1, 2), (1, 3), (2, 3), (0, 4), (1, 4), (2, 5), (3, 5), (4, 5)].getD n (0, 0)
/-- The link between two dies. -/
def linkOf (a b : Nat) : Option Nat := (List.range 11).find? fun n => decide (linkEnds n = (a, b)) || decide (linkEnds n = (b, a))
/-- A link is up: it has not failed replay 16 times in a row. -/
def linkUp (s : State) (n : Nat) : Bool := decide (mgetD s.linkRuns n 0 < 16)
/-- Two dies have a live link. -/
def joined (s : State) (a b : Nat) : Bool := (linkOf a b).any (linkUp s)
/-- The route that replaces a link that is down exists. -/
def hasRoute (s : State) (n : Nat) : Bool :=
  let e := linkEnds n
  if n = 10 then (joined s 4 0 && joined s 0 2 && joined s 2 5) || (joined s 4 1 && joined s 1 3 && joined s 3 5)
  else (List.range 4).any fun c => decide (c ≠ e.1) && decide (c ≠ e.2) && joined s c e.1 && joined s c e.2
/-- The die that the supervisor fences for a link. -/
def fencedBy (n : Nat) : Option Nat := if n < 6 then some (linkEnds n).2 else if n < 10 then some (linkEnds n).1 else none
/-- A link goes down. -/
def linkDown (s : State) (n : Nat) : State :=
  let s := ctlPut s 0x0020 n 1 1
  let s := match fencedBy n with
    | some d => post { s with fences := addOnce s.fences d } 0 (.drainDie d)
    | none => s
  if (List.range 11).all fun k => linkUp s k || hasRoute s k then s else stopPackage (auditFree s 0x0009)
/-- LINK_TRANSFER_ERROR. Whether a transfer has succeeded since the last error is a free value: the link's traffic is not
state (notes/assumptions/24.md). The link goes down at the 16th error in a row, the first transfer's own among them: the model's
choice (notes/assumptions/130.md). -/
def execLinkTransferError (n : Nat) (s : State) : Ans :=
  .next (if 10 < n ∨ !linkUp s n then s
    else
      let s := ctlCount s (0x0060 + 4 * n) 0 32 1
      let r := takeFree s
      let k := if r.1.getLsbD 0 then mgetD s.linkRuns n 0 + 1 else 1
      let s : State := { r.2 with linkRuns := mset r.2.linkRuns n k }
      if 16 ≤ k then linkDown s n else s)

/-! ## Memory patrol (01 R17, R18) -/

/-- PATROL_SCRUB_READ: a corrected error is counted; an uncorrectable one poisons the line and raises no fault. An error that
stands in the line is met too. -/
def execPatrolScrubRead (line : Nat) (err : EccResult) (s : State) : Ans :=
  .next (if stackStill s line then post s 1 (.patrolScrubRead line err) else eccRead (readHbm s line) line err)

/-! ## Power and temperature (01 R22 to R25, R29, R30) -/

/-- The limit in force. -/
def powerLimit (s : State) : Nat := max 1200 (min 3200 (ctlField s 0x0018 0 12))
/-- Throttling starts, or has not been enough and goes a stage on: MMA, MMAS and MILL commands first, then vector issue too. -/
def throttleMore (s : State) : State := { s with throttle := min 2 (s.throttle + 1) }
/-- Throttling ends once neither cause of it is left (01 R29). -/
def throttleEnd (s : State) : State := if ctlField s 0x0010 29 2 = 0 then { s with throttle := 0 } else s
/-- POWER_WINDOW (01 R23): throttling lasts until the power falls below the limit. -/
def execPowerWindow (watts : Nat) (s : State) : Ans :=
  let s := ctlPut s 0x0010 0 12 (min 0xFFF watts)
  .next (if powerLimit s < watts then throttleMore (ctlPut s 0x0010 30 1 1)
    else if watts < powerLimit s then throttleEnd (ctlPut s 0x0010 30 1 0)
    else s)
/-- TMAX. -/
def setTmax (s : State) (t : Nat) : State := ctlPut s 0x0010 16 11 (min 0x7FF t)
/-- THERMAL_THROTTLE_START (01 R24): on the same mechanism. -/
def execThermalThrottleStart (tmax : Nat) (s : State) : Ans :=
  .next (let s := setTmax s tmax
    if 95 ≤ tmax then throttleMore (ctlPut s 0x0010 29 1 1) else s)
/-- THERMAL_THROTTLE_STOP. -/
def execThermalThrottleStop (tmax : Nat) (s : State) : Ans :=
  .next (let s := setTmax s tmax
    if tmax < 90 then throttleEnd (ctlPut s 0x0010 29 1 0) else s)
/-- THERMAL_TRIP (01 R24). -/
def execThermalTrip (tmax : Nat) (s : State) : Ans :=
  .next (let s := setTmax s tmax
    if tmax < 105 then s else auditFree (stopPackage (ctlPut s 0x0010 31 1 1)) 0x0005)
/-- The compute dies wait for their start: the first stage has brought the package up, and they are offline. -/
def diesWait (s : State) : Bool :=
  decide (stackState s 0 ≠ 0) && (List.range 4).all fun d => decide (dieState s d = 0)
/-- COOLANT_INLET_TEMPERATURE (01 R25). -/
def execCoolantInletTemperature (degrees : Nat) (s : State) : Ans :=
  let s : State := { s with inletHot := decide (40 < degrees) }
  .next (if diesWait s then startDies s else s)

end Sys2Proof.Machine
end

