-- ==== Sys2Proof/Machine/Host.lean ====
section
/-! DEFINITION. Hosts: their links, loads and stores of device memory, back-invalidations and failure, extents, and command
windows (03 R91 to R93; 04 R109, R121; 05 R122 to R130). -/

namespace Sys2Proof.Machine

/-! ## Ports and extents (05 R122 to R125) -/

/-- The port runs CXL.mem: its host reaches device memory by loads and stores (05 R123). -/
def portServes (s : State) (port : Nat) : Bool := (mgetD s.ports port {}).up && (mgetD s.ports port {}).cxl
/-- An extent of a port. -/
def getExt (s : State) (port idx : Nat) : Extent := mgetD s.extents (32 * port + idx) {}
/-- Replace it. -/
def putExt (s : State) (port idx : Nat) (e : Extent) : State := { s with extents := mset s.extents (32 * port + idx) e }
/-- Its size in bytes. -/
def Extent.bytes (e : Extent) : Nat := e.size.toNat * 2 ^ 23
/-- The size of a port's HDM range: 512 GiB, whose first byte has host offset 0 (05 R123). -/
def hdmSize : Nat := 2 ^ 39
/-- A host offset lies in the HDM range, in an extent that is not free. -/
def Extent.hosts (e : Extent) (hoff : Nat) : Bool :=
  decide (hoff < hdmSize) && decide (e.state ≠ 0) && decide (e.hoff.toNat ≤ hoff) && decide (hoff < e.hoff.toNat + e.bytes)
/-- The extent of a port in which a host offset lies. -/
def findExt (s : State) (port hoff : Nat) : Option Extent :=
  ((List.range 32).map fun i => getExt s port i).find? fun e => e.hosts hoff
/-- The line that a host offset of an extent names. -/
def extLine (s : State) (e : Extent) (hoff : Nat) : Nat := (ownEp s * 2 ^ 45 + e.base.toNat + (hoff - e.hoff.toNat)) / 128
/-- A line lies in an extent. -/
def Extent.holds (s : State) (e : Extent) (line : Nat) : Bool :=
  ownLine s line && decide (e.base.toNat ≤ 128 * lineOff line) && decide (128 * lineOff line < e.base.toNat + e.bytes)
/-- The HOST bit of a port. -/
def hostBit (port : Nat) : BitVec 2 := BitVec.ofNat 2 (2 ^ port)
/-- A host holds a line. -/
def hostHas (s : State) (port line : Nat) : Bool := decide ((getFilt s line).host &&& hostBit port ≠ 0)
/-- A read that no extent allows is answered with poisoned data (05 R124). -/
def hostPoison (s : State) (port hoff : Nat) : State :=
  let b := freeBytes s 128
  emit b.2 (.hostData port hoff b.1 true)
/-- HOST_LINK_UP: a port trains to x16, x8 or x4 at 64 or 32 GT/s, or stays down. The root of trust sets up a key with the host for
each direction's IDE stream. -/
def execHostLinkUp (port width rate : Nat) (cxl : Bool) (s : State) : Ans :=
  let ok := decide (port < 2) && decide (width ∈ [16, 8, 4]) && decide (rate ∈ [64, 32])
  .next (if ok then { s with
      free := s.free + 2
      ports := mset s.ports port { up := true, width := width, rate := rate, cxl := cxl, ideOut := some (Config.ideKey s.free)
                                   ideIn := some (Config.ideKey (s.free + 1)) } }
    else s)

/-! ## Host requests (03 R74; 04 R109, R111, R121; 05 R124) -/

/-- No host but one holds the line. -/
def otherHostsOut (line port : Nat) (s : State) : Stage :=
  let f := getFilt s line
  let others := f.host &&& ~~~ hostBit port
  if !f.awaitHosts.isEmpty then (false, s)
  else if others ≠ 0 then (false, askHosts s line (hostPorts others))
  else (true, s)
/-- Every cell has answered. -/
def cellsIn (line : Nat) (s : State) : Stage :=
  if (getFilt s line).awaitEps.isEmpty then (true, s) else (false, modFilt s line fun f => { f with soft := false })
/-- What a host's read needs. -/
def hostReadStages (line : Nat) (s : State) : Stage :=
  andThen (andThen (andThen (hostsOut line false s) (cellReads line)) (packageReads line)) (filtPlace line)
/-- What a host's request for ownership needs. -/
def hostOwnStages (line port : Nat) (e : Ev) (s : State) : Stage :=
  andThen (andThen (andThen (andThen (andThen (replicaOut line e s) (otherHostsOut line port)) (cellsOut line)) (cellsIn line))
    (packageOut line)) (filtPlace line)
/-- What a host's write of a line that it does not own needs. -/
def hostWriteStages (line port : Nat) (e : Ev) (s : State) : Stage :=
  andThen (andThen (andThen (andThen (replicaOut line e s) (otherHostsOut line port)) (cellsOut line)) (cellsIn line)) (packageOut line)
/-- Data for a host's read, which holds the line from then on: an entry that records only hosts is in S, or in M with HOWN
(04 R120). A host that owns the line keeps its ownership when it reads again. -/
def giveHost (port hoff line : Nat) (own : Bool) (s : State) : State :=
  let d := homeData s line
  let s := modFilt d.2 line fun f => { f with
    host := f.host ||| hostBit port, hown := f.hown || own, st := if f.hown || own then .m else if f.st = .i then .s else f.st }
  lineDone (emit s (.hostData port hoff d.1.1 d.1.2)) line
/-- A write of a host that the port has received is over, however it ends (05 R129). -/
def hostWritten (s : State) (port line : Nat) : State := { s with hostWait := s.hostWait.erase (port, line) }
/-- A write of a host stands at its line's home already. -/
def hostKept (s : State) (line : Nat) (e : Ev) : Bool :=
  let h := getHome s line
  decide (h.turn = some e) || decide (e ∈ h.held)
/-- A request of a host is over with an error. -/
def hostRefused (s : State) (port hoff line : Nat) (e : Ev) : State :=
  let s := emit s (.hostError port hoff)
  if (getHome s line).turn = some e then lineDone s line else s
/-- HOST_MEM_READ: own asks for ownership. -/
def execHostMemRead (port hoff : Nat) (own : Bool) (s : State) : Ans :=
  .next (if !portServes s port then s
    else
      match findExt s port hoff with
      | none => hostPoison s port hoff
      | some e =>
        let line := extLine s e hoff
        let ev : Ev := .hostMemRead port hoff own
        if e.state = 2 ∧ (getHome s line).turn ≠ some ev then emit s (.hostError port hoff)
        else if own && !e.canWrite then hostPoison s port hoff
        else
          let fw := if own then fwAllows s line (ownCell s) else (true, s)
          if !fw.1 then hostRefused fw.2 port hoff line ev
          else
            let q := lineEnter fw.2 line ev
            if !q.1 then q.2
            else runStages (if own then hostOwnStages line port ev q.2 else hostReadStages line q.2) (giveHost port hoff line own))
/-- A host's bytes reach memory; a whole line clears poison (01 R19). -/
def hostStore (s : State) (line off : Nat) (d : List Byte) : State :=
  let s := if d.length = 128 then s else readHbm s line
  let m := memData s line
  fromOutside (setMem s line (patchB m.1 off d) (m.2 && decide (d.length ≠ 128))) line
/-- HOST_MEM_WRITE. -/
def execHostMemWrite (port hoff : Nat) (data : List Byte) (s : State) : Ans :=
  .next (if !portServes s port then s
    else
      match findExt s port hoff with
      | none => s
      | some e =>
        let line := extLine s e hoff
        let off := hoff % 128
        let d := data.take (128 - off)
        let ev : Ev := .hostMemWrite port hoff data
        let mine := decide ((getHome s line).turn = some ev)
        if e.state = 2 ∧ !mine then emit s (.hostError port hoff)
        else if !e.canWrite then s
        else
          let fw := fwAllows s line (ownCell s)
          if !fw.1 then hostRefused (if mine then hostWritten fw.2 port line else fw.2) port hoff line ev
          else if (getFilt s line).hown && hostHas s port line && !mine then
            (if stackStill s line then post fw.2 1 ev else hostStore fw.2 line off d)
          else
            let q := lineEnter fw.2 line ev
            let s := if hostKept fw.2 line ev then q.2 else { q.2 with hostWait := q.2.hostWait ++ [(port, line)] }
            if !q.1 then s
            else runStages (hostWriteStages line port ev s) fun s =>
              lineDone (hostWritten (hostStore s line off d) port line) line)

/-! ## Back-invalidations and failure (03 R91, R92; 04 R121) -/

/-- A host holds a line no longer. -/
def hostLeaves (s : State) (port line : Nat) : State :=
  modFilt s line fun f =>
    let h := f.host &&& ~~~ hostBit port
    { f with
      host := h, hown := f.hown && decide (h ≠ 0), awaitHosts := f.awaitHosts.filter fun p => decide (p ≠ port)
      st := if f.vec = 0 ∧ h = 0 ∧ (f.st = .s ∨ f.hown) then .i else if f.hown ∧ h = 0 then .s else f.st }
/-- What waited for a host's answer goes on. -/
def hostAnswered (s : State) (line : Nat) : State :=
  if (getFilt s line).evicting then lineResume (evictDone s line) line else filtSettle (lineResume s line) line
/-- HOST_BINV_ACK: what the host returns is written back, and it holds the line no longer. -/
def execHostBinvAck (port line : Nat) (data : Option (List Byte)) (s : State) : Ans :=
  .next (if port ∉ (getFilt s line).awaitHosts then s
    else
      let s := match data with
        | some d => hostStore s line 0 (sliceB d 0 128)
        | none => s
      hostAnswered (hostLeaves s port line) line)
/-- The host offset of a request of a port. -/
def hostReq (port : Nat) (e : Ev) : Option Nat :=
  match e with
  | .hostMemRead p hoff _ => if p = port then some hoff else none
  | .hostMemWrite p hoff _ => if p = port then some hoff else none
  | _ => none
/-- A host's requests that a line has accepted end with an error, item by item. -/
def failRequests (s : State) (port line : Nat) : State :=
  let h := getHome s line
  let mine (e : Ev) : Bool := (hostReq port e).isSome
  let gone := (h.turn.toList ++ h.held).filterMap (hostReq port)
  if gone.isEmpty then s
  else
    let mineNow := h.turn.any mine
    let s := putHome s line { h with
      turn := if mineNow then none else h.turn, got := if mineNow then none else h.got, held := h.held.filter fun e => !mine e }
    linePump (gone.foldl (fun s hoff => emit s (.hostError port hoff)) s) line
/-- The home declares a host failed: lines that it held modified are poisoned, and it holds nothing any more. -/
def failHost (s : State) (port : Nat) : State :=
  let held := (s.filt.map Prod.fst).filter fun l => hostHas s port l || decide (port ∈ (getFilt s l).awaitHosts)
  let s := held.foldl (fun s l =>
    let s := if (getFilt s l).hown && hostHas s port l then setPoison s l true else s
    hostAnswered (hostLeaves s port l) l) s
  let s := { s with
    pending := s.pending.filter fun t => (hostReq port t.ev).isNone
    hostWait := s.hostWait.filter fun w => decide (w.1 ≠ port) }
  let s := (s.home.map Prod.fst).foldl (fun s l => failRequests s port l) s
  ctlPut s 0x0250 port 1 1
/-- HOST_BINV_TIMEOUT: a timer of an earlier back-invalidation of the line counts for nothing. -/
def execHostBinvTimeout (port line : Nat) (s : State) : Ans :=
  .next (if port ∈ (getFilt s line).awaitHosts ∧ !(s.pending.any fun t => decide (t.ev = .hostBinvTimeout port line)) then
      failHost s port
    else s)
/-- HOST_LINK_DOWN. -/
def execHostLinkDown (port : Nat) (s : State) : Ans :=
  .next (if (mgetD s.ports port {}).up then
      failHost { s with ports := mset s.ports port { mgetD s.ports port {} with up := false, ideOut := none, ideIn := none } } port
    else s)

/-! ## Granting and revoking extents (03 R93; 05 R125) -/

/-- The extent that EXT_SEL selects. -/
def extSel (s : State) : Nat × Nat := (ctlField s 0x0600 5 1, ctlField s 0x0600 0 5)
/-- Two ranges overlap. -/
def overlap (a n b m : Nat) : Bool := decide (a < b + m) && decide (b < a + n)
/-- A grant would overlap a live extent of either port, in device range or host range. -/
def extOverlap (s : State) (key : Nat) (e : Extent) : Bool :=
  s.extents.any fun x => decide (x.1 ≠ key) && decide (x.2.state ≠ 0) &&
    (overlap e.base.toNat e.bytes x.2.base.toNat x.2.bytes || overlap e.hoff.toNat e.bytes x.2.hoff.toNat x.2.bytes)
/-- EXT_GRANT. A host range that runs past the port's HDM range is refused as a size out of range (notes/assumptions/132.md). -/
def execExtGrant (s : State) : Ans :=
  let k := extSel s
  let e := getExt s k.1 k.2
  let code :=
    if e.state ≠ 0 then 3
    else if extOverlap s (32 * k.1 + k.2) e then 1
    else if e.size = 0 ∨ 65536 < e.size.toNat ∨ 2 ^ 39 < e.base.toNat + e.bytes ∨ hdmSize < e.hoff.toNat + e.bytes then 2
    else 0
  .next (if code ≠ 0 then putExt s k.1 k.2 { e with result := code }
    else auditFree (putExt s k.1 k.2 { e with state := 1, result := 0, canWrite := e.write }) 0x0007)
/-- The lines of an extent that its port's host holds. -/
def extHeld (s : State) (port : Nat) (e : Extent) : List Nat :=
  (s.filt.map Prod.fst).filter fun l => e.holds s l && hostHas s port l
/-- Recall every line of an extent that is not being recalled already. -/
def extRecall (s : State) (port : Nat) (e : Extent) : State :=
  ((extHeld s port e).filter fun l => decide (port ∉ (getFilt s l).awaitHosts)).foldl (fun s l => askHosts s l [port]) s
/-- EXT_REVOKE: the revoke point. -/
def execExtRevoke (s : State) : Ans :=
  let k := extSel s
  let e := getExt s k.1 k.2
  .next (if e.state ≠ 1 then putExt s k.1 k.2 { e with result := 3 }
    else
      let e := { e with state := 2, result := 0 }
      let s := auditFree (putExt s k.1 k.2 e) 0x0007
      post (extRecall s k.1 e) 1 (.extRevokeComplete k.1 k.2))
/-- A request of the port for a line of the extent is still in progress. -/
def extAsked (s : State) (port : Nat) (e : Extent) : Bool :=
  s.home.any fun h => e.holds s h.1 && (h.2.turn.toList ++ h.2.held).any fun v => (hostReq port v).isSome
/-- EXT_REVOKE_COMPLETE: once every line of the extent has left the host the extent is free. -/
def execExtRevokeComplete (port idx : Nat) (s : State) : Ans :=
  let e := getExt s port idx
  .next (if e.state ≠ 2 then s
    else if (extHeld s port e).isEmpty && !extAsked s port e then putExt s port idx { e with state := 0 }
    else post (extRecall s port e) 1 (.extRevokeComplete port idx))

/-! ## Command windows (05 R126 to R130) -/

/-- A window's counters. -/
def getWin (s : State) (port win : Nat) : Window := mgetD s.windows (64 * port + win) {}
/-- Replace them. -/
def putWin (s : State) (port win : Nat) (w : Window) : State := { s with windows := mset s.windows (64 * port + win) w }
/-- CW_BIND of a window. -/
def bindReg (port win : Nat) : Nat := 0x0C00 + 8 * (64 * port + win)
/-- The code of the first check of R128 that a write to CW_ENQ fails; 0 when it passes. -/
def enqCheck (s : State) (port win off : Nat) (t : List Byte) : Nat :=
  let b := ctlGet s (bindReg port win)
  if !bitN b 0 then 1
  else if off ≠ 0 ∨ t.length ≠ 64 then 2
  else if tkPinned t then 3
  else if tkClass t ≠ bitsN b 36 6 then 4
  else if bitsN b 34 2 < tkPri t then 5
  else if tkShapeBad t then 6
  else if qFull s (bitsN b 42 6) then 7
  else 0
/-- A host's write into a window: CW_ENQ submits a ticket, a write of CW_STAT sets REFUSED and ERR. -/
def execCwEnq (port win off : Nat) (data : List Byte) (s : State) : Ans :=
  let w := getWin s port win
  .next (if 2 ≤ port ∨ 64 ≤ win ∨ !(mgetD s.ports port {}).up then s
    else if off = 0x40 ∧ data.length = 4 then putWin s port win { w with refused := fieldB data 1 1, err := fieldB data 0 1 % 16 }
    else if 0x40 ≤ off then s
    else
      let code := enqCheck s port win off data
      let b := ctlGet s (bindReg port win)
      if code ≠ 0 then putWin s port win { w with err := code, refused := min 0xFF (w.refused + 1) }
      else enqueue s (bitsN b 42 6) data (bitsN b 48 16) 1 (some (64 * port + win, w.binding)))
/-- CW_BIND_WRITE: clearing EN unbinds the window and zeroes CW_DONE. -/
def execCwBindWrite (port win : Nat) (val : Dword) (s : State) : Ans :=
  let old := bitN (ctlGet s (bindReg port win)) 0
  .next (if 2 ≤ port ∨ 64 ≤ win then s
    else
      let s := ctlWrite s (bindReg port win) val.toNat
      let w := getWin s port win
      if old && !val.getLsbD 0 then putWin s port win { w with done := 0, binding := w.binding + 1 } else s)

end Sys2Proof.Machine
end

