-- ==== Sys2Proof/Machine/Ready.lean ====
section
/-! DEFINITION. Which units may issue: the active context, the words at a slot's next offset, the scoreboard, latch chains,
and the bounds within which a slot issues past an access that can still fail (03 R85, R86; 06 R168; 07 R180; 08 R210 to
R212, R216; 13 R329; 14 R348). -/

namespace Sys2Proof.Machine

/-! ## Contexts that issue (06 R168; 03 R88; 05 R146; 13 R323) -/

/-- A context holds a bank and is not on its way out of it or into it. -/
def isResident (x : Ctx) : Bool :=
  match x.place with
  | .bank _ _ => x.live
  | _ => false
/-- The cores of a die execute: it is active or draining. -/
def dieRuns (s : State) (die : Nat) : Bool := decide (dieState s die = 1) || decide (dieState s die = 2)
/-- Issue is stopped in the whole package: it has stopped, or its endpoint leaves its cell or has left it. -/
def issueStopped (s : State) : Bool := s.stopped || decide (lstate s = 3) || decide (lstate s = 4)
/-- The units of a context may issue. -/
def ctxIssues (s : State) (c : Nat) : Bool :=
  let x := getCtx s c
  isResident x && !x.halted && !x.releasing && decide ((getCore s (ctxCore x)).active = some c) &&
    dieRuns s (dieOf (ctxCore x)) && !issueStopped s

/-! ## Fetching a word (08 R210, R211, R219, R223) -/

/-- What a fetch answers. -/
inductive Fetch where
  | word (w : Word)
  | waits
  | bad (cause : Cause) (detail xcode : Nat) (addr : Dword) (sup held : Bool)
  deriving DecidableEq, Repr
/-- The virtual address of a word. -/
def fetchVa (fe : Ferry) (plane : Nat) (off : Word) : Dword := BitVec.ofNat 64 (fe.code + plane * fe.stride + off.toNat)
/-- The word of a unit's plane at an offset, as an ordinary read through the L1 slice and the die's L2 that hold its line
(07 R206; 04 R100). -/
def fetchWord (s : State) (c u plane : Nat) (off : Word) : Fetch × State :=
  let x := getCtx s c
  let fe := getFerry s c (getUnit s c u).ferry
  let core := ctxCore x
  let va := fetchVa fe plane off
  if fe.stride ≤ off.toNat then (.bad .perm 1 0 (fetchVa fe plane 0) true true, s)
  else
    match tlbGet s core x.asid x.cls va { x := true } with
    | (.bad k code, s) => (.bad k 1 code va true true, walkEnd s (dieOf core))
    | (.waits _, s) => (.waits, s)
    | (.ok t, s) =>
      let pa := xlatPa t va
      let line := pa / 128
      match farBad s t va with
      | some k => (.bad k 0 0 va (decide (k = .cellLost)) false, s)
      | none =>
        if pageRefused s line then (.bad .page 4 0 va true true, s)
        else
          let s := readCaches s core line
          match readLine s c core line none, mget? s.refusals line with
          | some (d, pois, s), _ =>
            (if pois then .bad .poison 0 0 (va - BitVec.ofNat 64 (va.toNat % 128)) false false
             else .word (BitVec.ofNat 32 (fieldB d (pa % 128) 4)), s)
          | none, some k => (.bad k.1 0 0 va false false, { s with refusals := mdel s.refusals line })
          | none, none => (.waits, (askOnce s (some c) (dieOf core) line false (clk s core) (expiredCopy s core line)).2)
/-- The planes that a slot occupies; the cox and the carter fetch in plane 0 (08 R212, R223). -/
def slotPlanes (t : Thread) (u : Nat) (m : Mask) : List Nat := if isCrew u then planesOf t m else [0]
/-- A slot's lanes in a plane. -/
def slotLanes (t : Thread) (u : Nat) (m : Mask) (k : Nat) : Mask := if isCrew u then lanesIn t m k else m
/-- The words of a slot at an offset that are at hand, by plane. -/
def peekWords (s : State) (c u : Nat) (m : Mask) (off : Word) : List (Nat × Word) :=
  (slotPlanes (getUnit s c u) u m).filterMap fun k =>
    match (fetchWord s c u k off).1 with
    | .word w => some (k, w)
    | _ => none

/-! ## Classes of words -/

/-- The opcode of a word. -/
def wordOp (w : Word) : Nat := (w.extractLsb' 24 8).toNat
/-- The operands of a word under a mode; none for a word that the decoder rejects. -/
def wordOps (mode : Word) (crew : Bool) (w : Word) : List Opd :=
  match decodeWord w with
  | .instr i => (shape mode crew i).ops
  | _ => []
/-- A word must be the same in every plane that a slot occupies (08 R216). -/
def mustMatch (w : Word) : Bool :=
  let op := wordOp w
  let d := (w.extractLsb' 16 8).toNat
  let isG (x : Nat) : Bool := decide (0xC0 ≤ x)
  (decide (2 ≤ op) && decide (op ≤ 0x17)) || decide (op = 0x1A) || decide (op = 0x1B) || decide (op = 0x98) ||
    (decide (0xA0 ≤ op) && decide (op ≤ 0xA2)) || (decide (0xC8 ≤ op) && decide (op ≤ 0xCA)) ||
    (decide (0xD0 ≤ op) && decide (op ≤ 0xD9)) ||
    (if op = 0x89 ∨ op = 0x8B ∨ op = 0x8D ∨ op = 0x8F then isG d && isG (w.extractLsb' 8 8).toNat
     else if decodeWord w = .reservedOpcode then false
     else isG d || (decide (0x90 ≤ d) && decide (d ≤ 0x93)))
/-- Register-only words: predicates, integers and addresses, lane exchange, floating point, and NOP (03 R85). -/
def registerOnly (op : Nat) : Bool :=
  decide (op = 1) || (decide (0x20 ≤ op) && decide (op ≤ 0x5E)) || (decide (0x60 ≤ op) && decide (op ≤ 0x86))
/-- LD, LDL and LDX. -/
def plainLoad (op : Nat) : Bool := decide (op = 0x88) || decide (op = 0x8C) || decide (op = 0x8E)
/-- SPLIT, JOIN and EXIT, which move lanes between slots. -/
def movesLanes (op : Nat) : Bool := decide (op = 0x06) || decide (op = 0x07) || decide (op = 0x0B)
/-- Words that read a register in lanes outside their execute mask (17 R410 to R416). -/
def exchanges (op : Nat) : Bool := decide (0x55 ≤ op) && decide (op ≤ 0x5E)

/-! ## The scoreboard (07 R180; 11 R283, R289) -/

/-- The registers that a mint binds, for which it waits; none for one that faults before (11 R283). -/
def mintCodes (s : State) (t : Thread) (w : Word) : List Nat :=
  let op := wordOp w
  if 0xA0 ≤ op ∧ op ≤ 0xA2 then
    let a := (w.extractLsb' 8 8).toNat
    let ctl := rdG t ((w.extractLsb' 0 8).toNat - 0xC0)
    let pair := ctl.getLsbD 2
    if (pair && decide (a % 2 = 1)) || mintLost s ctl.toNat then [] else if pair then [a, a + 1] else [a]
  else []
/-- The lanes in which a register of a word must be clear. -/
def boardLanes (t : Thread) (lanes : Mask) (op : Nat) : Mask :=
  if exchanges op ∨ op = 0xA1 then 0xFFFFFFFF else guardMask t lanes
/-- Every register that a word reads or writes is clear. -/
def boardClear (s : State) (t : Thread) (crew : Bool) (lanes : Mask) (w : Word) : Bool :=
  let ops := wordOps t.mode crew w
  let m := boardLanes t lanes (wordOp w)
  (opdRegs ops false ++ opdRegs ops true ++ mintCodes s t w).all fun k =>
    if k < 0x80 ∨ 0xC0 ≤ k then !isPend t k m else true

/-! ## Accesses that can still fail (03 R85, R86; 13 R333) -/

/-- A word keeps within the bounds of an access of its own slot. -/
def keepsBounds (a : Access) (writes : List Nat) : Bool :=
  decide (a.young < 16) && writes.all fun w => decide (w ∉ a.reads)
/-- A younger word writes no register that it reads itself: past a precise access it may be executed again from the same
sources (03 R85: "or any of those words"). -/
def keepsOwn (t : Thread) (crew : Bool) (w : Word) : Bool :=
  let ops := wordOps t.mode crew w
  (opdRegs ops true).all fun k => decide (k ∉ opdRegs ops false ++ guardCode t.mode)
/-- Words that access memory, local store or the cluster, or send a landing request: LD to ATCAS, LSTO and LREQ. -/
def accesses (op : Nat) : Bool := (decide (0x88 ≤ op) && decide (op ≤ 0x97)) || decide (op = 0xA3) || decide (op = 0xA4)
/-- An acquire with a non-empty mask whose reads have not all returned: no later access of its unit is issued (10 R269). -/
def acquiring (a : Access) : Bool := (decide (a.kind = .acquire) || a.kind.isAtomic) && decide (a.obs ≠ 0) && !a.done
/-- A word may issue past the accesses of its unit that can still fail, and past its acquires. -/
def passesOpen (t : Thread) (crew b : Bool) (w : Word) : Bool :=
  let op := wordOp w
  let writes := opdRegs (wordOps t.mode crew w) true
  t.flight.all fun a =>
    let mine := decide (a.slot = b)
    let ret := returning a
    let firm := a.firm && !a.done
    (!(ret && mine) || ((registerOnly op || plainLoad op) && keepsBounds a writes && keepsOwn t crew w)) &&
    (!firm || (registerOnly op && (!mine || keepsBounds a writes))) &&
    (!(ret || firm) || !movesLanes op) && (!acquiring a || !accesses op)

/-! ## Chains (14 R347, R348) -/

/-- A word reads a latch. -/
def readsLatch (t : Thread) (crew : Bool) (w : Word) : Bool := !(opdLatches (wordOps t.mode crew w)).isEmpty
/-- Words that produce a result (14 R345). -/
def produces (op : Nat) : Bool :=
  (registerOnly op && decide (op ≠ 1)) || decide (op = 0x13) || decide (op = 0x16) || decide (op = 0x1A) || decide (op = 0xA6) ||
    decide (op = 0xD0) || decide (op = 0xD5) || decide (op = 0xD6)
/-- Some of the words produces a result. -/
def anyProduces (ws : List (Nat × Word)) : Bool := ws.any fun e => produces (wordOp e.2)
/-- Some of the words reads a latch. -/
def anyReadsLatch (s : State) (c u : Nat) (ws : List (Nat × Word)) : Bool :=
  ws.any fun e => readsLatch (getUnit s c u) (isCrew u) e.2
/-- Offsets that continue a chain from an offset on, after one whose words produce a result or none: each reads a latch in
some plane. -/
def chainRest (s : State) (c u : Nat) (m : Mask) : Nat → Bool → Word → Nat
  | 0, _, _ => 0
  | n + 1, made, off =>
    let ws := peekWords s c u m off
    if made && anyReadsLatch s c u ws then 1 + chainRest s c u m n (anyProduces ws) (off + 4) else 0
/-- Offsets after a slot's next one that continue its chain. -/
def chainLen (s : State) (c u : Nat) (x : Slot) : Nat :=
  chainRest s c u x.mask 3 (anyProduces (peekWords s c u x.mask x.off)) (x.off + 4)

/-! ## Ready slots and units (07 R180; 13 R329) -/

/-- The words of one offset are clear of the scoreboard. -/
def offsetClear (s : State) (c u : Nat) (m : Mask) (off : Word) : Bool :=
  let t := getUnit s c u
  (peekWords s c u m off).all fun e => boardClear s t (isCrew u) (slotLanes t u m e.1) e.2
/-- Offsets that must be clear before the slot issues: the whole chain at its first offset, else the offset itself. -/
def offsetsAhead (s : State) (c u : Nat) (x : Slot) : List Word :=
  let t := getUnit s c u
  let n := if t.chainLeft = 0 then chainLen s c u x else 0
  (List.range (n + 1)).map fun k => x.off + BitVec.ofNat 32 (4 * k)
/-- The slot is not stopped by its unit: no handler, fault or chain of the other slot holds it back, and nothing blocks the
unit. -/
def slotFree (t : Thread) (b : Bool) : Bool :=
  let x := slotOf t b
  x.occ && decide (x.hold = .none) && (!t.inh || decide (t.inhSlot = b)) && t.block.isEmpty &&
    (if t.chainLeft = 0 then t.entering.isEmpty else decide (t.chainSlot = b))
/-- A slot is ready. -/
def slotReady (s : State) (c u : Nat) (b : Bool) : Bool :=
  let t := getUnit s c u
  let x := slotOf t b
  slotFree t b && (offsetsAhead s c u x).all (offsetClear s c u x.mask) &&
    (peekWords s c u x.mask x.off).all fun e => passesOpen t (isCrew u) b e.2
/-- A unit has a ready slot, its context apart. -/
def unitReady (s : State) (c u : Nat) : Bool :=
  let t := getUnit s c u
  t.live && !t.exited && (slotReady s c u false || slotReady s c u true)
/-- The slot from which a unit issues: the other one than last time when both are ready. -/
def nextSlot (s : State) (c u : Nat) : Option Bool :=
  let t := getUnit s c u
  if slotReady s c u (!t.last) then some (!t.last) else if slotReady s c u t.last then some t.last else none
/-- The units of a context that have a ready slot. -/
def readyUnits (s : State) (c : Nat) : List Nat := (unitKeys s c).filter fun u => unitReady s c u
/-- A context has a ready crew. -/
def crewReady (s : State) (c : Nat) : Bool := (readyUnits s c).any isCrew
/-- A context has work that is ready: a unit, a command of a cox, or a segment of a copy to issue (06 R169). -/
def workReady (s : State) (c : Nat) : Bool :=
  !(readyUnits s c).isEmpty || (unitKeys s c).any fun u =>
    !(getUnit s c u).cox.cmds.isEmpty ||
      (getUnit s c u).copies.any fun k => !k.stopped && k.segs.any fun g => !g.issued

/-! ## Issue pipes and throttling (01 R23; 06 R176; 07 R178, R181) -/

/-- The pipe on which a crew issues. -/
def pipeOf (u : Nat) : Nat := u % 4
/-- The crews of a context on a pipe. -/
def pipeCrews (s : State) (c p : Nat) : List Nat := (unitKeys s c).filter fun u => isCrew u && decide (pipeOf u = p)
/-- Of some crews, the one whose last turn lies furthest back; a tie, between crews that have had none, goes to the one that has
been ready longest, and then to the lowest slot (notes/assumptions/133.md). -/
def longestSince (s : State) (c : Nat) (us : List Nat) : Option Nat :=
  us.foldl (fun m u => match m with
    | none => some u
    | some v =>
      let x := getUnit s c u
      let y := getUnit s c v
      if x.turn < y.turn ∨ (x.turn = y.turn ∧ x.born < y.born) then some u else m) none
/-- The crew for which a pipe issues next: the one whose chain is in progress, else the ready crew whose turn it is. -/
def pipeNext (s : State) (c p : Nat) : Option Nat :=
  let us := pipeCrews s c p
  match us.find? fun u => decide ((getUnit s c u).chainLeft ≠ 0) with
  | some u => if unitReady s c u then some u else none
  | none => longestSince s c (us.filter (unitReady s c))
/-- Throttling withholds the issue of crews in a cycle. -/
def issueHeld (s : State) (t : Nat) : Bool := decide (s.throttle = 2) && Config.withholds t
/-- The units of a context that may issue in this cycle: one crew for each pipe, and its engines. -/
def issuers (s : State) (c : Nat) : List Nat :=
  (if issueHeld s s.now then [] else (List.range 4).filterMap (pipeNext s c)) ++ (readyUnits s c).filter fun u => !isCrew u
/-- It is a unit's turn: an engine that is ready, or the crew that its pipe takes. -/
def hasTurn (s : State) (c u : Nat) : Bool :=
  if isCrew u then !issueHeld s s.now && decide (pipeNext s c (pipeOf u) = some u) else unitReady s c u
/-- A crew's issue turn begins. -/
def beginTurn (s : State) (c u : Nat) : State :=
  if !isCrew u || decide ((getUnit s c u).chainLeft ≠ 0) then s
  else
    let core := ctxCore (getCtx s c)
    let n := (getCore s core).turns + 1
    modCore (modUnit s c u fun t => { t with turn := n }) core fun k => { k with turns := n }

/-! ## Time (01 R21, R23; 04 R97; 06 R166) -/

/-- A context has a command of MMA, MMAS or MILL that throttling withholds. -/
def commandHeld (s : State) (c : Nat) : Bool :=
  decide (s.throttle ≠ 0) && (unitKeys s c).any fun u =>
    isCox u && ((getUnit s c u).cox.cmds.any CoxCmd.isMma || decide ((getUnit s c u).s0.hold = .busy))
/-- The core-cycles of the next d that are charged to the class of a core's active context: those in which nothing is withheld
from it (01 R23). -/
def chargedCycles (s : State) (c d : Nat) : Nat :=
  if s.throttle = 0 then d
  else if commandHeld s c then 0
  else ((List.range d).filter fun k => !issueHeld s (s.now + k)).length
/-- The classes charged, with their cycles: those of active contexts that hold a ferry. -/
def chargedClasses (s : State) (d : Nat) : List (Nat × Nat) :=
  s.cores.filterMap fun e => e.2.active.bind fun c =>
    let x := getCtx s c
    if x.live && !x.ferries.isEmpty then some (x.cls, chargedCycles s c d) else none
/-- Time goes on to a cycle: the cycles between are charged, and every core's clock ticks once every 64 of them. -/
def advanceTo (s : State) (t : Nat) : State :=
  let s := (chargedClasses s (t - s.now)).foldl (fun s k => { s with charge := mset s.charge k.1 (mgetD s.charge k.1 0 + k.2) }) s
  let n := ticksSince s (max s.now t) - ticksSince s s.now
  { s with now := max s.now t, cores := s.cores.map fun e => (e.1, { e.2 with lc := e.2.lc + BitVec.ofNat 48 n }) }
/-- Time goes on by some cycles. -/
def tick (s : State) (d : Nat) : State := advanceTo s (s.now + d)

end Sys2Proof.Machine
end

