-- ==== Sys2Proof/Machine/Sched.lean ====
section
/-! DEFINITION. The distributor: dispatch, placement and launch, budgets, switching and streaming of contexts, completion of
spans, and the supervisor's queue controls (06 R149 to R177; 12 R316; 13 R336). -/

namespace Sys2Proof.Machine

/-! ## Budgets (06 R166) -/

/-- BUD_LIMIT of a class in core-cycles; none for no limit. -/
def classLimit (s : State) (cls : Nat) : Option Nat :=
  let n := ctlField s (0x2000 + 8 * cls) 0 24
  if n = 0xFFFFFF then none else some (n * 1024)
/-- What a class has been charged in the period. -/
def classCharge (s : State) (cls : Nat) : Nat := mgetD s.charge cls 0
/-- A class has budget left. -/
def budgetLeft (s : State) (cls : Nat) : Bool := (classLimit s cls).all fun n => decide (classCharge s cls < n)

/-! ## Contexts of a core (06 R161, R168 to R170) -/

/-- The live contexts. -/
def liveCtxs (s : State) : List Nat := (s.ctxs.filter fun e => e.2.live).map Prod.fst
/-- A context occupies a bank of a core, streams included. -/
def inBankOf (x : Ctx) (core : Nat) : Bool := x.live && decide (x.place ≠ .saved) && decide (ctxCore x = core)
/-- The contexts that occupy banks of a core. -/
def coreCtxs (s : State) (core : Nat) : List Nat := (s.ctxs.filter fun e => inBankOf e.2 core).map Prod.fst
/-- The context in a bank of a core. -/
def bankCtx (s : State) (core bank : Nat) : Option Nat := (coreCtxs s core).find? fun c => decide (ctxBank (getCtx s c) = bank)
/-- A bank is free: no context occupies it, and it is not withheld. -/
def bankFree (s : State) (core bank : Nat) : Bool := (bankCtx s core bank).isNone && decide (4 * core + bank ∉ s.withheld)
/-- The lowest-numbered free bank of a core. -/
def freeBank (s : State) (core : Nat) : Option Nat := (List.range 3).find? (bankFree s core)
/-- A context's priority: the highest among its ferries. -/
def ctxPri (x : Ctx) : Nat := x.ferries.foldl (fun m e => max m e.2.pri) 0
/-- A context is never pre-empted: a ticket of its ferries has PINNED. -/
def ctxPinned (x : Ctx) : Bool := x.ferries.any fun e => e.2.pinned
/-- A resident context may become active: it has a ferry, and nothing keeps it out. -/
def mayActivate (s : State) (c : Nat) : Bool :=
  let x := getCtx s c
  isResident x && !x.ferries.isEmpty && !x.leaving && !x.releasing && !x.halted && (!x.preempted || budgetLeft s x.cls)
/-- Resident contexts of a core, other than the active one, that may become active. -/
def waitingCtxs (s : State) (core : Nat) : List Nat :=
  (coreCtxs s core).filter fun c => decide ((getCore s core).active ≠ some c) && mayActivate s c
/-- The best of some contexts: the highest priority, and of those the one that has waited longest. -/
def bestCtx (s : State) (cs : List Nat) : Option Nat :=
  cs.foldl (fun m c => match m with
    | none => some c
    | some b =>
      let x := getCtx s c
      let y := getCtx s b
      if ctxPri y < ctxPri x ∨ (ctxPri x = ctxPri y ∧ x.since < y.since) then some c else m) none
/-- The active context is at a switch point: no latch chain is in progress (06 R170). -/
def atSwitchPoint (s : State) (core : Nat) : Bool :=
  match (getCore s core).active with
  | none => true
  | some c => (unitKeys s c).all fun u => decide ((getUnit s c u).chainLeft = 0)
/-- Change the active context of a core. -/
def switchTo (s : State) (core : Nat) (target : Option Nat) : State :=
  let s := match (getCore s core).active with
    | some c => modCtx s c fun x => { x with since := s.now, lastUsed := s.now }
    | none => s
  let s := modCore s core fun k => { k with active := target, idleSince := none }
  match target with
  | some c => wakeEngine (modCtx (resumeMints s c) c fun x => { x with preempted := false, lastUsed := s.now }) core 1
  | none => s
/-- A switch to the best of some contexts, at a switch point. -/
def switchBest (s : State) (core : Nat) (cs : List Nat) : State :=
  if atSwitchPoint s core then
    match bestCtx s cs with
    | some c => switchTo s core (some c)
    | none => s
  else s
/-- A PINNED context stays active while it has a ready crew (06 R169). -/
def staysPinned (s : State) (core : Nat) : Bool :=
  (getCore s core).active.any fun c => ctxPinned (getCtx s c) && crewReady s c
/-- The active context has to go: it holds no ferry, it is being released, or R167 or R171 pre-empts it. -/
def mustLeave (s : State) (core : Nat) : Bool :=
  match (getCore s core).active with
  | none => true
  | some c =>
    let x := getCtx s c
    !isResident x || x.ferries.isEmpty || x.leaving || x.releasing || x.preempted
/-- The priority of the active context. -/
def activePri (s : State) (core : Nat) : Nat := (getCore s core).active.elim 0 fun c => ctxPri (getCtx s c)
/-- Waiting contexts with a ready crew, whose priority passes a test. -/
def readyWaiting (s : State) (core : Nat) (f : Ctx → Bool) : List Nat :=
  (waitingCtxs s core).filter fun c => f (getCtx s c) && crewReady s c
/-- CONTEXT_SWITCH (06 R169): the active context has to go, or a resident context of higher priority has a ready crew. -/
def execContextSwitch (core : Nat) (s : State) : Ans :=
  .next (if !atSwitchPoint s core then s
    else if mustLeave s core then
      match bestCtx s (waitingCtxs s core) with
      | some c => switchTo s core (some c)
      | none => if (getCore s core).active.isSome then switchTo s core none else s
    else if staysPinned s core then s
    else switchBest s core (readyWaiting s core fun x => decide (activePri s core < ctxPri x)))
/-- A core has a switch to make. -/
def switchDue (s : State) (core : Nat) : Bool :=
  if mustLeave s core then (getCore s core).active.isSome || !(waitingCtxs s core).isEmpty
  else !(readyWaiting s core fun x => decide (activePri s core < ctxPri x)).isEmpty
/-- The active context has had no work ready for 128 cycles, and another has a ready crew. -/
def idleDue (s : State) (core : Nat) : Bool :=
  ((getCore s core).idleSince.any fun t => decide (t + 128 ≤ s.now)) && !(readyWaiting s core fun _ => true).isEmpty
/-- ACTIVE_IDLE_TIMEOUT (06 R169). -/
def execActiveIdleTimeout (core : Nat) (s : State) : Ans :=
  .next (if idleDue s core then switchBest s core (readyWaiting s core fun _ => true) else s)
/-- Waiting contexts of the active context's priority with a ready crew that have waited 10 µs. -/
def waitedLong (s : State) (core : Nat) : List Nat :=
  readyWaiting s core fun x => decide (ctxPri x = activePri s core) && decide (x.since + 18000 ≤ s.now)
/-- RESIDENT_WAIT_TIMEOUT (06 R169). -/
def execResidentWaitTimeout (core : Nat) (s : State) : Ans :=
  .next (if staysPinned s core then s else switchBest s core (waitedLong s core))
/-- Note for each core whether its active context has work that is ready (06 R169). -/
def noteIdle (s : State) : State :=
  (s.cores.map Prod.fst).foldl (fun s k =>
    match (getCore s k).active with
    | none => s
    | some c =>
      let since := if workReady s c then none else some ((getCore s k).idleSince.getD s.now)
      if (getCore s k).idleSince = since then s else modCore s k fun x => { x with idleSince := since }) s

/-! ## Queues and their heads (06 R156) -/

/-- The bytes of a queue's head entry. -/
def headTicket (s : State) (q : Nat) : List Byte := hwRead s (qEntryPa s q (qHead s q)) 64
/-- The head entry cannot be read. -/
def headPoisoned (s : State) (q : Nat) : Bool := (lineNow s (qEntryPa s q (qHead s q) / 128)).2
/-- Spans in progress: an abandoned one, which never completes, is not counted (the model's choice, notes/assumptions/130.md). -/
def spansOpen (s : State) : Nat := s.spans.countP fun e => !e.2.abandoned
/-- A queue with tickets from which the distributor may take. -/
def queueOpen (s : State) (q : Nat) : Bool := qOn s q && decide (qLen s q ≠ 0)
/-- Host writes that a ticket of a window has to see have not performed (05 R129). -/
def headWaits (s : State) (q : Nat) : Bool :=
  (mget? (getQueue s q).wins (qHead s q)).any fun w => s.hostWait.any fun x => decide (x.1 = w.1 / 64)
/-- A queue is eligible. -/
def queueEligible (s : State) (q : Nat) : Bool :=
  queueOpen s q && !headPoisoned s q && budgetLeft s (tkClass (headTicket s q)) && !headWaits s q &&
    (decide (spansOpen s < 4096) || (getQueue s q).head.isSome)
/-- FUSE asks for a quad whose L1s are fused. -/
def fuseOk (s : State) (core : Nat) (t : List Byte) : Bool :=
  !tkFuse t || bitN (ctlGet s (0x0330 + 4 * dieOf core)) (core % 80 / 4)
/-- The head ticket of an eligible queue, of higher priority than some, waits for a bank of a core (06 R171). -/
def headClaims (s : State) (core pri : Nat) : Bool :=
  (List.range 64).any fun q => queueEligible s q && decide (pri < tkPri (headTicket s q)) &&
    bitN (tkDieMask (headTicket s q)) (dieOf core) && fuseOk s core (headTicket s q)

/-! ## Streaming (06 R171; 09 R245; 11 R280) -/

/-- A context streams out of or into a core. -/
def streaming (s : State) (core : Nat) : Bool :=
  (coreCtxs s core).any fun c => match (getCtx s c).place with
    | .bank _ _ => false
    | _ => true
/-- A part of an open segment lies in the context's own bank. -/
def segLocal (g : Seg) : Bool := (g.src ++ g.dst).any fun p => match p.spot with
  | .bank _ => true
  | _ => false
/-- The context may be streamed out: its LS, XS and GL counters are zero, no issued segment touches its bank, and the engine
does not work for it. -/
def streamReady (s : State) (c core : Nat) : Bool :=
  ((unitKeys s c).all fun u =>
    let t := getUnit s c u
    decide (pathCount t 0 = 0) && decide (pathCount t 1 = 0) && decide (pathCount t 2 = 0) &&
      t.copies.all fun k => k.segs.all fun g => !g.isOpen || !segLocal g) &&
    (getCore s core).engine.all fun e => decide (e.1 ≠ c)
/-- STREAM_OUT: a context that is active is switched away first; the stream begins once the context is ready for it, and one that
streams in has come in. -/
def execStreamOut (c : Nat) (s : State) : Ans :=
  .next (match (getCtx s c).place with
  | .bank core bank =>
    if !(getCtx s c).live || (getCtx s c).releasing then s
    else
      let s := modCtx s c fun x => { x with leaving := true }
      let again := post s 1 (.streamOut c)
      if (getCore s core).active = some c then
        if atSwitchPoint s core then post (switchTo s core (bestCtx s (waitingCtxs s core))) 1 (.streamOut c) else again
      else if streaming s core || !streamReady s c core then again
      else post (modCtx s c fun x => { x with place := .streamOut core bank }) 1 (.streamComplete c)
  | .streamIn _ _ => post s 1 (.streamOut c)
  | _ => s)
/-- A name of the context is LIVE. -/
def holdsNames (s : State) (c : Nat) : Bool := decide (0 < ctxLive s (getCtx s c).home c)
/-- A saved context may be streamed into a core: a bank is free, the die is active, its class has budget left, no head ticket of
higher priority waits for the bank, and its names allow it. -/
def mayStreamIn (s : State) (c core : Nat) : Bool :=
  let x := getCtx s c
  x.live && decide (x.place = .saved) && !x.releasing && decide (dieState s (dieOf core) = 1) && (freeBank s core).isSome &&
    !streaming s core && budgetLeft s x.cls && !headClaims s core (ctxPri x) && (decide (core = x.home) || !holdsNames s c)
/-- STREAM_IN. -/
def execStreamIn (c core : Nat) (s : State) : Ans :=
  .next (match freeBank s core with
  | some b =>
    if mayStreamIn s c core then
      post (modCtx s c fun x => { x with place := .streamIn core b, home := core, leaving := false }) 1 (.streamComplete c)
    else s
  | none => s)
/-- STREAM_COMPLETE: a saved context has no last-page registers. -/
def execStreamComplete (c : Nat) (s : State) : Ans :=
  .next (match (getCtx s c).place with
  | .streamOut _ b => modCtx s c fun x => { x with
      place := .saved, bank := b, leaving := false, since := s.now, units := x.units.map fun u => (u.1, { u.2 with lp := [] }) }
  | .streamIn k b => modCtx s c fun x => { x with place := .bank k b, since := s.now }
  | _ => s)
/-- The core into which a saved context is streamed: its own, or the first that may take it when its own die is not
active. -/
def streamCore (s : State) (c : Nat) : Option Nat :=
  let home := (getCtx s c).home
  if mayStreamIn s c home then some home
  else if dieState s (dieOf home) = 1 then none
  else (List.range 320).find? fun k => mayStreamIn s c k

/-! ## Room for a ferry (06 R159, R161, R162) -/

/-- What a ferry takes: its slot, its crew slots, its register rows, where its local store begins, and its tiles. -/
structure Room where
  slot : Nat
  crews : List Nat
  rows : List Nat
  ls : Nat
  acc : List Nat
  deriving DecidableEq, Repr
/-- A unit that is over has nothing in flight any more. -/
def unitOver (t : Thread) : Bool := !t.live && t.flight.isEmpty && t.copies.isEmpty && t.cox.cmds.isEmpty && t.cox.sent.isEmpty
/-- The lowest-addressed free run of the local store, in bytes. -/
def freeRun (x : Ctx) (n : Nat) : Option Nat :=
  if n = 0 then some 0
  else
    ((List.range 128).map fun k => 1024 * k).find? fun a =>
      decide (a + n ≤ 0x20000) && x.ferries.all fun e => decide (e.2.lsLen = 0) || decide (a + n ≤ e.2.lsBase) ||
        decide (e.2.lsBase + e.2.lsLen ≤ a)
/-- The room that a context has for a ticket's ferry. -/
def roomIn (x : Ctx) (t : List Byte) : Option Room :=
  let n := tkCrews t
  let slots := (List.range 4).filter fun f =>
    (mget? x.ferries f).isNone && unitOver (mgetD x.units (0x40 + f) {}) && unitOver (mgetD x.units (0x44 + f) {})
  let crews := (List.range 64).filter fun u => unitOver (mgetD x.units u {})
  let used := x.ferries.flatMap fun e => e.2.rows
  let rows := (List.range 128).filter fun r => decide (r ∉ used)
  let held := x.ferries.flatMap fun e => e.2.accTiles
  let tiles := (List.range 8).filter fun a => decide (a ∉ held)
  match slots, freeRun x (1024 * tkLskb t) with
  | f :: _, some a =>
    if n ≤ crews.length ∧ n * (tkRegs t + 1) ≤ rows.length ∧ tkAcc t ≤ tiles.length then
      some { slot := f, crews := crews.take n, rows := rows.take (n * (tkRegs t + 1)), ls := a, acc := tiles.take (tkAcc t) }
    else none
  | _, _ => none
/-- How a core takes a ferry: into a context that it has, into a new one in a bank, or after the release of an empty
context. -/
inductive Seat where
  | join (c : Nat) (r : Room)
  | alloc (bank : Nat)
  | release (c : Nat)
  deriving DecidableEq, Repr
/-- The lowest-numbered free save slots. -/
def freeSlots (s : State) : List Nat := (List.range (min 4096 (ctlField s 0x2218 0 13))).filter fun c => !(getCtx s c).live
/-- Some save slot is free. -/
def hasSlot (s : State) : Bool := (List.range (min 4096 (ctlField s 0x2218 0 13))).any fun c => !(getCtx s c).live
/-- A saved context of at least this priority waits for a bank of the core (06 R171). -/
def bankClaimed (s : State) (core pri : Nat) : Bool :=
  s.ctxs.any fun e => decide (e.2.place = .saved) && decide (pri ≤ ctxPri e.2) && decide (streamCore s e.1 = some core)
/-- The least recently used empty context of a core: one with no ferry and not halted. -/
def emptyCtx (s : State) (core : Nat) : Option Nat :=
  let cs := (coreCtxs s core).filter fun c =>
    let x := getCtx s c
    isResident x && x.ferries.isEmpty && !x.halted && !x.releasing
  leastUsed (cs.map fun c => (c, (getCtx s c).lastUsed))
/-- How an eligible core takes a ferry of a ticket; none where the core is not eligible (06 R162). -/
def seatOn (s : State) (t : List Byte) (core : Nat) : Option Seat :=
  if dieState s (dieOf core) ≠ 1 ∨ !bitN (tkDieMask t) (dieOf core) ∨ !fuseOk s core t then none
  else
    let mine := (coreCtxs s core).filter fun c =>
      let x := getCtx s c
      isResident x && !x.halted && !x.leaving && !x.releasing && decide (x.asid = tkAsid t) && decide (x.cls = tkClass t)
    match mine.findSome? fun c => (roomIn (getCtx s c) t).map fun r => (c, r) with
    | some (c, r) => some (.join c r)
    | none =>
      match freeBank s core with
      | some b => if hasSlot s && !bankClaimed s core (tkPri t) && (roomIn {} t).isSome then some (.alloc b) else none
      | none => if (roomIn {} t).isSome then (emptyCtx s core).map .release else none
/-- Crews resident on a core. -/
def coreCrews (s : State) (core : Nat) : Nat :=
  (coreCtxs s core).foldl (fun m c => (getCtx s c).ferries.foldl (fun m e => m + e.2.crews) m) 0

/-! ## Windows of cores (06 R163, R164) -/

/-- The first cores of the candidate windows of a gang. -/
def windowStarts (g : Nat) : List Nat :=
  let a := if g ≤ 1 then 1 else if g = 2 then 2 else 4
  (List.range 320).filter fun c => decide (c % a = 0) && decide (c % 80 + g ≤ 80)
/-- The seats of a window, where every core of it is eligible, and its resident crews. -/
def windowSeats (s : State) (t : List Byte) (c : Nat) : Nat → Option (List (Nat × Seat) × Nat)
  | 0 => some ([], 0)
  | g + 1 =>
    match seatOn s t c, windowSeats s t (c + 1) g with
    | some x, some (l, n) => some ((c, x) :: l, n + coreCrews s c)
    | _, _ => none
/-- A seat takes a save slot. -/
def Seat.needsSlot (x : Seat) : Bool :=
  match x with
  | .alloc _ => true
  | _ => false
/-- The window that a gang takes: the fewest resident crews, then the lowest core. -/
def chooseWindow (s : State) (t : List Byte) (g : Nat) : Option (List (Nat × Seat)) :=
  ((windowStarts g).foldl (fun (m : Option (List (Nat × Seat) × Nat)) c =>
    match windowSeats s t c g with
    | none => m
    | some w =>
      if (freeSlots s).length < (w.1.filter fun e => e.2.needsSlot).length then m
      else match m with
        | none => some w
        | some b => if w.2 < b.2 then some w else m) none).map Prod.fst

/-! ## Launch (06 R165) -/

/-- A crew of a ferry as it starts. -/
def startCrew (t : List Byte) (f num idx ls pos size : Nat) : Thread :=
  let g : Map Word := []
  let put (g : Map Word) (n x : Nat) : Map Word := mput g 0 n (BitVec.ofNat 32 x)
  let g := put (put (put (put (put g 0 (tkFrame t)) 1 (tkFrame t / 2 ^ 32)) 2 idx) 3 ls) 4 (pos + 256 * size)
  { live := true, ferry := f, num := num, s0 := { occ := true, off := 0, mask := 0xFFFFFFFF }, g := g, sg := launchSg 0 num }
/-- A new context in a bank. -/
def newCtx (s : State) (core bank : Nat) (t : List Byte) : Ctx :=
  { live := true, place := .bank core bank, home := core, asid := tkAsid t, cls := tkClass t
    fabcfg := BitVec.ofNat 32 (fieldB (astEntry s (tkAsid t)) 8 4), since := s.now, lastUsed := s.now }
/-- Launch a ferry of a span into a context that has room. -/
def launchFerry (s : State) (c : Nat) (r : Room) (t : List Byte) (span idx pos size : Nat) : State :=
  let n := tkCrews t
  let ls := if tkLskb t = 0 then 0 else r.ls
  let fe : Ferry := { span := span, index := idx, code := tkCode t, frame := BitVec.ofNat 64 (tkFrame t), crews := n, regs := tkRegs t
                      lsBase := ls, lsLen := 1024 * tkLskb t, accTiles := r.acc, acc := tkAcc t, stride := tkStride t
                      gangPos := pos, gangSize := size, pri := tkPri t, pinned := tkPinned t, crewSlots := r.crews, rows := r.rows }
  modCtx s c fun x =>
    let x := scrubbed x ls (1024 * tkLskb t)
    let units := (r.crews.zipIdx).foldl (fun m e => mset m e.1 { startCrew t r.slot e.2 idx ls pos size with born := s.now }) x.units
    { x with
      ferries := mset x.ferries r.slot fe
      units := mdel (mdel units (0x40 + r.slot)) (0x44 + r.slot)
      tiles := x.tiles.filter fun e => decide (e.1 ∉ r.acc) }
/-- A core takes one ferry of a gang. -/
def takeSeat (s : State) (t : List Byte) (span idx pos size : Nat) (core : Nat) (seat : Seat) : State :=
  match seat with
  | .join c r => launchFerry s c r t span idx pos size
  | .alloc b =>
    match freeSlots s, roomIn {} t with
    | c :: _, some r =>
      let s := putCtx s c (newCtx s core b t)
      launchFerry (modCore s core id) c r t span idx pos size
    | _, _ => s
  | .release _ => s
/-- Launch a gang of the head ticket of a queue: the span begins with its first gang, and the ticket leaves the queue with its
last. -/
def launchGang (s : State) (q : Nat) (t : List Byte) (w : List (Nat × Seat)) : State :=
  let k := getQueue s q
  let id := k.head.getD s.nextSpan
  let fresh : Span :=
    { ticket := t, asid := tkAsid t, queue := q, source := tkSource t, window := mget? k.wins (qHead s q)
      entryPa := qEntryPa s q (qHead s q), total := tkSpan t }
  let sp : Span := (mget? s.spans id).getD fresh
  let g := w.length
  let s := w.zipIdx.foldl (fun s e => takeSeat s t id (sp.launched + e.2) e.2 g e.1.1 e.1.2) s
  let sp : Span := { sp with launched := sp.launched + g, cores := w.foldl (fun l e => addOnce l e.1) sp.cores }
  let s := { s with spans := mset s.spans id sp, nextSpan := if k.head.isNone then id + 1 else s.nextSpan }
  let s := modQueue s q fun x => { x with head := some id, victim := none }
  if sp.total ≤ sp.launched then dequeue s q else headClock s q

/-! ## Dispatch (06 R154 to R157, R164, R171) -/

/-- The queues at a priority in the order in which they are served. -/
def queuesAt (s : State) (p : Nat) : List Nat :=
  let last := mget? s.rr p
  let order := (List.range 64).map fun k => match last with
    | none => k
    | some q => (q + 1 + k) % 64
  order.filter fun q => queueEligible s q && decide (tkPri (headTicket s q) = p)
/-- The error of a head ticket that has not begun: invalid, or without an address space. -/
def headError (s : State) (q : Nat) : Option Nat :=
  let t := headTicket s q
  if (getQueue s q).head.isSome then none
  else if tkInvalid t then some 2
  else if !astValid s (tkAsid t) then some 3
  else none
/-- The size of the next gang of a queue's head. -/
def gangSize (s : State) (q : Nat) : Nat :=
  let t := headTicket s q
  let k := getQueue s q
  let left := tkSpan t - (k.head.bind (mget? s.spans)).elim 0 Span.launched
  min (if k.fallback then tkFall t else tkPref t) left
/-- The release of a context begins (05 R144 step 1): its names and halo declarations end. Whether the read-back of the
scrubbed storage finds an error is a free value. -/
def beginRelease (s : State) (c core bank : Nat) : State :=
  let s := reclaimWhere s (getCtx s c).home 3 fun e => decide (e.ctx = c)
  let s := modCtx s c fun x => { x with releasing := true, halos := [], pushes := [], hints := [] }
  let r := takeFree s
  post r.2 1 (.ctxReleaseDone core bank (r.1.getLsbD 0))
/-- What serving a queue does: an error, a launch, the releases that a launch needs first, or nothing. The pointer of the
round-robin moves when releases begin, and not when the head is in error: the model's choice (notes/assumptions/130.md). -/
def serveQueue (s : State) (q : Nat) : Option State :=
  match headError s q with
  | some e => some (qError s q e (qEntryPa s q (qHead s q)))
  | none =>
    let t := headTicket s q
    (chooseWindow s t (gangSize s q)).map fun w =>
      let rel := w.filterMap fun e => match e.2 with
        | .release c => some (e.1, c)
        | _ => none
      let s := { s with rr := mset s.rr (tkPri t) q }
      if rel.isEmpty then launchGang s q t w
      else rel.foldl (fun s e =>
        beginRelease s e.2 e.1 (ctxBank (getCtx s e.2))) s
/-- Serve the first queue that can be served. -/
def serveFirst (s : State) : List Nat → Option State
  | [] => none
  | q :: t => match serveQueue s q with
    | some s' => some s'
    | none => serveFirst s t
/-- The context that gives way to a head ticket that no core can take: the lowest priority, then the lowest core. A halted one
keeps its bank (06 R161). -/
def victim (s : State) (t : List Byte) : Option Nat :=
  let cs := (liveCtxs s).filter fun c =>
    let x := getCtx s c
    let k := ctxCore x
    isResident x && !x.releasing && !x.halted && !x.leaving && !ctxPinned x && decide (ctxPri x < tkPri t) &&
      decide (dieState s (dieOf k) = 1) && bitN (tkDieMask t) (dieOf k) && fuseOk s k t
  leastUsed (cs.map fun c => (c, 1024 * ctxPri (getCtx s c) + ctxCore (getCtx s c)))
/-- The context that makes room for a queue's head is still on its way out. -/
def victimLeaves (s : State) (q : Nat) : Bool :=
  (getQueue s q).victim.any fun c => (getCtx s c).live && (getCtx s c).leaving
/-- Pre-empt for a queue whose head no core can take. -/
def preemptFor (s : State) (q : Nat) : State :=
  let t := headTicket s q
  if (List.range 320).any (fun k => (seatOn s t k).isSome) ∨ victimLeaves s q ∨ !hasSlot s ∨ (roomIn {} t).isNone then s
  else match victim s t with
    | some c => post (modCtx (modQueue s q fun x => { x with victim := some c }) c fun x => { x with leaving := true }) 1 (.streamOut c)
    | none => s
/-- Serve the priorities from the highest on; every head that no core can take makes room. -/
def servePri (s : State) : Nat → State
  | 0 => s
  | p + 1 =>
    let qs := queuesAt s p
    match serveFirst s qs with
    | some s' => s'
    | none => servePri (qs.foldl preemptFor s) p
/-- The storage errors that the distributor's reads of the head entries meet. -/
def readHeads (s : State) : State :=
  (((List.range 64).filter (queueOpen s)).map fun q => qEntryPa s q (qHead s q) / 128).foldl
    (fun s l => if homeHas s l then readNewest s l else s) s
/-- DISPATCH_DECISION: an entry that cannot be read stops its queue; else one queue is served. -/
def execDispatchDecision (s : State) : Ans :=
  let s := readHeads s
  .next (match (List.range 64).find? fun q => queueOpen s q && (getQueue s q).head.isNone && headPoisoned s q with
  | some q => qError s q 1 (qEntryPa s q (qHead s q))
  | none => servePri s 4)
/-- The distributor has something to decide. -/
def dispatchDue (s : State) : Bool := (List.range 64).any (queueOpen s)
/-- GANG_FALLBACK_TIMER (06 R164 step 5). -/
def execGangFallbackTimer (q : Nat) (s : State) : Ans :=
  .next (if qLen s q ≠ 0 ∧ (getQueue s q).since + 3600 ≤ s.now then modQueue s q fun x => { x with fallback := true } else s)

/-! ## Completion of spans (06 R173; 05 R130) -/

/-- Stores of units that are over, and of their copies, have completed, and every sharer outside the cell has answered. -/
def oldStoresOver (s : State) : Bool :=
  s.ctxs.all fun e => e.2.units.all fun u =>
    u.2.live || (u.2.flight.all (fun a => a.done || !a.kind.stores) && u.2.copies.isEmpty && u.2.invs.isEmpty)
/-- Step 1: the span's stores are visible to every observer class: they have performed, no sharer is left to answer, and what
they wrote is in memory (notes/assumptions/101.md). -/
def spanVisible (s : State) (sp : Span) : Bool × State :=
  if !oldStoresOver s then (false, s)
  else
    let s := sp.cores.foldl flushCore s
    (sp.cores.all fun k => (dirtyLines s k).isEmpty, s)
/-- Step 3: the window through which the ticket came counts it, and then notifies. -/
def spanCounted (s : State) (sp : Span) : State :=
  match sp.window with
  | none => s
  | some (k, binding) =>
    let w := mgetD s.windows k {}
    let b := ctlGet s (0x0C00 + 8 * k)
    if tkParent sp.ticket ≠ 0 ∨ w.binding ≠ binding ∨ !bitN b 0 then s
    else
      let s := { s with windows := mset s.windows k { w with done := w.done + 1 } }
      if tkNotify sp.ticket && (mgetD s.ports (k / 64) {}).up then emit s (.msix (k / 64) (bitsN b 23 11)) else s
/-- The standing arrivals of a span's ferries end (07 R195). -/
def endStanding (s : State) (sp : Span) : State :=
  sp.standing.foldl (fun s a => post s 0 (.hbarArrival { a with kind := .discard })) s
/-- The span is over: its standing arrivals end, and it is counted. -/
def spanOver (s : State) (id : Nat) (sp : Span) : State :=
  let s := endStanding s sp
  spanCounted { s with spans := mdel s.spans id } sp
/-- Where an address of the span's space lies: none inside where it cannot be translated, none at all while the distributor's walk
waits for a line. It walks as die 0 does (notes/assumptions/134.md). -/
def spanPa (s : State) (sp : Span) (va n : Nat) (need : Need) : Option (Option Nat) × State :=
  let a := BitVec.ofNat 64 va
  if !canonAccess a n then (some none, s)
  else
    let s := walkReads s 0 sp.asid a
    match walkVia s 0 sp.asid (tkClass sp.ticket) a need with
    | .ok x => (some (some (xlatPa x a)), walkFill s 0 sp.asid a)
    | .bad _ _ => (some none, walkEnd s 0)
    | .waits line => (none, walkAsk s none 0 line)
/-- The continuation ticket at CONT: its bytes once they are at hand; an empty list where it cannot be read. -/
def contRead (s : State) (sp : Span) (cont : Nat) : Option (List Byte) × State × List (Nat × Nat) :=
  match spanPa s sp cont 64 { r := true } with
  | (none, s) => (none, s, sp.asks)
  | (some none, s) => (some [], s, sp.asks)
  | (some (some pa), s) =>
    let g := engineGet s 0 none sp.asks pa 64
    if g.refused.isSome then (some [], g.st, g.asks)
    else (g.data.map fun d => if d.2 then [] else d.1, g.st, g.asks)
/-- Enqueue a continuation, or keep it for a retry while the queue is full. -/
def enqueueCont (s : State) (q : Nat) (t : List Byte) (asid : Nat) : State :=
  if qFull s q ∨ !(getQueue s q).conts.isEmpty then
    post (modQueue s q fun x => { x with conts := x.conts ++ [(t, asid, 3)] }) 1800 (.continuationRetry q)
  else enqueue s q t asid 3 none
/-- The last span of a record has completed: its continuation is checked and enqueued. -/
def continueWith (s : State) (sp : Span) (cont : Nat) (t : List Byte) : State :=
  if t.length ≠ 64 ∨ cont % 64 ≠ 0 ∨ tkInvalid t ∨ tkCheck t (tkClass sp.ticket) (tkPri sp.ticket) ≠ 0 then
    qError s sp.queue 5 (tkParent sp.ticket)
  else enqueueCont s sp.queue t sp.asid
/-- Step 2: the decrement of the record at PARENT, as one atomic; none while it waits for its lines. -/
def joinRecord (s : State) (id : Nat) (sp : Span) : Option State × State × List (Nat × Nat) :=
  let va := tkParent sp.ticket
  match spanPa s sp va 16 { r := true, w := true } with
  | (none, s) => (none, s, sp.asks)
  | (some none, s) => (some (qError s sp.queue 8 va), s, sp.asks)
  | (some (some pa), s) =>
    let g := engineGet s 0 none sp.asks pa 16
    let s := g.st
    let fails (s : State) : Option State × State × List (Nat × Nat) := (some (qError s sp.queue 8 va), s, g.asks)
    if g.refused.isSome then fails s
    else match g.data with
      | none => (none, s, g.asks)
      | some (d, p) =>
        let c := fieldB d 0 4
        let cont := fieldB d 8 8
        if p then fails s
        else if c = 0 then (some (qError s sp.queue 4 va), s, g.asks)
        else
          let last := decide (c = 1) && decide (cont ≠ 0)
          let r := if last then contRead s { sp with asks := g.asks } cont else (some [], s, g.asks)
          match r.1 with
          | none => (none, r.2.1, r.2.2)
          | some t =>
            match enginePut r.2.1 0 none (.span id) pa (leBytes 4 (c - 1)) with
            | (.done, s) => (some (if last then continueWith s sp cont t else s), s, r.2.2)
            | (.waits, s) => (none, s, r.2.2)
            | (.refused _, s) => fails s
/-- SPAN_COMPLETE. -/
def execSpanComplete (id : Nat) (s : State) : Ans :=
  .next (match mget? s.spans id with
  | none => s
  | some sp =>
    if sp.abandoned || decide (sp.exited ≠ sp.total) then s
    else
      let v := spanVisible s sp
      if !v.1 then post v.2 1 (.spanComplete id)
      else if tkParent sp.ticket = 0 then spanOver v.2 id sp
      else
        let r := joinRecord v.2 id sp
        match r.1 with
        | some s => spanOver s id sp
        | none =>
          let s := r.2.1
          post { s with spans := mset s.spans id { sp with asks := r.2.2 } } 1 (.spanComplete id))
/-- CONTINUATION_RETRY (06 R173). -/
def execContinuationRetry (q : Nat) (s : State) : Ans :=
  .next (match (getQueue s q).conts with
  | [] => s
  | (t, asid, src) :: rest =>
    if qFull s q then post s 1800 (.continuationRetry q)
    else enqueue (modQueue s q fun x => { x with conts := rest }) q t asid src none)

/-! ## Periods (06 R160, R167) -/

/-- PERIOD in µs. -/
def periodUs (s : State) : Nat := max 10 (min 1000 (ctlField s 0x2200 0 16))
/-- A class whose charge has reached its limit. -/
def overLimit (s : State) (cls : Nat) : Bool := !budgetLeft s cls
/-- Pre-empt the contexts of the classes over their limit. -/
def preemptOver (s : State) : State :=
  let f (x : Ctx) : Ctx := if x.live && overLimit s x.cls && !ctxPinned x then { x with preempted := true } else x
  { s with ctxs := s.ctxs.map fun e => (e.1, f e.2) }
/-- SCHED_PERIOD_BOUNDARY: a class over its limit carries the excess, every other one starts at 0. -/
def execSchedPeriodBoundary (s : State) : Ans :=
  let t := preemptOver s
  let carry := (List.range 64).filterMap fun k => (classLimit s k).bind fun n =>
    if n ≤ classCharge s k ∧ classCharge s k ≠ n then some (k, classCharge s k - n) else none
  .next (post { t with charge := carry } (1800 * periodUs s) .schedPeriodBoundary)

/-! ## The supervisor's queue controls (06 R152, R153) -/

/-- Q_SUBMIT: checks 2, 6 and 7 of R128; PINNED is allowed. -/
def execQSubmit (q pa : Nat) (s : State) : Ans :=
  let a := bitsN pa 6 46 * 64
  let t := hwRead s a 64
  .next (if tkShapeBad t ∨ (lineNow s (a / 128)).2 ∨ qFull s q then qError s q 7 a
    else enqueue s q t (ctlField s (qReg q 0x18) 0 16) 0 none)
/-- Q_SKIP: the head entry of a stopped queue leaves it. A span of it that has launched in part goes on, can never complete, and
stays in progress until it is abandoned: the model's choice (notes/assumptions/130.md). -/
def execQSkip (q : Nat) (s : State) : Ans :=
  .next (if qOn s q ∨ qLen s q = 0 then s else dequeue s q)

end Sys2Proof.Machine
end

