-- ==== Sys2Proof/Machine/Service.lean ====
section
/-! DEFINITION. Release and scrub of contexts, and live service of dies and stacks (05 R144 to R148; 06 R161, R174). -/

namespace Sys2Proof.Machine

/-! ## Release (05 R144; 06 R174) -/

/-- A span is abandoned: a ferry of a released context can no longer exit, and the span's standing arrivals end (06 R174;
07 R195). -/
def abandonSpan (s : State) (id : Nat) : State :=
  match mget? s.spans id with
  | none => s
  | some sp =>
    if sp.abandoned then s
    else qError { (endStanding s sp) with spans := mset s.spans id { sp with abandoned := true, standing := [] } } sp.queue 6 sp.entryPa
/-- CTX_REL.DONE, FAIL and REFUSED are cleared. -/
def clearRel (s : State) : State := ctlPut s 0x0A00 28 3 0
/-- CTX_REL with GO: a release starts, unless one is in progress or the bank's context may not be released. A CORE of 320 or above
names a bank that holds no context, and is refused: the model's choice (notes/assumptions/130.md). -/
def execCtxRelGo (val : Word) (s : State) : Ans :=
  let core := bitsN val.toNat 2 9
  let bank := bitsN val.toNat 0 2
  .next (if s.relReg.isSome ∨ bank = 3 then s
    else
      let s := clearRel (ctlPut s 0x0A00 0 11 (bitsN val.toNat 0 11))
      match bankCtx s core bank with
      | none => ctlPut s 0x0A00 28 1 1
      | some c =>
        let x := getCtx s c
        if !isResident x || x.releasing || (!x.ferries.isEmpty && !x.halted) then ctlPut s 0x0A00 28 1 1
        else
          let s := x.ferries.foldl (fun s e => abandonSpan s e.2.span) s
          beginRelease { s with relReg := some c } c core bank)
/-- A landing store of an engine that works for a context. -/
def landOf (o : LandFrom) (c : Nat) : Bool :=
  match o with
  | .engine k _ _ => decide (k = c)
  | _ => false
/-- A delivery for a context's engines is on its way. -/
def landsOut (s : State) (c : Nat) : Bool :=
  (s.landTxns.any fun e => landOf e.2.2 c) || s.pending.any fun t => match t.ev with
    | .landingStore m => landOf m.origin c
    | _ => false
/-- Nothing that the context has started is in progress any more. -/
def releaseReady (s : State) (c core : Nat) : Bool :=
  ((unitKeys s c).all fun u =>
    let t := getUnit s c u
    t.flight.all Access.done && t.copies.all fun k => k.segs.all fun g => !g.isOpen) &&
    ((getCore s core).engine.all fun e => decide (e.1 ≠ c)) && !landsOut s c &&
    (s.mills.all fun e => e.2.all fun j => decide (j.ctx ≠ c)) && s.publs.all fun p => decide (p.ctx ≠ c)
/-- Memory of a context's save slot reads zero, and no cache holds a line of it. -/
def zeroSlot (s : State) (c : Nat) : State :=
  let lo := ctlGet s 0x2210 + 2 ^ 20 * c
  let inSlot (line : Nat) : Bool := decide (lo ≤ 128 * line) && decide (128 * line < lo + 2 ^ 20)
  { s with
    mem := s.mem.filter fun m => !(decide (lo ≤ m.1) && decide (m.1 < lo + 2 ^ 20))
    poison := s.poison.filter fun e => !inSlot e.1
    home := s.home.map fun e => if inSlot e.1 then (e.1, { e.2 with st := .i }) else e
    l2 := s.l2.filter fun e => !inSlot (e.1 / 4)
    l1 := s.l1.filter fun e => !inSlot (e.1 / 320) }
/-- A storage error stands in the registers of a context. -/
def errOf (c : Nat) (p : ErrPlace) : Bool :=
  match p with
  | .regs k _ => decide (k = c)
  | _ => false
/-- The supervisor fault of a scrub whose read-back finds an error, as POISON of register storage (05 R144; 07 R208;
notes/assumptions/135.md). -/
def scrubFault (s : State) (c core : Nat) : State :=
  let f : PendingFault :=
    { record := { cause := causeWord .poison 2 0 }, cause := .poison, sup := true, held := false, slot := false, age := 0 }
  if fltOn s (dieOf core) then ringWrite s (dieOf core) (recordBytes s c 0 f true) else s
/-- Steps 2 to 4: the bank and what the caches hold for the context are gone. -/
def scrubCtx (s : State) (c core : Nat) : State :=
  let home := (getCtx s c).home
  let s := modCore s home fun k => { k with landing := k.landing.filter fun e => decide (e.2.ctx ≠ c) }
  let s := { s with
    l1 := s.l1.filter fun e => decide (e.2.ctx ≠ c)
    errs := s.errs.filter fun e => !errOf c e.1 }
  let s := if (getCore s core).active = some c then modCore s core fun k => { k with active := none, idleSince := none } else s
  zeroSlot { s with ctxs := mdel s.ctxs c } c
/-- The payload of a scrub entry: core, bank, class and result (notes/assumptions/23.md). -/
def scrubPayload (core bank cls : Nat) (ok : Bool) : List Byte :=
  leBytes 2 core ++ leBytes 1 bank ++ leBytes 1 cls ++ leBytes 1 (if ok then 0 else 1)
/-- CTX_RELEASE_DONE: steps 2 to 6, once the lines that the context has written are written back; an uncorrectable error of such a
line poisons it, and the release goes on. -/
def execCtxReleaseDone (core bank : Nat) (scrubOk : Bool) (s : State) : Ans :=
  .next (match (bankCtx s core bank).filter fun c => (getCtx s c).releasing with
  | none => s
  | some c =>
    let t := flushCore s core
    if !releaseReady s c core then post s 1 (.ctxReleaseDone core bank scrubOk)
    else if !(dirtyLines t core).isEmpty then post t 1 (.ctxReleaseDone core bank scrubOk)
    else
      let byReg := decide (s.relReg = some c)
      let cls := (getCtx s c).cls
      let s := if scrubOk then t else scrubFault t c core
      let s := scrubCtx s c core
      let s := auditAppend s (if scrubOk then 0x0003 else 0x0004) 0 (scrubPayload core bank cls scrubOk)
      let s := if scrubOk then s else { s with withheld := addOnce s.withheld (4 * core + bank) }
      if byReg then
        let s := ctlPut { s with relReg := none } 0x0A00 30 1 1
        if scrubOk then s else ctlPut s 0x0A00 29 1 1
      else s)

/-! ## Draining and readmitting a die (05 R146) -/

/-- DRAIN_CTL.BUSY. -/
def drainBusy (s : State) : Bool := decide (ctlField s 0x0A10 31 1 = 1)
/-- A change of a die's state is logged. -/
def dieChange (s : State) (die v : Nat) : State := auditFree (setDie s die v) 0x0009
/-- The contexts in banks of a die. -/
def dieCtxs (s : State) (die : Nat) : List Nat :=
  (s.ctxs.filter fun e => e.2.live && decide (e.2.place ≠ .saved) && decide (dieOf (ctxCore e.2) = die)).map Prod.fst
/-- Step 2: every context of the die is to be streamed out. -/
def saveAll (s : State) (die : Nat) : State :=
  ((dieCtxs s die).filter fun c => !(getCtx s c).leaving && !(getCtx s c).releasing).foldl
    (fun s c => post (modCtx s c fun x => { x with leaving := true }) 1 (.streamOut c)) s
/-- Lines that a die's L2 owns. -/
def dieOwned (s : State) (die : Nat) : List Nat :=
  (s.l2.filter fun e => decide (e.1 % 4 = die) && e.2.st.owned).map fun e => e.1 / 4
/-- Work on a drain: contexts are saved, then lines are returned and copies dropped, then the die is fenced. -/
def drainStep (s : State) (die : Nat) : State :=
  if !(dieCtxs s die).isEmpty then post (saveAll s die) 1 (.drainDie die)
  else
    let s := (dieOwned s die).foldl (fun s l => writeBack s die l) s
    if s.wb.any fun e => decide (e.1 % 4 = die) then post s 1 (.drainDie die)
    else
      let s := { s with
        l2 := s.l2.filter fun e => decide (e.1 % 4 ≠ die)
        l1 := s.l1.filter fun e => decide (dieOf (e.1 % 320) ≠ die) }
      dieChange (ctlPut { s with fences := s.fences.erase die } 0x0A10 31 1 0) die 3
/-- DRAIN_DIE. The supervisor's fence of a die whose link is down waits while another drain or a readmission is in progress
(01 R16). -/
def execDrainDie (die : Nat) (s : State) : Ans :=
  .next (if 4 ≤ die then s
    else if dieState s die = 2 then drainStep s die
    else if dieState s die = 1 ∧ !drainBusy s then post (dieChange (ctlPut s 0x0A10 31 1 1) die 2) 1 (.drainDie die)
    else if die ∈ s.fences ∧ drainBusy s then post s 1 (.drainDie die)
    else if dieState s die = 3 then { s with fences := s.fences.erase die }
    else s)
/-- READMIT_DIE: the self-test begins; whether it passes is a free value. -/
def execReadmitDie (die : Nat) (s : State) : Ans :=
  .next (if 4 ≤ die ∨ dieState s die ≠ 3 ∨ drainBusy s then s
    else
      let r := takeFree (ctlPut s 0x0A10 30 2 2)
      post r.2 1 (.readmissionDone die (r.1.getLsbD 0)))
/-- READMISSION_DONE. -/
def execReadmissionDone (die : Nat) (pass : Bool) (s : State) : Ans :=
  .next (if 4 ≤ die ∨ dieState s die ≠ 3 ∨ !drainBusy s then s
    else
      let s := ctlPut s 0x0A10 31 1 0
      if pass then dieChange s die 1 else ctlPut s 0x0A10 30 1 1)

/-! ## Recalibrating a stack (05 R148) -/

/-- STK_CTL.BUSY. -/
def stkBusy (s : State) : Bool := decide (ctlField s 0x0A18 31 1 = 1)
/-- A change of a stack's state is logged. -/
def stackChange (s : State) (m v : Nat) : State := auditFree (setStack s m v) 0x0009
/-- STK_DRAIN. -/
def execStkDrain (m : Nat) (s : State) : Ans :=
  .next (if 8 ≤ m ∨ stkBusy s ∨ stackState s m ≠ 1 then s
    else post (stackChange (ctlPut { s with stkQuiet := s.now } 0x0A18 31 1 1) m 2) 1 (.stkRecalibrate m))
/-- An access to a stack is in progress: a request that its home serves, a forward, a grant or an answer that is awaited on a line
of it, a MILL, or a write of the hardware's that waits. -/
def stackInUse (s : State) (m : Nat) : Bool :=
  (s.home.any fun e => decide (stackOf e.1 = m) && (e.2.turn.isSome || e.2.fwd.isSome)) ||
    (s.filt.any fun e => decide (stackOf e.1 = m) && !filtFree e.2) ||
    ((mgetD s.mills m []).any fun j => decide (j.phase = 0)) ||
    s.hwPend.any fun w => decide (stackOf (w.1 / 128) = m)
/-- STK_RECALIBRATE: once no access to the stack has been in progress for 1 µs the base die recalibrates, and holds accesses to the
stack from then on. -/
def execStkRecalibrate (m : Nat) (s : State) : Ans :=
  .next (if 8 ≤ m ∨ stackState s m ≠ 2 ∨ !stkBusy s ∨ mgetD s.recal m false then s
    else if stackInUse s m then post { s with stkQuiet := s.now } 1 (.stkRecalibrate m)
    else if s.now < s.stkQuiet + 1800 then post s 1 (.stkRecalibrate m)
    else post { s with recal := mset s.recal m true } 1 (.stkRecalibrateDone m))
/-- STK_RECALIBRATE_DONE: what was held is served. -/
def execStkRecalibrateDone (m : Nat) (s : State) : Ans :=
  .next (if !mgetD s.recal m false then s
    else
      let s := ctlPut { s with recal := mdel s.recal m } 0x0A18 31 1 0
      ((s.home.map Prod.fst).filter fun l => decide (stackOf l = m)).foldl linePump s)
/-- STK_RESUME. -/
def execStkResume (m : Nat) (s : State) : Ans :=
  .next (if 8 ≤ m ∨ stkBusy s ∨ stackState s m ≠ 2 then s else stackChange s m 1)

end Sys2Proof.Machine
end

