-- ==== Sys2Proof/Machine/Upkeep.lean ====
section
/-! DEFINITION. Upkeep of translations, replicas, clocks, leases and fused quads (04 R97 to R99, R105, R110 to R112; 07 R205;
09 R240, R246, R247, R255). -/

namespace Sys2Proof.Machine

/-! ## Walks and sweeps (09 R240, R246, R247) -/

/-- What the access that a walk serves needs: a load, a store, an atomic or a fetch. -/
def needOf (n : Nat) : Need := if n = 0 then { r := true } else if n = 1 then { w := true } else if n = 2 then { r := true, w := true } else { x := true }
/-- The walk of an access of a context: what it finds is installed in the core's TLB and the die's walk cache; it reads the tables
as they stand, and waits for a line that is not at hand. Which access asked for it, and what that needs, is a free value. -/
def walkGo (core ctx : Nat) (va : Dword) (s : State) : State :=
  let x := getCtx s ctx
  let die := dieOf core
  let r := takeFree s
  let s := walkReads r.2 die x.asid va
  match walkVia s die x.asid x.cls va (needOf (r.1.toNat % 4)) with
  | .ok t => tlbFill (walkFill s die x.asid va) core t
  | .bad _ _ => walkEnd s die
  | .waits line => post (walkAsk s (some ctx) core line) 1 (.walkComplete core ctx va)
/-- WALK_COMPLETE: hints that wait for a walk of this address go on (09 R260), else the walk itself. -/
def execWalkComplete (core ctx : Nat) (va : Dword) (s : State) : Ans :=
  .next (match (getCtx s ctx).hints.find? fun h => decide (h.lanes.head?.map Prod.snd = some va) with
  | some h =>
    let as : List LaneAcc := h.lanes.map fun l => { lane := l.1, ea := l.2 }
    runHints (modCtx s ctx fun x => { x with hints := x.hints.erase h }) ctx h.unit h.size h.resid as
  | none => walkGo core ctx va s)
/-- XLAT_INV_CTL with GO. While BUSY only GO is ignored (09 R246). -/
def execXlatInvGo (val : Word) (s : State) : Ans :=
  let v := val.toNat
  let busy := decide (ctlField s 0x2408 31 1 = 1)
  let s := ctlPut s 0x2408 0 20 (bitsN v 0 20)
  .next (if busy then s
    else (startSweep (ctlPut s 0x2408 31 1 1) (bitsN v 18 2) (bitsN v 16 2) (bitsN v 0 16) (ctlGet s 0x2400) true).2)
/-- A sweep that started earlier has not completed. One of a collapse waits for no access, and neither waits for another nor holds
one back (notes/assumptions/136.md). -/
def sweepFirst (s : State) (w : Sweep) : Bool :=
  decide (w.scope = 4) || ((s.sweeps.filter fun x => decide (x.scope ≠ 4)).head?.any fun x => decide (x.id = w.id))
/-- SWEEP_COMPLETE: sweeps complete in the order in which they started. -/
def execSweepComplete (id : Nat) (s : State) : Ans :=
  .next (match s.sweeps.find? fun w => decide (w.id = id) with
  | none => s
  | some w =>
    if sweepFirst s w && sweepOver s w then
      let s := { s with sweeps := s.sweeps.erase w }
      if w.reg then ctlPut s 0x2408 31 1 0 else s
    else post s 1 (.sweepComplete id))

/-! ## Replicas (04 R110 to R112; 09 R255) -/

/-- The address of a map entry. -/
def repEntry (s : State) (idx : Nat) : Nat := ctlGet s 0x2420 + 64 * idx
/-- HOME of an entry, as a page number. -/
def repHome (s : State) (idx : Nat) : Nat := bitsN (hwNat s (repEntry s idx) 8) 13 39
/-- The pages of an entry from its first one on. -/
def pagesOf (first n : Nat) : List Nat := (List.range n).map fun i => first + i
/-- REP_ARM with GO: writes to HOME are matched from now on. Whether a page aligned to 8 MiB is one of an 8 MiB leaf is a free
value: the entry does not say. -/
def execRepArmGo (val : Word) (s : State) : Ans :=
  .next (if ctlField s 0x2428 31 1 = 1 then s
    else
      let idx := bitsN val.toNat 0 12
      let s := ctlPut (ctlPut (ctlPut s 0x2428 0 12 idx) 0x2428 29 1 0) 0x2428 31 1 1
      let first := repHome s idx
      let r := takeFree s
      let n := if first % 1024 = 0 ∧ r.1.getLsbD 0 then 1024 else 1
      let reps := (pagesOf first n).foldl (fun m p => mset m p idx) (r.2.reps.filter fun e => decide (e.2 ≠ idx))
      let s : State := { r.2 with reps := reps, arming := some (idx, false) }
      post s 1 (.replicaArmDone idx))
/-- The pages of a map entry that writes are matched against. -/
def repPages (s : State) (idx : Nat) : List Nat := (s.reps.filter fun e => decide (e.2 = idx)).map Prod.fst
/-- The lines of a page. -/
def pageLines (p : Nat) : List Nat := (List.range 64).map fun i => 64 * p + i
/-- Lines of a page whose newest version is not at hand at its home are asked for; whether none is left. The others are read, with
the storage errors that stand in them. -/
def pageCurrent (s : State) (p : Nat) : Bool × State :=
  (pageLines p).foldl (fun a l =>
    if homeHas a.2 l then (a.1, readNewest a.2 l) else (false, (strongRead a.2 none 0 l none).2.2)) (true, s)
/-- The highest rts of a page's lines. -/
def pageRts (s : State) (p : Nat) : Stamp :=
  (pageLines p).foldl (fun m l =>
    let h := (getHome s l).rts
    let o := match ownerL2 s l with
      | some (_, x) => stampMax h x.rts
      | none => h
    stampMax m o) 0
/-- Copy one page into the replica of each die that has one, poison marks included. -/
def copyReplica (s : State) (idx first p : Nat) : State :=
  (List.range 4).foldl (fun s d =>
    let r := hwNat s (repEntry s idx + 0x18 + 8 * d) 8
    if bitN r 0 then
      let pa := ownEp s * 2 ^ 45 + bitsN r 13 32 * 2 ^ 13 + 8192 * (p - first)
      let marks := (pageLines p).map fun l => (lineNow s l).2
      let s := hwWrite s pa (hwRead s (8192 * p) 8192)
      marks.zipIdx.foldl (fun s m => setPoison s (pa / 128 + m.2) m.1) s
    else s) s
/-- FLAGS of an entry. -/
def repFlags (s : State) (idx v : Nat) : State := hwWrite s (repEntry s idx + 0x16) (leBytes 2 v)
/-- REPLICA_ARM_DONE: the replicas are copied, RTIME and V are set; a write that came first leaves V clear and sets FAIL. -/
def execReplicaArmDone (idx : Nat) (s : State) : Ans :=
  .next (match s.arming.filter fun a => decide (a.1 = idx) with
  | none => s
  | some (_, wrote) =>
    let idle (s : State) : State := ctlPut { s with arming := none } 0x2428 31 1 0
    if wrote then ctlPut (idle { s with reps := s.reps.filter fun e => decide (e.2 ≠ idx) }) 0x2428 29 1 1
    else
      let ps := repPages s idx
      let r := ps.foldl (fun (a : Bool × State) p =>
        let b := pageCurrent a.2 p
        (a.1 && b.1, b.2)) (true, s)
      if !r.1 then post r.2 1 (.replicaArmDone idx)
      else
        let s := ps.foldl (fun s p => copyReplica s idx (ps.headD 0) p) r.2
        let rt := ps.foldl (fun m p => stampMax m (pageRts s p)) 0
        idle (repFlags (hwWrite s (repEntry s idx + 0x10) (leBytes 6 rt.toNat)) idx 1))
/-- The sweep of a collapse is over. -/
def collapseSwept (s : State) (idx : Nat) : Bool := !(s.sweeps.any fun w => decide (w.scope = 4) && decide (w.target = idx))
/-- A collapse has ended: the next one of the die that waits for a place begins. -/
def nextCollapse (s : State) (die : Nat) : State :=
  match s.repQueue.find? fun q => decide (homeDie (64 * repPage s q) = die) with
  | none => s
  | some idx => startCollapse { s with repQueue := s.repQueue.erase idx } idx
/-- REPLICA_COLLAPSE_DONE: every die drops its replica, the collapse is counted, and the held writes perform from here on in order
of arrival. -/
def execReplicaCollapseDone (page : Nat) (s : State) : Ans :=
  .next (match s.collapses.find? fun k => decide (k.page = page) && !k.swept with
  | none => s
  | some k =>
    if !collapseSwept s k.idx then post s 1 (.replicaCollapseDone page)
    else
      let s := repFlags s k.idx 2
      let s : State := { s with collapses := s.collapses.map fun c => if c.idx = k.idx then { c with swept := true } else c }
      let s := ctlCount s 0x0308 0 31 1
      let s := ctlSet (ctlSet s 0x0310 (8192 * page % 2 ^ 32)) 0x0314 (8192 * page / 2 ^ 32 % 2 ^ 20)
      let s := if (repWaits s k.idx).isEmpty then repForget s k.idx else s
      let s := nextCollapse s (homeDie (64 * page))
      ctlPut s 0x0308 31 1 (if s.collapses.any fun c => !c.swept then 1 else 0))

/-! ## Clocks and leases (04 R97, R99, R105) -/

/-- LOGICAL_CLOCK_TICK. -/
def execLogicalClockTick (core : Nat) (s : State) : Ans := .next (modCore s core fun k => { k with lc := k.lc + 1 })
/-- Raise every clock that lies more than 2^40 behind. -/
def raiseClocks (s : State) (high : Stamp) : State :=
  (List.range 320).foldl (fun s k =>
    let c := (getCore s k).lc
    if raiseBehind high c = c then s else modCore s k fun x => { x with lc := raiseBehind high c }) s
/-- The earlier of two stamps. -/
def stampMin (a b : Stamp) : Stamp := if later a b then b else a
/-- A die's lowest clock. -/
def lowClock (s : State) (die : Nat) : Stamp :=
  (List.range 80).foldl (fun m k => stampMin m (getCore s (80 * die + k)).lc) (getCore s (80 * die)).lc
/-- A stamp lies more than 2^42 behind a clock. -/
def farBehind (low t : Stamp) : Bool := later low t && decide (2 ^ 42 < (low - t).toNat)
/-- A stamp no further than 2^42 behind a clock. -/
def keepUp (low t : Stamp) : Stamp := if farBehind low t then low - 2 ^ 42 else t
/-- Step 3 of R99: old clean copies go, and the stamps of owned and homed lines and of the stacks are raised. -/
def refreshStamps (s : State) : State :=
  { s with
    l2 := (s.l2.filter fun e => decide (e.2.st ≠ .s) || !farBehind (lowClock s (e.1 % 4)) e.2.rts).map fun e =>
      if e.2.st = .s then e
      else (e.1, { e.2 with wts := keepUp (lowClock s (e.1 % 4)) e.2.wts, rts := keepUp (lowClock s (e.1 % 4)) e.2.rts })
    home := s.home.map fun e => (e.1, { e.2 with
      wts := keepUp (lowClock s (homeDie e.1)) e.2.wts, rts := keepUp (lowClock s (homeDie e.1)) e.2.rts })
    mts := (List.range 8).foldl (fun m k => mput m 0 k (keepUp (lowClock s (k / 2)) (mgetD m k 0))) s.mts }
/-- CLOCK_SYNC: every 4,096 cycles. -/
def execClockSync (s : State) : Ans := .next (post (refreshStamps (raiseClocks s (highClock s))) 4096 .clockSync)
/-- COH_CFG_WRITE: for 64 times the old lease the larger one counts. -/
def execCohCfgWrite (val : Word) (s : State) : Ans :=
  let old := leaseLen s
  let s := ctlPut s 0x0300 0 6 (bitsN val.toNat 0 6)
  .next (if leaseLen s = old then s
    else post { s with oldLease := some (max old (s.oldLease.getD 0)) } (64 * old) .leaseTransitionEnd)
/-- LEASE_TRANSITION_END: the last of the periods that are open ends the transition. -/
def execLeaseTransitionEnd (s : State) : Ans :=
  .next (if s.pending.any fun t => decide (t.ev = .leaseTransitionEnd) then s else { s with oldLease := none })

/-! ## Fused quads (07 R205, R206) -/

/-- The cores of a quad. -/
def inQuad (die q core : Nat) : Bool := decide (dieOf core = die) && decide (core % 80 / 4 = q)
/-- A context is resident on a core of the quad, or saved with ferries placed there. -/
def quadUsed (s : State) (die q : Nat) : Bool :=
  s.ctxs.any fun e => e.2.live && inQuad die q (ctxCore e.2) && (decide (e.2.place ≠ .saved) || !e.2.ferries.isEmpty)
/-- Change one bit of FUSE where it may be changed. -/
def fuseBit (die : Nat) (val : Nat) (s : State) (q : Nat) : State :=
  let off := 0x0330 + 4 * die
  if bitN (ctlGet s off) q = bitN val q then s
  else if quadUsed s die q then ctlPut s off 31 1 1
  else ctlPut { s with l1 := s.l1.filter fun e => !inQuad die q (e.1 % 320) } off q 1 (bitsN val q 1)
/-- QUAD_FUSE_WRITE. -/
def execQuadFuseWrite (die : Nat) (val : Word) (s : State) : Ans :=
  .next (if 4 ≤ die then s
    else
      let s := if val.getLsbD 31 then ctlPut s (0x0330 + 4 * die) 31 1 0 else s
      (List.range 20).foldl (fuseBit die val.toNat) s)

end Sys2Proof.Machine
end

