-- ==== Sys2Proof/Machine/Traps.lean ====
section
/-! DEFINITION. Trap entry after its wait, the supervisor's actions on held and halted units, and the fault ring (13 R324, R327,
R329, R336). -/

namespace Sys2Proof.Machine

/-- The supervisor's faults of a unit whose context is halted are recorded: the items that failed are named, and the user's faults
wait for UNHALT (03 R77, R87). -/
def takeHalted (s : State) (c u : Nat) : State :=
  let sup := (getUnit s c u).entering.filter PendingFault.sup
  let s := modUnit s c u fun t => { t with entering := t.entering.filter fun f => !f.sup }
  sup.foldl (fun s f => supFault s c u f) s
/-- TRAP_ENTRY (13 R329): once the counters are zero and no chain is in progress, the oldest fault is taken. A context that is
not active waits; of a halted one only the supervisor's faults are taken. -/
def execTrapEntry (c u : Nat) (s : State) : Ans :=
  let t := getUnit s c u
  .next (if t.entering.isEmpty then s
    else if (getCtx s c).halted then
      (if !(t.entering.any PendingFault.sup) then s else if t.flight.isEmpty then takeHalted s c u else post s 1 (.trapEntry c u))
    else if quiet t && ctxIssues s c then takeFaults s c u
    else post s 1 (.trapEntry c u))
/-- FAULT_RING_RETRY (13 R324): the oldest record that found the ring full. -/
def execFaultRingRetry (die : Nat) (s : State) : Ans :=
  let n := fltSize s die
  let tail := ctlField s (0x260C + 0x20 * die) 16 16
  .next (match mgetD s.ringRetry die [] with
  | [] => s
  | b :: rest =>
    if !fltOn s die then { s with ringRetry := mdel s.ringRetry die }
    else if (tail + 1) % n = ctlField s (0x260C + 0x20 * die) 0 16 % n then post s 1800 (.faultRingRetry die)
    else
      let s := ringWrite { s with ringRetry := mset s.ringRetry die rest } die b
      if rest.isEmpty then s else post s 1800 (.faultRingRetry die))

/-! ## FLT_RESUME (13 R327, R332) -/

/-- FLT_RESUME.BAD. -/
def resumeBad (s : State) (b : Bool) : State := ctlPut s 0x2680 30 1 (if b then 1 else 0)
/-- The context that an action names: the one in the bank, or else one that was saved out of it, on which the action takes effect
where it is kept (13 R327; notes/assumptions/112.md). -/
def namedCtx (s : State) (core bank : Nat) (ok : Nat → Bool) : Option Nat :=
  match (bankCtx s core bank).filter ok with
  | some c => some c
  | none => (s.ctxs.find? fun e => e.2.live && decide (e.2.place = .saved) && decide (e.2.home = core) && decide (e.2.bank = bank) &&
      ok e.1).map Prod.fst
/-- The oldest fault that a unit of the context that is named holds for the supervisor. -/
def heldFault (s : State) (core bank u : Nat) : Option (Nat × PendingFault) :=
  (namedCtx s core bank fun c => !(getUnit s c u).helds.isEmpty).bind fun c => (getUnit s c u).helds.head?.map fun f => (c, f)
/-- The unit holds its oldest fault no longer. -/
def dropHeld (t : Thread) : Thread := { t with helds := t.helds.drop 1 }
/-- A slot begins a new run of issue at an offset. -/
def restartSlot (t : Thread) (b : Bool) (off : Word) : Thread :=
  { putSlot t b { slotOf t b with off := off, hold := .none, waited := false, stage := 0 } with
    chain := if t.chainSlot = b then 0 else t.chain }
/-- RETRY. -/
def execFltRetry (core bank unit : Nat) (s : State) : Ans :=
  .next (match heldFault s core bank unit with
  | none => resumeBad s true
  | some (c, f) =>
    modUnit (resumeBad s false) c unit fun t =>
      { restartSlot (dropHeld t) f.slot f.record.off with
        bkptPass := if f.cause = .bkpt then some f.record.off else t.bkptPass })
/-- REFLECT: a held crew slot enters its handler; a unit that has none, or is in it, halts its context. The other slot's
chain ends first. -/
def execFltReflect (core bank unit : Nat) (s : State) : Ans :=
  .next (match heldFault s core bank unit with
  | none => resumeBad s true
  | some (c, f) =>
    let t := getUnit s c unit
    let s := resumeBad s false
    if !isCrew unit || t.inh || decide ((getCtx s c).tvec = 0) then haltCtx s c
    else if t.chainLeft ≠ 0 then post s 1 (.fltReflect core bank unit)
    else enterHandler (modUnit s c unit dropHeld) c unit f)
/-- HALT. -/
def execFltHalt (core bank : Nat) (s : State) : Ans :=
  .next (match namedCtx s core bank fun _ => true with
  | none => resumeBad s true
  | some c => haltCtx (resumeBad s false) c)
/-- Every unit of a context begins a new run of issue where it stands; faults that wait are taken in time. -/
def restartUnits (s : State) (c : Nat) : State :=
  (unitKeys s c).foldl (fun s u =>
    let s := modUnit s c u fun t => { t with chain := 0, chainLeft := 0 }
    if (getUnit s c u).entering.isEmpty then s else post s 1 (.trapEntry c u)) s
/-- UNHALT. -/
def execFltUnhalt (core bank : Nat) (s : State) : Ans :=
  .next (match namedCtx s core bank fun c => (getCtx s c).halted with
  | none => resumeBad s true
  | some c =>
    let s := modCtx (resumeBad s false) c fun x => { x with halted := false }
    wakeEngine (restartUnits s c) core 1)

end Sys2Proof.Machine
end

