-- ==== Sys2Proof/Machine/Registers.lean ====
section
/-! DEFINITION. REGISTER_WRITE: a write to the control space of X0 (00 R3 to R7), and what a read of a register returns. A register
with an operation of its own starts that operation at once; any other takes the value under its access codes. -/

namespace Sys2Proof.Machine

/-- The next state of an operation that always has one. -/
def stateOf (a : Ans) (s : State) : State :=
  match a with
  | .next t => t
  | _ => s
/-- Do an operation when a bit of the value written asks for it. -/
def onBit (v i : Nat) (op : State → Ans) (s : State) : State := if bitN v i then stateOf (op s) s else s
/-- FAB_PLAN_CTL (02 R40): LOAD first; SWITCH arms only if LOAD was accepted. -/
def planCtl (v : Nat) (s : State) : State :=
  if bitN v 0 then
    let r := loadPlan s
    if bitN v 1 && r.2 then stateOf (execFabPlanSwitch r.1) r.1 else r.1
  else onBit v 1 execFabPlanSwitch s
/-- EXT_CTL (05 R125): WRITE is set, then GRANT or REVOKE; both at once set only RESULT 3. -/
def extCtl (v : Nat) (s : State) : State :=
  let k := extSel s
  let e := getExt s k.1 k.2
  if bitN v 0 && bitN v 1 then putExt s k.1 k.2 { e with result := 3 }
  else onBit v 1 execExtRevoke (onBit v 0 execExtGrant (putExt s k.1 k.2 { e with write := bitN v 2 }))
/-- EXT_BASE, EXT_HOFF and EXT_SIZE: no effect while the extent is not free. -/
def extField (f : Extent → Extent) (s : State) : State :=
  let k := extSel s
  let e := getExt s k.1 k.2
  if e.state ≠ 0 then s else putExt s k.1 k.2 (f e)
/-- The n bytes of a write into a byte array of some length, at an offset of it. -/
def patchN (l : List Byte) (len off n v : Nat) : List Byte := sliceB (patchB (sliceB l 0 len) off (leBytes n v)) 0 len
/-- AUD_CTL (05 R141), bits from 0 up. Which of the 16 supervisor cores writes it is a free value: a register write does not
say. -/
def audCtl (v : Nat) (s : State) : State :=
  let r := takeFree s
  let core := r.1.toNat % 16
  let s := if bitN v 0 then stateOf (execAudAppend core r.2) r.2 else s
  onBit v 3 execAudRead (onBit v 2 execAudRelease (onBit v 1 execAudExport s))
/-- DRAIN_CTL (05 R146). Ignored while BUSY; a DIE that is not in the state that the operation needs ignores it too. -/
def drainCtl (v : Nat) (s : State) : State :=
  let d := bitsN v 0 2
  let bad := (bitN v 2 && decide (dieState s d ≠ 1)) || (bitN v 3 && decide (dieState s d ≠ 3))
  if drainBusy s || bad then s
  else onBit v 3 (execReadmitDie d) (onBit v 2 (execDrainDie d) (ctlPut s 0x0A10 0 2 d))
/-- STK_CTL (05 R148). -/
def stkCtl (v : Nat) (s : State) : State :=
  let m := bitsN v 4 3
  let bad := (bitN v 0 && decide (stackState s m ≠ 1)) || (bitN v 1 && decide (stackState s m ≠ 2))
  if stkBusy s || (bitN v 0 && bitN v 1) || bad then s
  else onBit v 1 (execStkResume m) (onBit v 0 (execStkDrain m) (ctlPut s 0x0A18 4 3 m))
/-- FLT_RESUME (13 R327). -/
def fltResume (v : Nat) (s : State) : State :=
  let core := bitsN v 2 9
  let bank := bitsN v 0 2
  let s := ctlWrite s 0x2680 v
  if !bitN v 31 then s
  else match bitsN v 28 2 with
    | 0 => stateOf (execFltRetry core bank (bitsN v 16 8) s) s
    | 1 => stateOf (execFltReflect core bank (bitsN v 16 8) s) s
    | 2 => stateOf (execFltHalt core bank s) s
    | _ => stateOf (execFltUnhalt core bank s) s
/-- Q_BASE and Q_CFG (06 R153): the base and SIZE change only while EN is 0 and the queue is empty. -/
def queueCfg (q off v : Nat) (s : State) : State :=
  let fixed := qOn s q || decide (qLen s q ≠ 0)
  if off = 0 then (if fixed then s else ctlWrite s (qReg q 0) v)
  else
    let size := ctlField s (qReg q 8) 16 5
    let skip := bitN v 25 && !qOn s q
    let t := ctlWrite s (qReg q 8) v
    let t := if fixed then ctlPut t (qReg q 8) 16 5 size else t
    if skip then ctlSet (stateOf (execQSkip q s) s) (qReg q 8) (ctlGet t (qReg q 8)) else t
/-- A register of the package, its fabric or its cell. -/
def writeLow (off v : Nat) (s : State) : State :=
  let w := BitVec.ofNat 32 v
  if off = 0x0108 then planCtl v s
  else if off = 0x0200 then stateOf (execCellCfgWrite w s) s
  else if off = 0x0220 then stateOf (execSfCfgWrite w s) s
  else if off = 0x0230 then onBit v 0 execSfRecallGo s
  else if off = 0x0248 then onBit v 1 execFwSync (ctlWrite s 0x0248 v)
  else if off = 0x0300 then stateOf (execCohCfgWrite w s) s
  else if inArray off 0x0330 4 4 then stateOf (execQuadFuseWrite ((off - 0x0330) / 4) w s) s
  else ctlWrite s off v
/-- A register of the host ports, the root of trust or service. -/
def writeMid (off v : Nat) (s : State) : State :=
  if off = 0x0608 then extField (fun e => { e with base := BitVec.ofNat 64 (bitsN v 23 22 * 2 ^ 23) }) s
  else if off = 0x0610 then extField (fun e => { e with hoff := BitVec.ofNat 64 (bitsN v 23 29 * 2 ^ 23) }) s
  else if off = 0x0618 then extField (fun e => { e with size := BitVec.ofNat 32 v }) s
  else if off = 0x061C then extCtl v s
  else if inArray off 0x0700 8 8 then { s with audIn := patchN s.audIn 64 (off - 0x0700) 8 v }
  else if off = 0x0740 then audCtl v s
  else if inArray off 0x0760 4 8 then
    { s with audNonce := BitVec.ofNat 256 (leNat (patchN (leBytes 32 s.audNonce.toNat) 32 (off - 0x0760) 8 v)) }
  else if inArray off 0x0980 6 8 then
    { s with extData := BitVec.ofNat 384 (leNat ((patchN (digestBytes s.extData) 48 (off - 0x0980) 8 v).reverse)) }
  else if off = 0x09B0 then stateOf (execRtbExtend (BitVec.ofNat 32 v) s) s
  else if off = 0x0A00 then (if bitN v 31 then stateOf (execCtxRelGo (BitVec.ofNat 32 v) s) s else ctlWrite s off v)
  else if off = 0x0A10 then drainCtl v s
  else if off = 0x0A18 then stkCtl v s
  else if inArray off 0x0C00 128 8 then
    stateOf (execCwBindWrite ((off - 0x0C00) / 8 / 64) ((off - 0x0C00) / 8 % 64) (BitVec.ofNat 64 v) s) s
  else ctlWrite s off v
/-- A register of the queues, the scheduler, translation or faults. -/
def writeHigh (off v : Nat) (s : State) : State :=
  let w := BitVec.ofNat 32 v
  let q := (off - 0x1000) / 0x40
  if inArray off 0x1000 64 0x40 then queueCfg q 0 v s
  else if inArray off 0x1008 64 0x40 then queueCfg q 8 v s
  else if inArray off 0x1010 64 0x40 then stateOf (execQSubmit q v s) s
  else if off = 0x2408 then (if bitN v 30 then stateOf (execXlatInvGo w s) s else ctlWrite s off v)
  else if off = 0x2428 then (if bitN v 30 then stateOf (execRepArmGo w s) s else ctlWrite s off v)
  else if off = 0x2680 then fltResume v s
  else ctlWrite s off v
/-- REGISTER_WRITE (00 R4). The value has 64 bits and the offset is a register's own; AUD_IN, AUD_NONCE and RTB_EXT_DATA take theirs
in steps of 8 bytes; a write of any other offset has no effect: the model's choice (notes/assumptions/130.md). -/
def execRegisterWrite (off : Nat) (val : Dword) (s : State) : Ans :=
  .next (if off < 0x0600 then writeLow off val.toNat s
    else if off < 0x1000 then writeMid off val.toNat s
    else writeHigh off val.toNat s)

/-! ## Reading (00 R4, R5) -/

/-- 8 bytes of a byte array that begins at an offset, as a register reads them. -/
def readBytes (b : List Byte) (base off : Nat) : Nat := fieldB b (off - base) 8
/-- EXT_CTL as it reads. -/
def readExtCtl (e : Extent) : Nat :=
  (if e.state = 2 then 2 ^ 31 else 0) + 2 ^ 29 * e.state + 2 ^ 26 * e.result + (if e.write then 4 else 0)
/-- A register of the package, its fabric or its cell. -/
def readLow (s : State) (off : Nat) : Nat :=
  if off = 0x0118 then fabTime s % 2 ^ 32
  else if off = 0x011C then s.timeLatch.toNat
  else if inArray off 0x0400 128 4 then fabPeer s ((off - 0x0400) / 4)
  else ctlGet s off
/-- A register of the host ports, the root of trust or service. AUD_LAST and AUD_EXPORTED read 0 before the first entry. -/
def readMid (s : State) (off : Nat) : Nat :=
  let k := extSel s
  let e := getExt s k.1 k.2
  if off = 0x0608 then e.base.toNat
  else if off = 0x0610 then e.hoff.toNat
  else if off = 0x0618 then e.size.toNat
  else if off = 0x061C then readExtCtl e
  else if inArray off 0x0760 4 8 then readBytes (leBytes 32 s.audNonce.toNat) 0x0760 off
  else if off = 0x0780 then s.auditNext - 1
  else if off = 0x0788 then s.auditReleased - 1
  else if off = 0x0790 then s.auditDropped
  else if inArray off 0x0800 48 8 then readBytes (((List.range 8).map (getMr s)).flatMap digestBytes) 0x0800 off
  else ctlGet s off
/-- A register of the queues, the scheduler, translation or faults. -/
def readHigh (s : State) (off : Nat) : Nat :=
  if inArray off 0x2004 64 8 then min ones32 (classCharge s ((off - 0x2004) / 8) / 1024) else ctlGet s off
/-- The value that a read of a register returns: an RO, RW or W1C field as it stands, and zero for a WO field, a reserved bit, and
an offset that holds no register. -/
def readReg (s : State) (off : Nat) : Nat :=
  if off < 0x0600 then readLow s off else if off < 0x1000 then readMid s off else readHigh s off
/-- CW_STAT of a window as it reads (05 R126). -/
def readCwStat (s : State) (port win : Nat) : Nat :=
  let b := ctlGet s (bindReg port win)
  let q := bitsN b 42 6
  let w := getWin s port win
  if bitN b 0 then 2 ^ 16 * min 0xFFFF (qSize s q - 1 - qLen s q) + 2 ^ 8 * w.refused + 2 ^ 7 + w.err
  else 2 ^ 8 * w.refused + w.err
/-- A read of a command window by its host: CW_STAT, CW_DONE, and zero elsewhere (05 R126). -/
def readWindow (s : State) (port win off : Nat) : Nat :=
  if off = 0x40 then readCwStat s port win else if off = 0x48 then (getWin s port win).done.toNat else 0

end Sys2Proof.Machine
end

