-- ==== Sys2Proof/Machine/Dispatch.lean ====
section
/-! DEFINITION. The meaning of every constructor of Instr. -/

namespace Sys2Proof.Machine

def exec (i : Instr) (s : State) : Host.Outcome State Fault Refusal :=
  match i with
  | .ill x => Sys2Proof.Machine.execIll x s
  | .nop => Sys2Proof.Machine.execNop s
  | .bra t => Sys2Proof.Machine.execBra t s
  | .bany p t => Sys2Proof.Machine.execBany p t s
  | .ball p t => Sys2Proof.Machine.execBall p t s
  | .bnone p t => Sys2Proof.Machine.execBnone p t s
  | .split p t => Sys2Proof.Machine.execSplit p t s
  | .join => Sys2Proof.Machine.execJoin s
  | .call t => Sys2Proof.Machine.execCall t s
  | .ret a => Sys2Proof.Machine.execRet a s
  | .jmpg d a => Sys2Proof.Machine.execJmpg d a s
  | .exit => Sys2Proof.Machine.execExit s
  | .yield => Sys2Proof.Machine.execYield s
  | .bar n => Sys2Proof.Machine.execBar n s
  | .bara n => Sys2Proof.Machine.execBara n s
  | .barw n => Sys2Proof.Machine.execBarw n s
  | .hbar a l imm => Sys2Proof.Machine.execHbar a l imm s
  | .sleep a => Sys2Proof.Machine.execSleep a s
  | .exset a => Sys2Proof.Machine.execExset a s
  | .exget d => Sys2Proof.Machine.execExget d s
  | .modea imm => Sys2Proof.Machine.execModea imm s
  | .modeb imm => Sys2Proof.Machine.execModeb imm s
  | .modeg d => Sys2Proof.Machine.execModeg d s
  | .waitc a imm => Sys2Proof.Machine.execWaitc a imm s
  | .plset a => Sys2Proof.Machine.execPlset a s
  | .plsetp a k => Sys2Proof.Machine.execPlsetp a k s
  | .plocc d => Sys2Proof.Machine.execPlocc d s
  | .repack n => Sys2Proof.Machine.execRepack n s
  | .pand d a b => Sys2Proof.Machine.execPand d a b s
  | .por d a b => Sys2Proof.Machine.execPor d a b s
  | .pxor d a b => Sys2Proof.Machine.execPxor d a b s
  | .pnot d a => Sys2Proof.Machine.execPnot d a s
  | .pmov d a => Sys2Proof.Machine.execPmov d a s
  | .psetg d a => Sys2Proof.Machine.execPsetg d a s
  | .pgetg d => Sys2Proof.Machine.execPgetg d s
  | .add d a b => Sys2Proof.Machine.execAdd d a b s
  | .addi d a imm => Sys2Proof.Machine.execAddi d a imm s
  | .subw d a b => Sys2Proof.Machine.execSubw d a b s
  | .mul d a b => Sys2Proof.Machine.execMul d a b s
  | .mulh d a b => Sys2Proof.Machine.execMulh d a b s
  | .mad d a b => Sys2Proof.Machine.execMad d a b s
  | .div d a b => Sys2Proof.Machine.execDiv d a b s
  | .rem d a b => Sys2Proof.Machine.execRem d a b s
  | .minw d a b => Sys2Proof.Machine.execMinw d a b s
  | .maxw d a b => Sys2Proof.Machine.execMaxw d a b s
  | .abs d a => Sys2Proof.Machine.execAbs d a s
  | .neg d a => Sys2Proof.Machine.execNeg d a s
  | .andw d a b => Sys2Proof.Machine.execAndw d a b s
  | .andi d a imm => Sys2Proof.Machine.execAndi d a imm s
  | .orw d a b => Sys2Proof.Machine.execOrw d a b s
  | .ori d a imm => Sys2Proof.Machine.execOri d a imm s
  | .xorw d a b => Sys2Proof.Machine.execXorw d a b s
  | .xori d a imm => Sys2Proof.Machine.execXori d a imm s
  | .andn d a b => Sys2Proof.Machine.execAndn d a b s
  | .notw d a => Sys2Proof.Machine.execNotw d a s
  | .shl d a b => Sys2Proof.Machine.execShl d a b s
  | .shli d a imm => Sys2Proof.Machine.execShli d a imm s
  | .shr d a b => Sys2Proof.Machine.execShr d a b s
  | .shri d a imm => Sys2Proof.Machine.execShri d a imm s
  | .sra d a b => Sys2Proof.Machine.execSra d a b s
  | .srai d a imm => Sys2Proof.Machine.execSrai d a imm s
  | .rol d a b => Sys2Proof.Machine.execRol d a b s
  | .clz d a => Sys2Proof.Machine.execClz d a s
  | .popc d a => Sys2Proof.Machine.execPopc d a s
  | .brev d a => Sys2Proof.Machine.execBrev d a s
  | .bfx d a b => Sys2Proof.Machine.execBfx d a b s
  | .bfi d a b => Sys2Proof.Machine.execBfi d a b s
  | .sel d a b => Sys2Proof.Machine.execSel d a b s
  | .mov d a => Sys2Proof.Machine.execMov d a s
  | .li d imm => Sys2Proof.Machine.execLi d imm s
  | .lih d imm => Sys2Proof.Machine.execLih d imm s
  | .lea d a b => Sys2Proof.Machine.execLea d a b s
  | .addc d a b => Sys2Proof.Machine.execAddc d a b s
  | .clamp d a b => Sys2Proof.Machine.execClamp d a b s
  | .cmpeq d a b => Sys2Proof.Machine.execCmpeq d a b s
  | .cmpne d a b => Sys2Proof.Machine.execCmpne d a b s
  | .cmplt d a b => Sys2Proof.Machine.execCmplt d a b s
  | .cmple d a b => Sys2Proof.Machine.execCmple d a b s
  | .cmpeqi d a imm => Sys2Proof.Machine.execCmpeqi d a imm s
  | .cmplti d a imm => Sys2Proof.Machine.execCmplti d a imm s
  | .vget d a b => Sys2Proof.Machine.execVget d a b s
  | .vput d a b => Sys2Proof.Machine.execVput d a b s
  | .shfl d a b => Sys2Proof.Machine.execShfl d a b s
  | .shflx d a b => Sys2Proof.Machine.execShflx d a b s
  | .shflup d a b => Sys2Proof.Machine.execShflup d a b s
  | .shfldn d a b => Sys2Proof.Machine.execShfldn d a b s
  | .bcast d a b => Sys2Proof.Machine.execBcast d a b s
  | .vote d a => Sys2Proof.Machine.execVote d a s
  | .cred d a o => Sys2Proof.Machine.execCred d a o s
  | .fadd d a b => Sys2Proof.Machine.execFadd d a b s
  | .fsub d a b => Sys2Proof.Machine.execFsub d a b s
  | .fmul d a b => Sys2Proof.Machine.execFmul d a b s
  | .fma d a b => Sys2Proof.Machine.execFma d a b s
  | .fms d a b => Sys2Proof.Machine.execFms d a b s
  | .fnma d a b => Sys2Proof.Machine.execFnma d a b s
  | .fmin d a b => Sys2Proof.Machine.execFmin d a b s
  | .fmax d a b => Sys2Proof.Machine.execFmax d a b s
  | .fabs d a => Sys2Proof.Machine.execFabs d a s
  | .fneg d a => Sys2Proof.Machine.execFneg d a s
  | .fcps d a b => Sys2Proof.Machine.execFcps d a b s
  | .fcmpeq d a b => Sys2Proof.Machine.execFcmpeq d a b s
  | .fcmplt d a b => Sys2Proof.Machine.execFcmplt d a b s
  | .fcmple d a b => Sys2Proof.Machine.execFcmple d a b s
  | .fcmpun d a b => Sys2Proof.Machine.execFcmpun d a b s
  | .fclass d a => Sys2Proof.Machine.execFclass d a s
  | .frnd d a => Sys2Proof.Machine.execFrnd d a s
  | .fscale d a b => Sys2Proof.Machine.execFscale d a b s
  | .fgete d a => Sys2Proof.Machine.execFgete d a s
  | .fcvt d a t r => Sys2Proof.Machine.execFcvt d a t r s
  | .fcvti d a t r => Sys2Proof.Machine.execFcvti d a t r s
  | .icvtf d a t r => Sys2Proof.Machine.execIcvtf d a t r s
  | .fdiv d a b => Sys2Proof.Machine.execFdiv d a b s
  | .fsqrt d a => Sys2Proof.Machine.execFsqrt d a s
  | .frcp d a => Sys2Proof.Machine.execFrcp d a s
  | .frsq d a => Sys2Proof.Machine.execFrsq d a s
  | .fexp2 d a => Sys2Proof.Machine.execFexp2 d a s
  | .flog2 d a => Sys2Proof.Machine.execFlog2 d a s
  | .fsin d a => Sys2Proof.Machine.execFsin d a s
  | .fcos d a => Sys2Proof.Machine.execFcos d a s
  | .ftanh d a => Sys2Proof.Machine.execFtanh d a s
  | .fdot2 d a b => Sys2Proof.Machine.execFdot2 d a b s
  | .fdot4 d a b => Sys2Proof.Machine.execFdot4 d a b s
  | .packn d a p c => Sys2Proof.Machine.execPackn d a p c s
  | .unpkn d a p => Sys2Proof.Machine.execUnpkn d a p s
  | .ternp d a b => Sys2Proof.Machine.execTernp d a b s
  | .ternu d a b => Sys2Proof.Machine.execTernu d a b s
  | .srseed d a => Sys2Proof.Machine.execSrseed d a s
  | .fflags d a => Sys2Proof.Machine.execFflags d a s
  | .ld d a o => Sys2Proof.Machine.execLd d a o s
  | .st d a o => Sys2Proof.Machine.execSt d a o s
  | .ldacq d a o => Sys2Proof.Machine.execLdacq d a o s
  | .strel d a o => Sys2Proof.Machine.execStrel d a o s
  | .ldl d a o => Sys2Proof.Machine.execLdl d a o s
  | .stl d a o => Sys2Proof.Machine.execStl d a o s
  | .ldx d a o => Sys2Proof.Machine.execLdx d a o s
  | .stx d a o => Sys2Proof.Machine.execStx d a o s
  | .atadd d a b => Sys2Proof.Machine.execAtadd d a b s
  | .atmin d a b => Sys2Proof.Machine.execAtmin d a b s
  | .atmax d a b => Sys2Proof.Machine.execAtmax d a b s
  | .atand d a b => Sys2Proof.Machine.execAtand d a b s
  | .ator d a b => Sys2Proof.Machine.execAtor d a b s
  | .atxor d a b => Sys2Proof.Machine.execAtxor d a b s
  | .atxch d a b => Sys2Proof.Machine.execAtxch d a b s
  | .atcas d a b => Sys2Proof.Machine.execAtcas d a b s
  | .fence m => Sys2Proof.Machine.execFence m s
  | .pref a o => Sys2Proof.Machine.execPref a o s
  | .resid a o => Sys2Proof.Machine.execResid a o s
  | .lmint d a b => Sys2Proof.Machine.execLmint d a b s
  | .lmintc d a b => Sys2Proof.Machine.execLmintc d a b s
  | .lmintg d a b => Sys2Proof.Machine.execLmintg d a b s
  | .lsto a b => Sys2Proof.Machine.execLsto a b s
  | .lreq a b => Sys2Proof.Machine.execLreq a b s
  | .ldrop a => Sys2Proof.Machine.execLdrop a s
  | .lstat d a => Sys2Proof.Machine.execLstat d a s
  | .lwait a => Sys2Proof.Machine.execLwait a s
  | .cpy a b => Sys2Proof.Machine.execCpy a b s
  | .cpyt a b => Sys2Proof.Machine.execCpyt a b s
  | .shopen d a => Sys2Proof.Machine.execShopen d a s
  | .publ a b => Sys2Proof.Machine.execPubl a b s
  | .shdisc d a => Sys2Proof.Machine.execShdisc d a s
  | .cpyres a b => Sys2Proof.Machine.execCpyres a b s
  | .halo d a => Sys2Proof.Machine.execHalo d a s
  | .halop => Sys2Proof.Machine.execHalop s
  | .replh a => Sys2Proof.Machine.execReplh a s
  | .fmtb a => Sys2Proof.Machine.execFmtb a s
  | .mma d a b => Sys2Proof.Machine.execMma d a b s
  | .mmas d a b => Sys2Proof.Machine.execMmas d a b s
  | .acz d => Sys2Proof.Machine.execAcz d s
  | .acld d a => Sys2Proof.Machine.execAcld d a s
  | .acst d a b => Sys2Proof.Machine.execAcst d a b s
  | .accvt d a b => Sys2Proof.Machine.execAccvt d a b s
  | .acchk d a => Sys2Proof.Machine.execAcchk d a s
  | .mill a => Sys2Proof.Machine.execMill a s
  | .fork a b => Sys2Proof.Machine.execFork a b s
  | .rdv n => Sys2Proof.Machine.execRdv n s
  | .spawn d a => Sys2Proof.Machine.execSpawn d a s
  | .srd d a => Sys2Proof.Machine.execSrd d a s
  | .swr a b => Sys2Proof.Machine.execSwr a b s
  | .trap imm => Sys2Proof.Machine.execTrap imm s
  | .tret => Sys2Proof.Machine.execTret s
  | .bkpt imm => Sys2Proof.Machine.execBkpt imm s
  | .rdtim d => Sys2Proof.Machine.execRdtim d s
  | .rdlc d => Sys2Proof.Machine.execRdlc d s
  | .lpinv => Sys2Proof.Machine.execLpinv s
  | .scrub d a => Sys2Proof.Machine.execScrub d a s
  | .finj d a b => Sys2Proof.Machine.execFinj d a b s
  | .powerOn => Sys2Proof.Machine.execPowerOn s
  | .packageReset => Sys2Proof.Machine.execPackageReset s
  | .bootImageFetched img => Sys2Proof.Machine.execBootImageFetched img s
  | .bootFetchRetryTimer => Sys2Proof.Machine.execBootFetchRetryTimer s
  | .firmwareUpdateCheck img => Sys2Proof.Machine.execFirmwareUpdateCheck img s
  | .linkTransferError link => Sys2Proof.Machine.execLinkTransferError link s
  | .patrolScrubRead line err => Sys2Proof.Machine.execPatrolScrubRead line err s
  | .powerWindow watts => Sys2Proof.Machine.execPowerWindow watts s
  | .thermalThrottleStart tmax => Sys2Proof.Machine.execThermalThrottleStart tmax s
  | .thermalThrottleStop tmax => Sys2Proof.Machine.execThermalThrottleStop tmax s
  | .thermalTrip tmax => Sys2Proof.Machine.execThermalTrip tmax s
  | .registerWrite off val => Sys2Proof.Machine.execRegisterWrite off val s
  | .fabPlanLoad => Sys2Proof.Machine.execFabPlanLoad s
  | .fabPlanSwitch => Sys2Proof.Machine.execFabPlanSwitch s
  | .fabTimeLoRead => Sys2Proof.Machine.execFabTimeLoRead s
  | .planSwitchTime => Sys2Proof.Machine.execPlanSwitchTime s
  | .planSwitchRxRetune => Sys2Proof.Machine.execPlanSwitchRxRetune s
  | .fabPacketReceive plane chanPeer pkt => Sys2Proof.Machine.execFabPacketReceive plane chanPeer pkt s
  | .fabPacketTransmit peer stream => Sys2Proof.Machine.execFabPacketTransmit peer stream s
  | .selectiveAck peer stream base bitmap => Sys2Proof.Machine.execSelectiveAck peer stream base bitmap s
  | .ackTimer peer stream => Sys2Proof.Machine.execAckTimer peer stream s
  | .replayTimeout peer stream pseq => Sys2Proof.Machine.execReplayTimeout peer stream pseq s
  | .channelErrorWindow peer plane symbols corrected uncorrectable => Sys2Proof.Machine.execChannelErrorWindow peer plane symbols corrected uncorrectable s
  | .channelNotice peer plane => Sys2Proof.Machine.execChannelNotice peer plane s
  | .spdmMessage peer m => Sys2Proof.Machine.execSpdmMessage peer m s
  | .spdmGetMeasurements requester nonce => Sys2Proof.Machine.execSpdmGetMeasurements requester nonce s
  | .spdmKeyUpdate peer => Sys2Proof.Machine.execSpdmKeyUpdate peer s
  | .spdmBusyRetry peer => Sys2Proof.Machine.execSpdmBusyRetry peer s
  | .oldKeySlotRetire peer => Sys2Proof.Machine.execOldKeySlotRetire peer s
  | .retiredTagExpiry tag => Sys2Proof.Machine.execRetiredTagExpiry tag s
  | .heartbeatTimer => Sys2Proof.Machine.execHeartbeatTimer s
  | .heartbeat peer time cell plan leaving clock => Sys2Proof.Machine.execHeartbeat peer time cell plan leaving clock s
  | .silenceTimeout peer => Sys2Proof.Machine.execSilenceTimeout peer s
  | .sessionEndNotice peer => Sys2Proof.Machine.execSessionEndNotice peer s
  | .fabBudgetPeriod => Sys2Proof.Machine.execFabBudgetPeriod s
  | .transactionTimeout r => Sys2Proof.Machine.execTransactionTimeout r s
  | .rds m => Sys2Proof.Machine.execRds m s
  | .rdown m => Sys2Proof.Machine.execRdown m s
  | .wrbk m => Sys2Proof.Machine.execWrbk m s
  | .data m => Sys2Proof.Machine.execData m s
  | .refuse m => Sys2Proof.Machine.execRefuse m s
  | .cmp m => Sys2Proof.Machine.execCmp m s
  | .cmpack m => Sys2Proof.Machine.execCmpack m s
  | .inv m => Sys2Proof.Machine.execInv m s
  | .fwds m => Sys2Proof.Machine.execFwds m s
  | .fwdown m => Sys2Proof.Machine.execFwdown m s
  | .fwdrec m => Sys2Proof.Machine.execFwdrec m s
  | .binv m => Sys2Proof.Machine.execBinv m s
  | .ack m => Sys2Proof.Machine.execAck m s
  | .binvResendTimer line => Sys2Proof.Machine.execBinvResendTimer line s
  | .fwdrecTimeout line => Sys2Proof.Machine.execFwdrecTimeout line s
  | .cellCfgWrite val => Sys2Proof.Machine.execCellCfgWrite val s
  | .cellLeave => Sys2Proof.Machine.execCellLeave s
  | .sfCfgWrite val => Sys2Proof.Machine.execSfCfgWrite val s
  | .sfRecallGo => Sys2Proof.Machine.execSfRecallGo s
  | .fwSync => Sys2Proof.Machine.execFwSync s
  | .recoveryEngineStart cell => Sys2Proof.Machine.execRecoveryEngineStart cell s
  | .recoverySweepEnd => Sys2Proof.Machine.execRecoverySweepEnd s
  | .hostMemRead port hoff own => Sys2Proof.Machine.execHostMemRead port hoff own s
  | .hostMemWrite port hoff data => Sys2Proof.Machine.execHostMemWrite port hoff data s
  | .hostBinvAck port line data => Sys2Proof.Machine.execHostBinvAck port line data s
  | .hostBinvTimeout port line => Sys2Proof.Machine.execHostBinvTimeout port line s
  | .hostLinkDown port => Sys2Proof.Machine.execHostLinkDown port s
  | .extGrant => Sys2Proof.Machine.execExtGrant s
  | .extRevoke => Sys2Proof.Machine.execExtRevoke s
  | .extRevokeComplete port idx => Sys2Proof.Machine.execExtRevokeComplete port idx s
  | .cwEnq port win off data => Sys2Proof.Machine.execCwEnq port win off data s
  | .cwBindWrite port win val => Sys2Proof.Machine.execCwBindWrite port win val s
  | .rtbExtend val => Sys2Proof.Machine.execRtbExtend val s
  | .audAppend core => Sys2Proof.Machine.execAudAppend core s
  | .audRelease => Sys2Proof.Machine.execAudRelease s
  | .audExport => Sys2Proof.Machine.execAudExport s
  | .audRead => Sys2Proof.Machine.execAudRead s
  | .ctxRelGo val => Sys2Proof.Machine.execCtxRelGo val s
  | .ctxReleaseDone core bank scrubOk => Sys2Proof.Machine.execCtxReleaseDone core bank scrubOk s
  | .drainDie die => Sys2Proof.Machine.execDrainDie die s
  | .readmitDie die => Sys2Proof.Machine.execReadmitDie die s
  | .stkDrain stack => Sys2Proof.Machine.execStkDrain stack s
  | .stkRecalibrate stack => Sys2Proof.Machine.execStkRecalibrate stack s
  | .stkRecalibrateDone stack => Sys2Proof.Machine.execStkRecalibrateDone stack s
  | .stkResume stack => Sys2Proof.Machine.execStkResume stack s
  | .qSubmit queue pa => Sys2Proof.Machine.execQSubmit queue pa s
  | .qSkip queue => Sys2Proof.Machine.execQSkip queue s
  | .xlatInvGo val => Sys2Proof.Machine.execXlatInvGo val s
  | .sweepComplete id => Sys2Proof.Machine.execSweepComplete id s
  | .repArmGo val => Sys2Proof.Machine.execRepArmGo val s
  | .replicaArmDone idx => Sys2Proof.Machine.execReplicaArmDone idx s
  | .replicaCollapseDone page => Sys2Proof.Machine.execReplicaCollapseDone page s
  | .fltRetry core bank unit => Sys2Proof.Machine.execFltRetry core bank unit s
  | .fltReflect core bank unit => Sys2Proof.Machine.execFltReflect core bank unit s
  | .fltHalt core bank => Sys2Proof.Machine.execFltHalt core bank s
  | .fltUnhalt core bank => Sys2Proof.Machine.execFltUnhalt core bank s
  | .quadFuseWrite die val => Sys2Proof.Machine.execQuadFuseWrite die val s
  | .cohCfgWrite val => Sys2Proof.Machine.execCohCfgWrite val s
  | .leaseTransitionEnd => Sys2Proof.Machine.execLeaseTransitionEnd s
  | .logicalClockTick core => Sys2Proof.Machine.execLogicalClockTick core s
  | .clockSync => Sys2Proof.Machine.execClockSync s
  | .dispatchDecision => Sys2Proof.Machine.execDispatchDecision s
  | .gangFallbackTimer queue => Sys2Proof.Machine.execGangFallbackTimer queue s
  | .spanComplete span => Sys2Proof.Machine.execSpanComplete span s
  | .continuationRetry queue => Sys2Proof.Machine.execContinuationRetry queue s
  | .schedPeriodBoundary => Sys2Proof.Machine.execSchedPeriodBoundary s
  | .contextSwitch core => Sys2Proof.Machine.execContextSwitch core s
  | .activeIdleTimeout core => Sys2Proof.Machine.execActiveIdleTimeout core s
  | .residentWaitTimeout core => Sys2Proof.Machine.execResidentWaitTimeout core s
  | .streamOut ctx => Sys2Proof.Machine.execStreamOut ctx s
  | .streamIn ctx core => Sys2Proof.Machine.execStreamIn ctx core s
  | .streamComplete ctx => Sys2Proof.Machine.execStreamComplete ctx s
  | .loadDataReturn r => Sys2Proof.Machine.execLoadDataReturn r s
  | .storeComplete r => Sys2Proof.Machine.execStoreComplete r s
  | .itemFailReturn r lanes cause addr => Sys2Proof.Machine.execItemFailReturn r lanes cause addr s
  | .walkComplete core ctx va => Sys2Proof.Machine.execWalkComplete core ctx va s
  | .arrivalRecord ctx unit slot => Sys2Proof.Machine.execArrivalRecord ctx unit slot s
  | .hbarArrival a => Sys2Proof.Machine.execHbarArrival a s
  | .sleepExpiry ctx unit slot => Sys2Proof.Machine.execSleepExpiry ctx unit slot s
  | .haloPushWrite ctx push => Sys2Proof.Machine.execHaloPushWrite ctx push s
  | .landingStore m => Sys2Proof.Machine.execLandingStore m s
  | .landingOutcome r lane res => Sys2Proof.Machine.execLandingOutcome r lane res s
  | .lreqDeferredFault r lane cause addr => Sys2Proof.Machine.execLreqDeferredFault r lane cause addr s
  | .nameDeadline core entry nonce => Sys2Proof.Machine.execNameDeadline core entry nonce s
  | .nameReclaimCellLost core entry => Sys2Proof.Machine.execNameReclaimCellLost core entry s
  | .lnFullTimeout ctx unit slot => Sys2Proof.Machine.execLnFullTimeout ctx unit slot s
  | .trapEntry ctx unit => Sys2Proof.Machine.execTrapEntry ctx unit s
  | .faultRingRetry die => Sys2Proof.Machine.execFaultRingRetry die s
  | .copySegmentIssue ctx unit copy => Sys2Proof.Machine.execCopySegmentIssue ctx unit copy s
  | .copySegmentDone ctx unit copy seg => Sys2Proof.Machine.execCopySegmentDone ctx unit copy seg s
  | .copyComplete ctx unit copy => Sys2Proof.Machine.execCopyComplete ctx unit copy s
  | .publComplete wid => Sys2Proof.Machine.execPublComplete wid s
  | .coxCommandIssue core => Sys2Proof.Machine.execCoxCommandIssue core s
  | .mmaComplete core => Sys2Proof.Machine.execMmaComplete core s
  | .drainComplete core => Sys2Proof.Machine.execDrainComplete core s
  | .millComplete stack => Sys2Proof.Machine.execMillComplete stack s
  | .drds m => Sys2Proof.Machine.execDrds m s
  | .drdown m => Sys2Proof.Machine.execDrdown m s
  | .ddata m => Sys2Proof.Machine.execDdata m s
  | .dfwds m => Sys2Proof.Machine.execDfwds m s
  | .dfwdown m => Sys2Proof.Machine.execDfwdown m s
  | .dack m => Sys2Proof.Machine.execDack m s
  | .drecall m => Sys2Proof.Machine.execDrecall m s
  | .dwrbk m => Sys2Proof.Machine.execDwrbk m s
  | .dcmp m => Sys2Proof.Machine.execDcmp m s
  | .leaseWaitEnd line => Sys2Proof.Machine.execLeaseWaitEnd line s
  | .planSwitchDone => Sys2Proof.Machine.execPlanSwitchDone s
  | .readmissionDone die pass => Sys2Proof.Machine.execReadmissionDone die pass s
  | .hostLinkUp port width rate cxl => Sys2Proof.Machine.execHostLinkUp port width rate cxl s
  | .coolantInletTemperature degrees => Sys2Proof.Machine.execCoolantInletTemperature degrees s
  | .cellJoinComplete => Sys2Proof.Machine.execCellJoinComplete s
  | .lreqRead m => Sys2Proof.Machine.execLreqRead m s
  | .homeAtomic m => Sys2Proof.Machine.execHomeAtomic m s
  | .fwSyncDone => Sys2Proof.Machine.execFwSyncDone s
  | .bootMeasurementExtend idx digest => Sys2Proof.Machine.execBootMeasurementExtend idx digest s

end Sys2Proof.Machine
end

