-- ==== Sys2Proof/Machine/Events.lean ====
section
/-! DEFINITION. What an event in flight does: the same meaning as exec gives its constructor of Instr (Laws/Events.lean
states it for each). State holds events as Ev, which the run-time can build; Instr has more constructors than it can. -/

namespace Sys2Proof.Machine

/-- The meaning of an event. -/
def runEv (e : Ev) (s : State) : Ans :=
  match e with
  | .powerOn => execPowerOn s
  | .packageReset => execPackageReset s
  | .bootImageFetched img => execBootImageFetched img s
  | .bootFetchRetryTimer => execBootFetchRetryTimer s
  | .firmwareUpdateCheck img => execFirmwareUpdateCheck img s
  | .linkTransferError link => execLinkTransferError link s
  | .patrolScrubRead line err => execPatrolScrubRead line err s
  | .powerWindow watts => execPowerWindow watts s
  | .thermalThrottleStart tmax => execThermalThrottleStart tmax s
  | .thermalThrottleStop tmax => execThermalThrottleStop tmax s
  | .thermalTrip tmax => execThermalTrip tmax s
  | .registerWrite off val => execRegisterWrite off val s
  | .fabPlanLoad => execFabPlanLoad s
  | .fabPlanSwitch => execFabPlanSwitch s
  | .fabTimeLoRead => execFabTimeLoRead s
  | .planSwitchTime => execPlanSwitchTime s
  | .planSwitchRxRetune => execPlanSwitchRxRetune s
  | .fabPacketReceive plane chanPeer pkt => execFabPacketReceive plane chanPeer pkt s
  | .fabPacketTransmit peer stream => execFabPacketTransmit peer stream s
  | .selectiveAck peer stream base bitmap => execSelectiveAck peer stream base bitmap s
  | .ackTimer peer stream => execAckTimer peer stream s
  | .replayTimeout peer stream pseq => execReplayTimeout peer stream pseq s
  | .channelErrorWindow peer plane symbols corrected uncorrectable => execChannelErrorWindow peer plane symbols corrected uncorrectable s
  | .channelNotice peer plane => execChannelNotice peer plane s
  | .spdmMessage peer m => execSpdmMessage peer m s
  | .spdmGetMeasurements requester nonce => execSpdmGetMeasurements requester nonce s
  | .spdmKeyUpdate peer => execSpdmKeyUpdate peer s
  | .spdmBusyRetry peer => execSpdmBusyRetry peer s
  | .oldKeySlotRetire peer => execOldKeySlotRetire peer s
  | .retiredTagExpiry tag => execRetiredTagExpiry tag s
  | .heartbeatTimer => execHeartbeatTimer s
  | .heartbeat peer time cell plan leaving clock => execHeartbeat peer time cell plan leaving clock s
  | .silenceTimeout peer => execSilenceTimeout peer s
  | .sessionEndNotice peer => execSessionEndNotice peer s
  | .fabBudgetPeriod => execFabBudgetPeriod s
  | .transactionTimeout r => execTransactionTimeout r s
  | .rds m => execRds m s
  | .rdown m => execRdown m s
  | .wrbk m => execWrbk m s
  | .data m => execData m s
  | .refuse m => execRefuse m s
  | .cmp m => execCmp m s
  | .cmpack m => execCmpack m s
  | .inv m => execInv m s
  | .fwds m => execFwds m s
  | .fwdown m => execFwdown m s
  | .fwdrec m => execFwdrec m s
  | .binv m => execBinv m s
  | .ack m => execAck m s
  | .binvResendTimer line => execBinvResendTimer line s
  | .fwdrecTimeout line => execFwdrecTimeout line s
  | .cellCfgWrite val => execCellCfgWrite val s
  | .cellLeave => execCellLeave s
  | .sfCfgWrite val => execSfCfgWrite val s
  | .sfRecallGo => execSfRecallGo s
  | .fwSync => execFwSync s
  | .recoveryEngineStart cell => execRecoveryEngineStart cell s
  | .recoverySweepEnd => execRecoverySweepEnd s
  | .hostMemRead port hoff own => execHostMemRead port hoff own s
  | .hostMemWrite port hoff data => execHostMemWrite port hoff data s
  | .hostBinvAck port line data => execHostBinvAck port line data s
  | .hostBinvTimeout port line => execHostBinvTimeout port line s
  | .hostLinkDown port => execHostLinkDown port s
  | .extGrant => execExtGrant s
  | .extRevoke => execExtRevoke s
  | .extRevokeComplete port idx => execExtRevokeComplete port idx s
  | .cwEnq port win off data => execCwEnq port win off data s
  | .cwBindWrite port win val => execCwBindWrite port win val s
  | .rtbExtend val => execRtbExtend val s
  | .audAppend core => execAudAppend core s
  | .audRelease => execAudRelease s
  | .audExport => execAudExport s
  | .audRead => execAudRead s
  | .ctxRelGo val => execCtxRelGo val s
  | .ctxReleaseDone core bank scrubOk => execCtxReleaseDone core bank scrubOk s
  | .drainDie die => execDrainDie die s
  | .readmitDie die => execReadmitDie die s
  | .stkDrain stack => execStkDrain stack s
  | .stkRecalibrate stack => execStkRecalibrate stack s
  | .stkRecalibrateDone stack => execStkRecalibrateDone stack s
  | .stkResume stack => execStkResume stack s
  | .qSubmit queue pa => execQSubmit queue pa s
  | .qSkip queue => execQSkip queue s
  | .xlatInvGo val => execXlatInvGo val s
  | .sweepComplete id => execSweepComplete id s
  | .repArmGo val => execRepArmGo val s
  | .replicaArmDone idx => execReplicaArmDone idx s
  | .replicaCollapseDone page => execReplicaCollapseDone page s
  | .fltRetry core bank unit => execFltRetry core bank unit s
  | .fltReflect core bank unit => execFltReflect core bank unit s
  | .fltHalt core bank => execFltHalt core bank s
  | .fltUnhalt core bank => execFltUnhalt core bank s
  | .quadFuseWrite die val => execQuadFuseWrite die val s
  | .cohCfgWrite val => execCohCfgWrite val s
  | .leaseTransitionEnd => execLeaseTransitionEnd s
  | .logicalClockTick core => execLogicalClockTick core s
  | .clockSync => execClockSync s
  | .dispatchDecision => execDispatchDecision s
  | .gangFallbackTimer queue => execGangFallbackTimer queue s
  | .spanComplete span => execSpanComplete span s
  | .continuationRetry queue => execContinuationRetry queue s
  | .schedPeriodBoundary => execSchedPeriodBoundary s
  | .contextSwitch core => execContextSwitch core s
  | .activeIdleTimeout core => execActiveIdleTimeout core s
  | .residentWaitTimeout core => execResidentWaitTimeout core s
  | .streamOut ctx => execStreamOut ctx s
  | .streamIn ctx core => execStreamIn ctx core s
  | .streamComplete ctx => execStreamComplete ctx s
  | .loadDataReturn r => execLoadDataReturn r s
  | .storeComplete r => execStoreComplete r s
  | .itemFailReturn r lanes cause addr => execItemFailReturn r lanes cause addr s
  | .walkComplete core ctx va => execWalkComplete core ctx va s
  | .arrivalRecord ctx unit slot => execArrivalRecord ctx unit slot s
  | .hbarArrival a => execHbarArrival a s
  | .sleepExpiry ctx unit slot => execSleepExpiry ctx unit slot s
  | .haloPushWrite ctx push => execHaloPushWrite ctx push s
  | .landingStore m => execLandingStore m s
  | .landingOutcome r lane res => execLandingOutcome r lane res s
  | .lreqDeferredFault r lane cause addr => execLreqDeferredFault r lane cause addr s
  | .nameDeadline core entry nonce => execNameDeadline core entry nonce s
  | .nameReclaimCellLost core entry => execNameReclaimCellLost core entry s
  | .lnFullTimeout ctx unit slot => execLnFullTimeout ctx unit slot s
  | .trapEntry ctx unit => execTrapEntry ctx unit s
  | .faultRingRetry die => execFaultRingRetry die s
  | .copySegmentIssue ctx unit copy => execCopySegmentIssue ctx unit copy s
  | .copySegmentDone ctx unit copy seg => execCopySegmentDone ctx unit copy seg s
  | .copyComplete ctx unit copy => execCopyComplete ctx unit copy s
  | .publComplete wid => execPublComplete wid s
  | .coxCommandIssue core => execCoxCommandIssue core s
  | .mmaComplete core => execMmaComplete core s
  | .drainComplete core => execDrainComplete core s
  | .millComplete stack => execMillComplete stack s
  | .drds m => execDrds m s
  | .drdown m => execDrdown m s
  | .ddata m => execDdata m s
  | .dfwds m => execDfwds m s
  | .dfwdown m => execDfwdown m s
  | .dack m => execDack m s
  | .drecall m => execDrecall m s
  | .dwrbk m => execDwrbk m s
  | .dcmp m => execDcmp m s
  | .leaseWaitEnd line => execLeaseWaitEnd line s
  | .planSwitchDone => execPlanSwitchDone s
  | .readmissionDone die pass => execReadmissionDone die pass s
  | .hostLinkUp port width rate cxl => execHostLinkUp port width rate cxl s
  | .coolantInletTemperature degrees => execCoolantInletTemperature degrees s
  | .cellJoinComplete => execCellJoinComplete s
  | .lreqRead m => execLreqRead m s
  | .homeAtomic m => execHomeAtomic m s
  | .fwSyncDone => execFwSyncDone s
  | .bootMeasurementExtend idx digest => execBootMeasurementExtend idx digest s

end Sys2Proof.Machine
end

