-- ==== Sys2Proof/Machine/Issue.lean ====
section
/-! DEFINITION. A unit issues the next offset of one of its slots (07 R180; 08 R216 to R220), and what may move next
(notes/assumptions/2.md). -/

namespace Sys2Proof.Machine

/-! ## Fetching an offset (08 R218 order 1) -/

/-- The words of the planes that could be fetched, lowest plane first, and the first plane that could not. -/
def fetchPlanes (c u : Nat) (off : Word) : List Nat → State → List (Nat × Word) × Option (Nat × Fetch) × State
  | [], s => ([], none, s)
  | k :: ks, s =>
    match fetchWord s c u k off with
    | (.word w, s) =>
      let r := fetchPlanes c u off ks s
      ((k, w) :: r.1, r.2)
    | (f, s) => ([], some (k, f), s)
/-- The lanes of the slot that issues in a plane. -/
def curLanes (s : State) (k : Nat) : Mask := slotLanes (curUnit s) s.cur.unit (curSlot s).mask k
/-- A fetch that fails stops the slot at its own offset (08 R219). -/
def fetchFault (s : State) (k : Nat) : Fetch → Option LaneFault
  | .bad cause detail xcode addr sup held =>
    some { cause := cause, detail := detail, xcode := xcode, plane := k, word := 0, lanes := curLanes s k, addr := addr,
           sup := sup, held := held }
  | _ => none

/-! ## The words of an offset (08 R216 to R218) -/

/-- The lowest plane whose word differs from that of the lowest plane, when some word must be the same in every plane. -/
def alignBreak (ws : List (Nat × Word)) : Option (Nat × Word) :=
  if ws.any fun e => mustMatch e.2 then ws.find? fun e => some e.2 ≠ (ws.head?.map Prod.snd) else none
/-- The distinct words, each with its lowest plane. -/
def distinctWords : List (Nat × Word) → List (Nat × Word)
  | [] => []
  | e :: t => e :: (distinctWords t).filter fun f => decide (f.2 ≠ e.2)
/-- The lanes of the planes that hold a word. -/
def wordLanes (s : State) (ws : List (Nat × Word)) (w : Word) : Mask :=
  ws.foldl (fun m e => if e.2 = w then m ||| curLanes s e.1 else m) 0
/-- The word of a plane is the one that is executed now. -/
def setWord (s : State) (ws : List (Nat × Word)) (e : Nat × Word) (last : Bool) : State :=
  modCur s fun k => { k with lanes := wordLanes s ws e.2, word := e.2, plane := e.1, lastWord := last }
/-- Execute the word that is set. -/
def execWord (w : Word) (s : State) : Ans :=
  match decodeWord w with
  | .instr i => exec i s
  | _ => .next ((decodeFault s w).elim s (faultNow s))
/-- The access of a word that may differ from plane to plane: its wait, and the paths that it raises (19 R440). -/
structure WordAcc where
  wait : State → Option Hold × State := fun s => (none, s)
  paths : State → List Nat := fun _ => []
/-- The access of a word on virtual addresses. -/
def vaAcc (grp : Bool) (kind : AccKind) (as : State → List LaneAcc) (release : Bool) : WordAcc :=
  { wait := fun s => planWait s grp kind (as s) release, paths := fun s => (vaPlan s kind (as s)).paths }
/-- The access of a word that raises one path. -/
def pathAcc (grp : Bool) (path : Nat) (wait : State → Option Hold × State) : WordAcc :=
  { wait := wait, paths := fun s => if (memLanes s grp).isEmpty then [] else [path] }
/-- An atomic's. -/
def atomicAcc (op : AtOp) (d : Dst) (a b : Src) : WordAcc := vaAcc d.isGroup (.atomic op) (fun s => atomicLanes s d a b) true
/-- The access of a word; none for one that accesses nothing. -/
def wordAcc (w : Word) : WordAcc :=
  match decodeWord w with
  | .instr (.ld d a o) => vaAcc (loadGrp d) .load (fun s => loadLanes s (loadGrp d) a o) false
  | .instr (.st x a o) => vaAcc (storeGrp x a) .store (fun s => storeLanes s (storeGrp x a) x a o) false
  | .instr (.ldacq d a o) => vaAcc (loadGrp d) .acquire (fun s => loadLanes s (loadGrp d) a o) false
  | .instr (.strel x a o) => vaAcc (storeGrp x a) .release (fun s => storeLanes s (storeGrp x a) x a o) true
  | .instr (.ldl d _ _) => pathAcc (loadGrp d) 0 fun s => accessWait s (loadGrp d) [0] false
  | .instr (.ldx d _ _) => pathAcc (loadGrp d) 1 fun s => accessWait s (loadGrp d) [1] false
  | .instr (.stx x a _) => pathAcc (storeGrp x a) 1 fun s => accessWait s (storeGrp x a) [1] false
  | .instr (.atadd d a b) => atomicAcc .add d a b
  | .instr (.atmin d a b) => atomicAcc .min d a b
  | .instr (.atmax d a b) => atomicAcc .max d a b
  | .instr (.atand d a b) => atomicAcc .and d a b
  | .instr (.ator d a b) => atomicAcc .or d a b
  | .instr (.atxor d a b) => atomicAcc .xor d a b
  | .instr (.atxch d a b) => atomicAcc .xch d a b
  | .instr (.atcas d a b) => atomicAcc .cas d a b
  | .instr (.lsto a _) => pathAcc a.isG 4 fun s => accessWait s a.isG [4] true
  | .instr (.lreq a b) => pathAcc a.isG 4 (lreqWait a b)
  | _ => {}
/-- The first wait of the distinct words of an offset, and the paths that they raise: while one waits, none has any effect. -/
def wordsWait (ws : List (Nat × Word)) : List (Nat × Word) → State → Option Hold × List Nat × State
  | [], s => (none, [], s)
  | e :: t, s =>
    let a := wordAcc e.2
    match a.wait (setWord s ws e false) with
    | (some h, s) => (some h, [], s)
    | (none, s) =>
      let r := wordsWait ws t s
      (r.1, a.paths s ++ r.2.1, r.2.2)
/-- Words that access memory raise a counter once each: the slot is held while they would pass 255 (07 R198). -/
def roomWait (paths : List Nat) (s : State) : Option Hold :=
  let t := curUnit s
  ((nub paths).find? fun p => decide (pathCount t p ≠ 0) && decide (255 < pathCount t p + paths.count p)).map
    fun p => .drain ((openIds t [p]).take 1)
/-- Execute the distinct words in turn; the last one ends the offset. -/
def execWords (ws : List (Nat × Word)) : List (Nat × Word) → State → Ans
  | [], s => .next s
  | e :: t, s =>
    match execWord e.2 (setWord s ws e t.isEmpty) with
    | .next s => execWords ws t s
    | a => a
/-- A word of the unit that issues reads a latch. -/
def offsetReads (s : State) (w : Word) : Bool := readsLatch (curUnit s) (isCrew s.cur.unit) w
/-- Orders 3 and 4 of 08 R218. -/
def runOffset (s : State) (ws : List (Nat × Word)) : Ans :=
  match distinctWords ws with
  | [] => .next s
  | [e] => execWord e.2 (setWord s ws e true)
  | ds =>
    match ds.findSome? fun e => (decodeFault (setWord s ws e false) e.2).map fun f => (e, f) with
    | some (e, f) => .next (faultNow (setWord s ws e true) f)
    | none =>
      match wordsWait ws ds s with
      | (some h, _, s) => .next (holdOnly s h)
      | (none, paths, s) =>
        match roomWait paths s with
        | some h => .next (holdOnly s h)
        | none => execWords ws ds (modCur s fun k => { k with admitted := true, latch := ds.any fun e => offsetReads s e.2 })

/-! ## Issuing (07 R180) -/

/-- The offset of a slot becomes the one that is issued. -/
def setCur (s : State) (c u : Nat) (b : Bool) : State :=
  { s with cur := { ctx := c, unit := u, slot := b, off := (slotOf (getUnit s c u) b).off } }
/-- The core fetches the offsets that may continue a chain, until one cannot (14 R348): false while it waits for a line. -/
def fetchAhead (c u : Nat) (m : Mask) : Nat → Bool → Word → State → Bool × State
  | 0, _, _, s => (true, s)
  | n + 1, made, off, s =>
    if !made then (true, s)
    else
      match fetchPlanes c u off (slotPlanes (getUnit s c u) u m) s with
      | (_, some (_, .waits), s) => (false, s)
      | (_, some _, s) => (true, s)
      | (ws, none, s) => if anyReadsLatch s c u ws then fetchAhead c u m n (anyProduces ws) (off + 4) s else (true, s)
/-- At the first offset of a chain the core notes how far it goes (14 R348) and keeps the generators (15 R372). -/
def noteChain (s : State) (c u : Nat) (b : Bool) : State :=
  let t := getUnit s c u
  if t.chainLeft ≠ 0 then s
  else
    let n := chainLen s c u (slotOf t b)
    if n = 0 then s else modUnit s c u fun t => { t with chainLeft := n + 1, chainSlot := b, chainSr := t.sr, chainSg := t.sg }
/-- An error of a unit's registers is met: a corrected one is counted (07 R207). -/
def readRegs (s : State) (c u : Nat) : Option Bool × State :=
  let p : ErrPlace := .regs c u
  match errAt s p with
  | none => (none, s)
  | some true => (some true, clearErr s p)
  | some false => (some false, countDie (clearErr s p) (dieOf (ctxCore (getCtx s c))))
/-- The fault of an uncorrectable one: it halts the context (07 R207). -/
def regsFault (s : State) : LaneFault :=
  { laneFault s .poison 2 (curSlot s).mask 0 with sup := true }
/-- The words of an offset are at hand: orders 2 to 4 of 08 R218, once the chain that may begin here is known. -/
def issueWords (s : State) (c u : Nat) (b : Bool) (ws : List (Nat × Word)) : Ans :=
  let t := getUnit s c u
  match alignBreak ws with
  | some (k, w) => .next (faultNow s { laneFault s .planeAlign 0 (curLanes s k) 0 with plane := k, word := w })
  | none =>
    match (if t.chainLeft = 0 then fetchAhead c u (slotOf t b).mask 3 (anyProduces ws) (s.cur.off + 4) s else (true, s)) with
    | (false, s) => .next s
    | (true, s) => runOffset (noteChain (beginTurn s c u) c u b) ws
/-- The next offset of a slot issues. -/
def issueSlot (s : State) (c u : Nat) (b : Bool) : Ans :=
  let s := setCur s c u b
  match readRegs s c u with
  | (some true, s) => .next (faultNow s (regsFault s))
  | (_, s) =>
    let t := getUnit s c u
    match fetchPlanes c u s.cur.off (slotPlanes t u (slotOf t b).mask) s with
    | (_, some (k, f), s) => .next ((fetchFault s k f).elim s (faultNow s))
    | (ws, none, s) => issueWords s c u b ws
/-- A unit issues where it is its turn (06 R176), or time goes on where it cannot. -/
def issueUnit (s : State) (c u : Nat) : Ans :=
  let t := tick s 1
  if !ctxIssues s c || !((getUnit s c u).live && !(getUnit s c u).exited) || !hasTurn s c u then .next t
  else
    match nextSlot s c u with
    | none => .next t
    | some b => issueSlot t c u b

/-! ## Storage errors (01 R17; 07 R207; notes/assumptions/126.md) -/

/-- A storage cell loses a bit or more; a second loss at a place that has one already cannot be corrected. -/
def addErr (s : State) (p : ErrPlace) (ue : Bool) : State :=
  { s with errs := (s.errs.filter fun e => decide (e.1 ≠ p)) ++ [(p, ue || (errAt s p).isSome)] }
/-- The same for a word of a context's bank. -/
def addLsErr (s : State) (c w : Nat) (ue : Bool) : State :=
  modCtx s c fun x => { x with lsErr := mset x.lsErr w (ue || (mget? x.lsErr w).isSome) }
/-- The n-th key of a map, counted round. -/
def keyAt {V : Type} (m : Map V) (n : Nat) : Option Nat := (m.map Prod.fst)[n % m.length]?
/-- Free values choose the place, and whether its code can correct the loss. -/
def runUpset (s : State) : State :=
  let r := takeFree s
  let q := takeFree r.2
  let p := takeFree q.2
  let n := q.1.toNat
  let ue := p.1.getLsbD 0
  let s := p.2
  match r.1.toNat % 5 with
  | 0 => addErr s (.hbm (ownEp s * 2 ^ 38 + n % 2 ^ 38)) ue
  | 1 => (keyAt s.l2 n).elim s fun k => addErr s (.l2 k) ue
  | 2 => (keyAt s.l1 n).elim s fun k => addErr s (.l1 k) ue
  | 3 => (keyAt s.ctxs n).elim s fun c => addLsErr s c (n / 2 ^ 32 % 0x8000) ue
  | _ => (keyAt s.ctxs n).elim s fun c => (keyAt (getCtx s c).units (n / 2 ^ 32)).elim s fun u => addErr s (.regs c u) ue

/-! ## Who moves next -/

/-- The k-th event in flight happens, at its cycle or later. -/
def runTimed (s : State) (k : Nat) : Ans :=
  match s.pending[k]? with
  | none => .next (tick s 1)
  | some e => runEv e.ev (advanceTo { s with pending := s.pending.eraseIdx k } e.due)
/-- A move. -/
def runChoice (x : Choice) (s : State) : Ans :=
  match x with
  | .issue c u => issueUnit s c u
  | .event k => runTimed s k
  | .outside e => runEv e s
  | .upset => .next (runUpset s)
/-- What a core may do of its own accord. -/
def coreMoves (s : State) (k : Nat) : List Choice :=
  (.outside (.logicalClockTick k) :: if switchDue s k then [.outside (.contextSwitch k)] else []) ++
    (if idleDue s k then [.outside (.activeIdleTimeout k)] else []) ++
    (if !(waitedLong s k).isEmpty && !staysPinned s k then [.outside (.residentWaitTimeout k)] else [])
/-- Everything that may move next when the agenda is empty. -/
def moves (s : State) : List Choice :=
  if s.boot = .rom then [.outside .packageReset]
  else
    (liveCtxs s).flatMap (fun c => if ctxIssues s c then (issuers s c).map (Choice.issue c) else []) ++
    (List.range s.pending.length).map Choice.event ++
    (List.range 320).flatMap (coreMoves s) ++
    (if dispatchDue s then [.outside .dispatchDecision] else []) ++ [.upset] ++
    (liveCtxs s).filterMap fun c => (streamCore s c).map fun k => .outside (.streamIn c k)
/-- The move that a free choice takes. -/
def pickMove (s : State) : Choice × State :=
  let ms := moves s
  let n := Config.freeChoice s.free % ms.length
  (ms.getD n (.issue 0 0), { s with free := s.free + 1 })
/-- The next move: the head of the agenda, or a free choice. -/
def nextMove (s : State) : Choice × State :=
  match s.agenda with
  | x :: rest => (x, { s with agenda := rest })
  | [] => pickMove s
/-- What follows every move. -/
def afterMove (s : State) : State := noteIdle (settle (hwDrain s.hwPend.length s))
/-- One move. -/
def move (s : State) : Ans :=
  let m := nextMove s
  match runChoice m.1 m.2 with
  | .next t => .next (afterMove t)
  | a => a

end Sys2Proof.Machine
end

