-- ==== Sys2Proof/Machine/Step.lean ====
section
/-! DEFINITION. One step of the machine: one move of Machine/Issue.lean, and the placing of one word where the next step
fetches it. -/

namespace Sys2Proof.Machine

/-- One step. -/
def step (s : State) : Host.Outcome State Fault Refusal := move s

/-- The unit that is given a word: crew slot 0 where a crew may execute it, else the cox or the carter of the ferry. -/
def State.fetchUnit (w : Nat) : Nat :=
  let op := w / 2 ^ 24 % 256
  if unitMay 0 op then 0 else if unitMay 0x40 op then 0x40 else if unitMay 0x44 op then 0x44 else 0

/-- The unit that fetches the word: one slot with every lane in plane 0, at offset 0 of its region. -/
def State.fetchThread : Thread := { live := true, s0 := { occ := true, mask := 0xFFFFFFFF } }

/-- The context of that unit, in bank 0 of core 0: one ferry of one crew with every register row, the local-store bank and
eight accumulator tiles. -/
def State.fetchCtx (u : Nat) : Ctx :=
  { live := true, place := .bank 0 0, ferries := [(0, { lsLen := 0x20000, acc := 8, accTiles := List.range 8, crewSlots := [0] })]
    units := [(u, State.fetchThread)] }

/-- A translation of the first 8 GiB of the context's address space to the first 8 GiB of this endpoint's memory. -/
def State.fetchXlat (s : State) : Xlat :=
  { asid := 0, va := 0, size := 2, kind := 1, pa := ownEp s * 2 ^ 45, r := true, w := true, x := true, ten := false,
    tclass := 0, ace := false, rep := none, wid := 0 }

/-- The leased copy of a line that the L1 slice of core 0 has when the word is fetched. -/
def State.fetchCopy (s : State) (line : Nat) : State :=
  let c : L1Line := { wts := 0, rts := clk s 0 + 1, data := (lineNow s line).1, poison := false, ctx := 0 }
  { s with l1 := mset s.l1 (l1Key (sliceOf s 0 line) line) c }

/-- The word stored at the first bytes of the endpoint's memory, and a context that issues it in the next step
(notes/assumptions/3.md): the load of a program from outside, through a ticket. -/
def State.withFetchWord (s : State) (nbits w : Nat) : State :=
  let v := w % 2 ^ min nbits 32
  let u := State.fetchUnit v
  let s := putCtx s 0 (State.fetchCtx u)
  let s := modCore s 0 fun k => { k with active := some 0, tlb := [State.fetchXlat s] }
  let s := hwWrite (setDie s 0 1) (ownEp s * 2 ^ 45) (leBytes 4 v)
  let s := State.fetchCopy s (ownEp s * 2 ^ 38)
  { s with agenda := [.issue 0 u], boot := .running }

end Sys2Proof.Machine
end

