-- ==== Sys2Proof/Safety.lean ====
section
/-! DEFINITION. What counts as a safe run, and the words in which statements about single steps are put: an instruction that
runs, what its destination holds afterwards, and what stays as it was. -/

namespace Sys2Proof.Safety
open Sys2Proof.Machine

/-! ## Runs -/

/-- A step is safe when it answers a next state: the D9 enters, holds or halts where software errs, and never stops with
no next state. -/
def stepSafe (s : State) : Prop := ∃ t, step s = .next t

/-- The state has the canonical memory that every statement over memory relies on: addresses strictly rising, and no
listed byte that an unlisted address reads as. -/
def memoryCanonical (s : State) : Prop := Memory.wf s.mem = true

/-- A state that some run from s reaches. -/
inductive Reaches (s : State) : State → Prop where
  | here : Reaches s s
  | next {t u : State} : Reaches s t → step t = .next u → Reaches s u

/-- A run is safe when each of its states steps to a next one. -/
def runSafe (s : State) : Prop := ∀ t, Reaches s t → stepSafe t

/-! ## One instruction -/

/-- An instruction answers a next state that satisfies P. -/
def Answers (i : Instr) (s : State) (P : State → Prop) : Prop := ∃ t, exec i s = .next t ∧ P t

/-- The offset has just issued, and it holds the same word in every plane that the slot occupies. -/
def Fresh (s : State) : Prop :=
  s.cur.lastWord = true ∧ s.cur.faults = [] ∧ s.cur.result = [] ∧ s.cur.produced = false ∧ s.cur.reads = [] ∧
    s.cur.writes = [] ∧ s.cur.latch = false ∧ s.cur.planes = [] ∧ s.cur.goto = none ∧ s.cur.stay = false

/-- A word that passes every check of 14 R356 stands alone at the offset that issues. -/
def Runs (i : Instr) (s : State) : Prop := wordFault s i = none ∧ Fresh s

/-- What a destination holds, in group scope or in a lane; a destination that names no register holds 0. -/
def held (t : Thread) (d : Dst) (wide : Bool) (l : Nat) : Dword :=
  match d with
  | .v n => if wide then rdVV t n.val l else zext64 (rdV t n.val l)
  | .g n => if wide then rdGG t n.val else zext64 (rdG t n.val)
  | .p k => bit64 ((rdP t k.val).getLsbD l)
  | .gp k => bit64 (rdGp t k.val)
  | .none => 0
  | .acc _ => 0
  | .reserved _ => 0

/-- A value as a destination can hold it. -/
def asHeld (d : Dst) (wide : Bool) (x : Dword) : Dword :=
  match d with
  | .v _ => if wide then x else zext64 (x.setWidth 32)
  | .g _ => if wide then x else zext64 (x.setWidth 32)
  | .p _ => bit64 (x.getLsbD 0)
  | .gp _ => bit64 (x.getLsbD 0)
  | .none => 0
  | .acc _ => 0
  | .reserved _ => 0

/-- A destination is v register n, or has it as its second register. -/
def namesV (d : Dst) (wide : Bool) (n : Nat) : Prop :=
  match d with
  | .v k => n = k.val ∨ (wide = true ∧ n = k.val + 1)
  | _ => False
/-- The same for a g register. -/
def namesG (d : Dst) (wide : Bool) (n : Nat) : Prop :=
  match d with
  | .g k => n = k.val ∨ (wide = true ∧ n = k.val + 1)
  | _ => False

/-- The destination holds the values f, once in group scope, else in each lane of Exec(slot), and the results have entered
q0 in those lanes, in every lane in group scope (14 R344, R345). -/
def Written (s t : State) (d : Dst) (wide : Bool) (f : Bool → Nat → Res) : Prop :=
  if d.isGroup then
    held (curUnit t) d wide 0 = asHeld d wide (f true 0).reg ∧ ∀ l, l < 32 → rdQ (curUnit t) 0 l = (f true 0).lat
  else
    ∀ l ∈ execLanes s, held (curUnit t) d wide l = asHeld d wide (f false l).reg ∧ rdQ (curUnit t) 0 l = (f false l).lat

/-- Registers and predicates that a word does not write keep their values: every one but the destination, and the
destination in the lanes outside Exec(slot). -/
def RegsKept (s t : State) (d : Dst) (wide : Bool) : Prop :=
  (∀ n l, l < 32 → ¬ (namesV d wide n ∧ l ∈ execLanes s) → rdV (curUnit t) n l = rdV (curUnit s) n l) ∧
  (∀ n, ¬ namesG d wide n → rdG (curUnit t) n = rdG (curUnit s) n) ∧
  (∀ (k : Fin 8) l, l < 32 → ¬ (d = .p k ∧ l ∈ execLanes s) →
    (rdP (curUnit t) k.val).getLsbD l = (rdP (curUnit s) k.val).getLsbD l) ∧
  (∀ k : Fin 4, d ≠ .gp k → rdGp (curUnit t) k.val = rdGp (curUnit s) k.val)

/-- Older latches: q1 to q3 hold what q0 to q2 held (14 R345). -/
def LatchesShifted (s t : State) : Prop :=
  ∀ k l, k < 3 → l < 32 → rdQ (curUnit t) (k + 1) l = rdQ (curUnit s) k l

/-- Nothing outside the unit that issues changes: no other unit, context or core, no memory, cache, special or control
register. Only the count of free values may advance, where a word reads the destination none (notes/assumptions/11.md). -/
def OutsideKept (s t : State) : Prop :=
  t = { s with ctxs := t.ctxs, cur := t.cur, free := t.free } ∧
  (∀ a, memByte t a = memByte s a) ∧
  (∀ c, c ≠ s.cur.ctx → getCtx t c = getCtx s c) ∧
  getCtx t s.cur.ctx = { curCtx s with units := (getCtx t s.cur.ctx).units } ∧
  (∀ u, u ≠ s.cur.unit → getUnit t s.cur.ctx u = getUnit s s.cur.ctx u) ∧
  t.cur.ctx = s.cur.ctx ∧ t.cur.unit = s.cur.unit ∧ t.cur.slot = s.cur.slot

/-- The accesses in flight, but for what they count of younger words. -/
def flightOf (t : Thread) : List Access := t.flight.map fun a => { a with young := 0, reads := [] }

/-- Of the unit that issues, only registers, latches, the planes of lanes, the slots, and the bookkeeping of offsets and
chains may differ: the mode, the flags and generators, the trap registers, the divergence stack, the marks of pending
registers, the accesses in flight and everything else stay. -/
def UnitKept (a b : Thread) : Prop :=
  flightOf b = flightOf a ∧
  b = { a with
    v := b.v, p := b.p, g := b.g, gp := b.gp, q := b.q, plane := b.plane, vrcl := b.vrcl, grcl := b.grcl
    s0 := b.s0, s1 := b.s1, last := b.last, issued := b.issued, bkptPass := b.bkptPass, flight := b.flight
    chain := b.chain, chainOff := b.chainOff, chainSlot := b.chainSlot, chainReads := b.chainReads
    chainNext := b.chainNext, chainBad := b.chainBad, chainLeft := b.chainLeft }

/-- The slot that issues is x afterwards; the other slot is as it was. -/
def SlotIs (s t : State) (x : Slot) : Prop :=
  curSlot t = x ∧ slotOf (curUnit t) (!s.cur.slot) = slotOf (curUnit s) (!s.cur.slot)

/-- A slot at offset o, free to issue, with its mask. -/
def slotGone (x : Slot) (o : Word) : Slot := { x with off := o, hold := .none, waited := false, stage := 0 }

/-- The slot that issued stands at offset o. -/
def SlotAt (s t : State) (o : Word) : Prop := SlotIs s t (slotGone (curSlot s) o)

/-- Lanes keep their planes. -/
def PlanesKept (s t : State) : Prop := (curUnit t).plane = (curUnit s).plane

/-- A word that computes a value, and leaves the unit as base otherwise: what it writes and all that it leaves
(14 R344 to R346; 17 R387). -/
def ComputesIn (s t : State) (base : Thread) (d : Dst) (wide : Bool) (f : Bool → Nat → Res) : Prop :=
  Written s t d wide f ∧ RegsKept s t d wide ∧ LatchesShifted s t ∧ PlanesKept s t ∧ SlotAt s t (s.cur.off + 4) ∧
    OutsideKept s t ∧ UnitKept base (curUnit t)
/-- A word that only computes a value. -/
def Computes (s t : State) (d : Dst) (wide : Bool) (f : Bool → Nat → Res) : Prop := ComputesIn s t (curUnit s) d wide f
/-- A word whose results f enter q0 in every lane, whatever it writes. -/
def LatchesAre (s t : State) (f : Nat → Dword) : Prop :=
  (∀ l, l < 32 → rdQ (curUnit t) 0 l = f l) ∧ LatchesShifted s t ∧ PlanesKept s t ∧ SlotAt s t (s.cur.off + 4) ∧
    OutsideKept s t ∧ UnitKept (curUnit s) (curUnit t)

/-- A word whose one result enters q0 in every lane. -/
def Latches (s t : State) (x : Dword) : Prop := LatchesAre s t fun _ => x

/-- What a floating word answers in group scope or in a lane, under the mode and the next value of its generator. -/
def floatOut (s : State) (rm : Nat) (f : Bool → Nat → RCtx → FOut) (g : Bool) (l : Nat) : FOut :=
  f g l (rctx (curUnit s).mode rm (srStep (if g then (curUnit s).sg else laneSr (curUnit s) l)))

/-- No lane that executes raises an exception whose trap the mode enables (13 R334). -/
def NoTrap (s : State) (d : Dst) (o : Bool → Nat → FOut) : Prop :=
  if d.isGroup then (o true 0).flags &&& trapEnables (curUnit s).mode = 0
  else ∀ l ∈ execLanes s, (o false l).flags &&& trapEnables (curUnit s).mode = 0

/-- A floating word at which no lane traps: its results, the sticky flags (15 R374), the generators' steps (15 R372), and all
that it leaves. -/
def FloatComputes (s t : State) (d : Dst) (wide : Bool) (rm : Nat) (o : Bool → Nat → FOut) : Prop :=
  Written s t d wide (fun g l => (o g l).res) ∧ RegsKept s t d wide ∧ LatchesShifted s t ∧ PlanesKept s t ∧
  SlotAt s t (s.cur.off + 4) ∧ OutsideKept s t ∧
  UnitKept { curUnit s with sticky := (curUnit t).sticky, sr := (curUnit t).sr, sg := (curUnit t).sg } (curUnit t) ∧
  (curUnit t).sticky = (curUnit s).sticky ||| (if d.isGroup then (o true 0).flags
    else orFlags ((execLanes s).map fun l => (o false l).flags)) ∧
  (curUnit t).sg = (if d.isGroup ∧ rm = 5 ∧ (o true 0).step = true then srStep (curUnit s).sg else (curUnit s).sg) ∧
  ∀ l, laneSr (curUnit t) l =
    if d.isGroup = false ∧ l ∈ execLanes s ∧ rm = 5 ∧ (o false l).step = true then srStep (laneSr (curUnit s) l)
    else laneSr (curUnit s) l

/-- Registers, predicates, latches, planes, and everything outside the slot that issues, stay; that slot is x. -/
def Rests (s t : State) (x : Slot) : Prop :=
  (∀ n l, rdV (curUnit t) n l = rdV (curUnit s) n l) ∧ (∀ n, rdG (curUnit t) n = rdG (curUnit s) n) ∧
  (∀ n, rdP (curUnit t) n = rdP (curUnit s) n) ∧ (∀ n, rdGp (curUnit t) n = rdGp (curUnit s) n) ∧
  (curUnit t).q = (curUnit s).q ∧ PlanesKept s t ∧ SlotIs s t x ∧ OutsideKept s t ∧ UnitKept (curUnit s) (curUnit t)

/-- The same, and the slot goes to o. -/
def GoesTo (s t : State) (o : Word) : Prop := Rests s t (slotGone (curSlot s) o)

/-- A word at TYPE completes with the bits f in its destination (14 R342; 17 R399). -/
def GivesBits (i : Instr) (s : State) (d : Dst) (f : Bool → Nat → Nat) : Prop :=
  Runs i s → Answers i s fun t => Computes s t d (isWide (ictx s).ty) fun g l => resTy (ictx s).ty (f g l)
/-- A word completes with the truth value f in its predicate. -/
def GivesPred (i : Instr) (s : State) (d : Dst) (f : Bool → Nat → Bool) : Prop :=
  Runs i s → Answers i s fun t => Computes s t d false fun g l => resOf (bit64 (f g l))
/-- A word completes with a 32-bit number in its destination. -/
def Gives32 (i : Instr) (s : State) (d : Dst) (f : Bool → Nat → Nat) : Prop :=
  Runs i s → Answers i s fun t => Computes s t d false fun g l => res32 (f g l)
/-- A floating word at which no enabled trap is raised completes with the outcomes f of its lanes. -/
def GivesFloat (i : Instr) (s : State) (d : Dst) (wide : Bool) (rm : Nat) (f : Bool → Nat → RCtx → FOut) : Prop :=
  Runs i s → NoTrap s d (floatOut s rm f) →
    Answers i s fun t => FloatComputes s t d wide rm (floatOut s rm f)
/-- A word with no result completes: the slot goes to an offset, and nothing else of the machine changes. -/
def Moves (i : Instr) (s : State) (o : Word) : Prop := Runs i s → Answers i s fun t => GoesTo s t o
/-- A word completes at the next offset, and the machine is u otherwise. -/
def Makes (i : Instr) (s u : State) : Prop := Runs i s → Answers i s fun t => GoesTo u t (s.cur.off + 4)
/-- A word holds its slot until a wait ends, and the machine is u otherwise. -/
def Holds (i : Instr) (s u : State) (h : Hold) : Prop :=
  Runs i s → Answers i s fun t => Rests u t { curSlot u with hold := h }

/-- A word whose effect on the machine is f completes at the next offset; f acts on the machine once the word's registers
have been noted for its latch chain and for older accesses. -/
def Does (i : Instr) (s : State) (f : State → State) : Prop := Makes i s (f (noteOps s i))
/-- An answer is a fault: the unit's other state stays, and the fault that is raised has a cause, detail, lanes and address. -/
def Raised (a : Ans) (s : State) (c : Cause) (detail : Nat) (lanes : Mask) (addr : Dword) : Prop :=
  ∃ u f, a = .next (raiseFault u s.cur.ctx s.cur.unit f) ∧
    f.cause = c ∧ f.record.cause.extractLsb' 0 16 = BitVec.ofNat 16 (Machine.Cause.code c + 256 * detail) ∧ f.record.lanes = lanes ∧
    f.record.addr = addr ∧ f.record.mask = (curSlot s).mask ∧ f.record.word = s.cur.word ∧ f.slot = s.cur.slot ∧
    curSlot u = curSlot s ∧ UnitKept { curUnit s with lp := (curUnit u).lp, sr := (curUnit u).sr, sg := (curUnit u).sg } (curUnit u) ∧
    (∀ n l, rdV (curUnit u) n l = rdV (curUnit s) n l) ∧ (∀ n, rdG (curUnit u) n = rdG (curUnit s) n) ∧
    ∀ a, memByte u a = memByte s a
/-- A word faults. -/
def Faults (i : Instr) (s : State) (c : Cause) (detail : Nat) (lanes : Mask) (addr : Dword) : Prop :=
  Raised (exec i s) s c detail lanes addr

/-- An access of the word that issues has set out, and the slot goes on: the access, the marks of the registers that it will
write, and all that stays. u is the machine after the word's addresses were translated. -/
def Sends (s u t : State) (kind : AccKind) (dst : Nat) (paths : List Nat) (ps : List Piece) (marks : List Nat) : Prop :=
  let a := curUnit s
  let b := curUnit t
  (∃ x : Access, flightOf b = flightOf a ++ [{ x with young := 0, reads := [] }] ∧ x.id = a.nextAcc ∧ x.kind = kind ∧
    x.ty = mTy a.mode ∧ x.dst = dst ∧ x.paths = paths ∧ x.pieces = ps ∧ x.word = s.cur.word ∧ x.off = s.cur.off ∧
    x.slot = s.cur.slot ∧ x.mask = (curSlot s).mask ∧ x.age = a.issued ∧ x.obs = mObs a.mode ∧ x.done = false) ∧
  b = { a with
    flight := b.flight, nextAcc := a.nextAcc + 1, vpend := b.vpend, gpend := b.gpend, block := b.block, lp := b.lp
    s0 := b.s0, s1 := b.s1, last := b.last, issued := b.issued, bkptPass := b.bkptPass
    chain := b.chain, chainOff := b.chainOff, chainSlot := b.chainSlot, chainReads := b.chainReads
    chainNext := b.chainNext, chainBad := b.chainBad, chainLeft := b.chainLeft } ∧
  (∀ n, mgetD b.vpend n 0 = mgetD a.vpend n 0 ||| (if n < 128 ∧ n ∈ marks then maskOf (ps.map Piece.lane) else 0)) ∧
  (∀ n, mgetD b.gpend n false = (mgetD a.gpend n false || decide (n + 0xC0 ∈ marks))) ∧
  SlotAt s t (s.cur.off + 4) ∧ (∀ x, memByte t x = memByte u x) ∧
  t = { u with ctxs := t.ctxs, cur := t.cur, pending := t.pending } ∧
  t.cur.ctx = s.cur.ctx ∧ t.cur.unit = s.cur.unit ∧ t.cur.slot = s.cur.slot ∧
  ∀ k, k ≠ s.cur.unit → getUnit t s.cur.ctx k = getUnit s s.cur.ctx k

/-! ## Events -/

/-- An event leaves the machine as it was. -/
def Stands (i : Instr) (s : State) : Prop := exec i s = .next s
/-- An event happens d cycles later. -/
def Due (s t : State) (d : Nat) (e : Ev) : Prop := ⟨s.now + d, e⟩ ∈ t.pending
/-- Only some registers of the control space differ, and nothing else of the machine. -/
def CtlOnly (s t : State) (rs : List Nat) : Prop :=
  t = { s with ctl := t.ctl } ∧ ∀ o, o ∉ rs → ctlGet t o = ctlGet s o
/-- Registers of the control space outside a list keep their values. -/
def CtlKept (s t : State) (rs : List Nat) : Prop := ∀ o, o ∉ rs → ctlGet t o = ctlGet s o
/-- The machine with what an entry of the audit log changes. -/
def logIn (s t : State) : State :=
  { s with audit := t.audit, auditNext := t.auditNext, auditLost := t.auditLost, auditDropped := t.auditDropped, free := t.free }
/-- The newest entry of the audit log is of a type, where the log had room (05 R140). -/
def Logged (s t : State) (ty : Nat) : Prop :=
  s.auditLost = 0 → s.auditNext - s.auditReleased < 4096 → ∃ e : AuditEntry,
    t.audit = (s.audit ++ [e]).drop (s.audit.length + 1 - 4096) ∧ e.ty = ty ∧ e.seq = s.auditNext ∧ e.prev = auditHead s ∧
    t.auditNext = s.auditNext + 1
/-- A message waits at the port of a peer whose session is live. -/
def AtPort (t : State) (ep : Nat) (m : Msg) : Prop :=
  ∃ x, mget? t.sess ep = some x ∧ ∃ w ∈ (mgetD x.streams (msgStream m) {}).waiting, w.2 = m
/-- Nothing is in progress on a line at its home, and no other cell or host owns it. -/
def LineFree (s : State) (line : Nat) : Prop :=
  let h := getHome s line
  let f := getFilt s line
  h.turn = none ∧ h.held = [] ∧ h.fwd = none ∧ h.got = none ∧ f.pend = false ∧ f.awaitEps = [] ∧ f.awaitHosts = [] ∧
    f.evicting = false ∧ f.recovering = [] ∧ f.orphan = false ∧ f.hown = false ∧ f.st ≠ .m ∧ f.st ≠ .o ∧
    mgetD s.recal (stackOf line) false = false ∧ ∀ c ∈ s.sweepCells ++ s.queuedCells, f.vec.getLsbD c = false
/-- No unit's access waits for a line. -/
def NoWaiter (s : State) (line : Nat) : Prop := waitersOf s line = []

/-- A message of the package protocol is on its way to a die of this package, or to a cell-mate whose session is live. -/
def Toward (s t : State) (p : Party) (e : Ev) (m : Msg) : Prop :=
  match p with
  | .die _ => Due s t 0 e
  | .mate ep => sessLive s ep = true → AtPort t ep m
/-- A ticket has entered a hardware queue, with the ASID and the source that the D9 fills in and the window that it came
through (06 R151; 05 R129). -/
def Queued (s t : State) (q : Nat) (tk : List Byte) (asid src : Nat) (win : Option (Nat × Nat)) : Prop :=
  let k := qTail s q
  CtlKept s t [qReg q 0xC] ∧ ctlField t (qReg q 0xC) 16 16 = (k + 1) % qSize s q ∧ ctlField t (qReg q 0xC) 0 16 = ctlField s (qReg q 0xC) 0 16 ∧
    mget? (getQueue t q).wins k = win ∧ (getQueue t q).head = (getQueue s q).head ∧
    (s.home = [] → tk.length = 64 → hwRead t (qEntryPa s q k) 64 = ringEntry tk asid src) ∧
    (qLen s q = 0 → (getQueue t q).since = s.now ∧ (getQueue t q).fallback = false ∧ Due s t 3600 (.gangFallbackTimer q))
/-- A queue records an error and its address, and the supervisor is interrupted; errors 1 to 3 stop the queue (06 R154). -/
def QueueErr (s t : State) (q code addr : Nat) : Prop :=
  CtlKept s t [qReg q 8, qReg q 0x20] ∧ ctlField t (qReg q 8) 30 1 = 1 ∧ ctlField t (qReg q 8) 26 4 = code ∧
    ctlGet t (qReg q 0x20) = addr % 2 ^ 64 ∧ Out.queueIrq q code ∈ t.out ∧
    ctlField t (qReg q 8) 31 1 = if code ≤ 3 then 0 else ctlField s (qReg q 8) 31 1

end Sys2Proof.Safety
end

