-- ==== Sys2Proof/Certificates/Slice0/Obligations.lean ====
section
/-! DEFINITION. The statements for the provers. -/

open Sys2Proof Sys2Proof.Machine Sys2Proof.Safety

/-! ## Words that compute a value -/

/-- Integer arithmetic at TYPE (17 R399, R400, R402, R403): sums, differences and products are exact and fitted into the
type, MULH is the high half, DIV truncates and answers all ones for a zero divisor, REM answers its dividend there, ADDC is
the carry of the bit patterns. Every register, flag and byte of memory that a word does not name stays. DIV and REM take
integer types only. -/
def Obligations.IntegerArithmetic : Prop :=
  ∀ (s : State) (d : Dst) (a b : Src) (imm : BitVec 8),
    let c := ictx s
    let u (z : Src) (g : Bool) (l : Nat) : Nat := srcTy s g l z c.ty
    let x (g : Bool) (l : Nat) : Int := c.val (u a g l)
    let y (g : Bool) (l : Nat) : Int := c.val (u b g l)
    GivesBits (.add d a b) s d (fun g l => c.fit (x g l + y g l)) ∧
    GivesBits (.addi d a imm) s d (fun g l => c.fit (x g l + c.val (wrapN (sextN imm.toNat 8) c.w))) ∧
    GivesBits (.subw d a b) s d (fun g l => c.fit (x g l - y g l)) ∧
    GivesBits (.mul d a b) s d (fun g l => c.fit (x g l * y g l)) ∧
    GivesBits (.mulh d a b) s d (fun g l => wrapN (x g l * y g l / (2 ^ c.w : Nat)) c.w) ∧
    GivesBits (.minw d a b) s d (fun g l => wrapN (if y g l < x g l then y g l else x g l) c.w) ∧
    GivesBits (.maxw d a b) s d (fun g l => wrapN (if x g l < y g l then y g l else x g l) c.w) ∧
    GivesBits (.addc d a b) s d (fun g l => if 2 ^ c.w ≤ u a g l + u b g l then 1 else 0) ∧
    GivesBits (.div d a b) s d (fun g l => if y g l = 0 then 2 ^ c.w - 1 else c.fit ((x g l).tdiv (y g l))) ∧
    GivesBits (.rem d a b) s d (fun g l => if y g l = 0 then u a g l else wrapN ((x g l).tmod (y g l)) c.w) ∧
    GivesBits (.abs d a) s d (fun g l => c.fit (if x g l < 0 then -(x g l) else x g l)) ∧
    GivesBits (.neg d a) s d (fun g l => c.fit (-(x g l))) ∧
    (7 < c.ty → wordFault s (.div d a b) ≠ none ∧ wordFault s (.rem d a b) ≠ none)

/-- Logic words act on the bit pattern of the type's size, with immediates zero-extended (17 R403, R404). -/
def Obligations.LogicWords : Prop :=
  ∀ (s : State) (d : Dst) (a b : Src) (imm : BitVec 8),
    let c := ictx s
    let x (g : Bool) (l : Nat) : Nat := srcTy s g l a c.ty
    let y (g : Bool) (l : Nat) : Nat := srcTy s g l b c.ty
    let ones : Nat := 2 ^ c.w - 1
    GivesBits (.andw d a b) s d (fun g l => x g l &&& y g l) ∧
    GivesBits (.andi d a imm) s d (fun g l => x g l &&& imm.toNat) ∧
    GivesBits (.orw d a b) s d (fun g l => x g l ||| y g l) ∧
    GivesBits (.ori d a imm) s d (fun g l => x g l ||| imm.toNat) ∧
    GivesBits (.xorw d a b) s d (fun g l => x g l ^^^ y g l) ∧
    GivesBits (.xori d a imm) s d (fun g l => x g l ^^^ imm.toNat) ∧
    GivesBits (.andn d a b) s d (fun g l => x g l &&& (ones - y g l)) ∧
    GivesBits (.notw d a) s d (fun g l => ones - x g l) ∧
    GivesBits (.mov d a) s d x

/-- Shifts take their count from the low 8 bits of the control operand, or from IMM8, and no count is out of range
(17 R404); SRA copies bit w - 1 at every type. -/
def Obligations.ShiftWords : Prop :=
  ∀ (s : State) (d : Dst) (a b : Src) (imm : BitVec 8),
    let c := ictx s
    let x (g : Bool) (l : Nat) : Nat := srcTy s g l a c.ty
    let n (g : Bool) (l : Nat) : Nat := srcCtl s g l b % 256
    let left (x n : Nat) : Nat := if c.w ≤ n then 0 else x * 2 ^ n % 2 ^ c.w
    let right (x n : Nat) : Nat := if c.w ≤ n then 0 else x / 2 ^ n
    let arith (x n : Nat) : Nat := wrapN (sextN x c.w / (2 ^ n : Nat)) c.w
    GivesBits (.shl d a b) s d (fun g l => left (x g l) (n g l)) ∧
    GivesBits (.shli d a imm) s d (fun g l => left (x g l) imm.toNat) ∧
    GivesBits (.shr d a b) s d (fun g l => right (x g l) (n g l)) ∧
    GivesBits (.shri d a imm) s d (fun g l => right (x g l) imm.toNat) ∧
    GivesBits (.sra d a b) s d (fun g l => arith (x g l) (n g l)) ∧
    GivesBits (.srai d a imm) s d (fun g l => arith (x g l) imm.toNat) ∧
    GivesBits (.rol d a b) s d (fun g l =>
      (x g l * 2 ^ (n g l % c.w) + x g l / 2 ^ (c.w - n g l % c.w)) % 2 ^ c.w)

/-- Words on single bits and fields (17 R403, R405). BREV is said bit by bit; BFX and BFI take integer types only.
It rests on readings of the model: notes/assumptions 11 and 28. -/
def Obligations.BitWords : Prop :=
  ∀ (s : State) (d : Dst) (a b : Src),
    let c := ictx s
    let x (g : Bool) (l : Nat) : Nat := srcTy s g l a c.ty
    let p (g : Bool) (l : Nat) : Nat := srcCtl s g l b % 256
    let n (g : Bool) (l : Nat) : Nat := srcCtl s g l b / 256 % 256
    let old (g : Bool) (l : Nat) : Dword := oldDst s g l d (isWide c.ty)
    GivesBits (.clz d a) s d (fun g l => if x g l = 0 then c.w else c.w - 1 - (x g l).log2) ∧
    GivesBits (.popc d a) s d (fun g l => ((List.range c.w).filter fun i => (x g l).testBit i).length) ∧
    (∃ r : Bool → Nat → Nat, GivesBits (.brev d a) s d r ∧
      ∀ g l i, (r g l).testBit i = (decide (i < c.w) && (x g l).testBit (c.w - 1 - i))) ∧
    GivesBits (.bfx d a b) s d (fun g l =>
      if n g l = 0 ∨ c.w ≤ p g l then 0
      else
        let k := min (n g l) (c.w - p g l)
        let f := x g l / 2 ^ p g l % 2 ^ k
        if c.signed then wrapN (sextN f k) c.w else f) ∧
    (Runs (.bfi d a b) s → Answers (.bfi d a b) s fun t =>
      Computes s t d (isWide c.ty) fun g l =>
        let o := (old g l).toNat % 2 ^ c.w
        if n g l = 0 ∨ c.w ≤ p g l then ⟨old g l, BitVec.ofNat 64 o⟩
        else
          let k := min (n g l) (c.w - p g l)
          resTy c.ty (o - o / 2 ^ p g l % 2 ^ k * 2 ^ p g l + x g l % 2 ^ k * 2 ^ p g l)) ∧
    (7 < c.ty → wordFault s (.bfx d a b) ≠ none ∧ wordFault s (.bfi d a b) ≠ none)

/-- Words that read their destination: MAD, SEL, CLAMP and LIH (17 R401, R406, R407).
It rests on readings of the model: notes/assumptions 11 and 28. -/
def Obligations.ReadDestination : Prop :=
  ∀ (s : State) (d : Dst) (a b : Src) (imm : BitVec 16),
    let c := ictx s
    let x (g : Bool) (l : Nat) : Int := c.val (srcTy s g l a c.ty)
    let y (g : Bool) (l : Nat) : Int := c.val (srcTy s g l b c.ty)
    let old (g : Bool) (l : Nat) : Dword := oldDst s g l d (isWide c.ty)
    let z (g : Bool) (l : Nat) : Int := c.val ((old g l).toNat % 2 ^ c.w)
    GivesBits (.mad d a b) s d (fun g l => c.fit (x g l * y g l + z g l)) ∧
    GivesBits (.clamp d a b) s d (fun g l =>
      wrapN (if y g l < max (z g l) (x g l) then y g l else max (z g l) (x g l)) c.w) ∧
    (Runs (.sel d a b) s → Answers (.sel d a b) s fun t =>
      Computes s t d (isWide c.ty) fun g l =>
        if (srcIn s g l b false).getLsbD 0 = true then resTy c.ty (srcTy s g l a c.ty)
        else ⟨old g l, BitVec.ofNat 64 ((old g l).toNat % 2 ^ c.w)⟩) ∧
    Gives32 (.lih d imm) s d (fun g l => imm.toNat * 2 ^ 16 + (oldDst s g l d false).toNat % 2 ^ 16)

/-- LI writes its sign-extended immediate; LEA adds a scaled index modulo 2^64 and never faults on the address it forms;
it takes integer types only (17 R407, R408). -/
def Obligations.ConstantsAndAddresses : Prop :=
  ∀ (s : State) (d : Dst) (a b : Src) (imm : BitVec 16),
    let c := ictx s
    GivesBits (.li d imm) s d (fun _ _ => wrapN (sextN imm.toNat 16) c.w) ∧
    (Runs (.lea d a b) s → Answers (.lea d a b) s fun t =>
      Computes s t d true fun g l =>
        resOf (srcIn s g l a true + BitVec.ofInt 64 (c.val (srcTy s g l b c.ty) * (tySize c.ty : Nat)))) ∧
    (7 < c.ty → wordFault s (.lea d a b) ≠ none)

/-- Predicate words and integer compares (17 R397, R398, R409). -/
def Obligations.PredicateWords : Prop :=
  ∀ (s : State) (d : Dst) (a b : Src) (imm : BitVec 8),
    let c := ictx s
    let p (z : Src) (g : Bool) (l : Nat) : Bool := (srcIn s g l z false).getLsbD 0
    let x (g : Bool) (l : Nat) : Int := c.val (srcTy s g l a c.ty)
    let y (g : Bool) (l : Nat) : Int := c.val (srcTy s g l b c.ty)
    let k : Int := c.val (wrapN (sextN imm.toNat 8) c.w)
    GivesPred (.pand d a b) s d (fun g l => p a g l && p b g l) ∧
    GivesPred (.por d a b) s d (fun g l => p a g l || p b g l) ∧
    GivesPred (.pxor d a b) s d (fun g l => p a g l != p b g l) ∧
    GivesPred (.pnot d a) s d (fun g l => !p a g l) ∧
    GivesPred (.pmov d a) s d (fun g l => p a g l) ∧
    GivesPred (.psetg d a) s d (fun _ _ => decide (srcCtl s true 0 a ≠ 0)) ∧
    Gives32 (.pgetg d) s d (fun _ _ => ((List.range 4).map fun k => if rdGp (curUnit s) k = true then 2 ^ k else 0).sum) ∧
    GivesPred (.cmpeq d a b) s d (fun g l => decide (x g l = y g l)) ∧
    GivesPred (.cmpne d a b) s d (fun g l => decide (x g l ≠ y g l)) ∧
    GivesPred (.cmplt d a b) s d (fun g l => decide (x g l < y g l)) ∧
    GivesPred (.cmple d a b) s d (fun g l => decide (x g l ≤ y g l)) ∧
    GivesPred (.cmpeqi d a imm) s d (fun g l => decide (x g l = k)) ∧
    GivesPred (.cmplti d a imm) s d (fun g l => decide (x g l < k))

/-- Words that gather, set and exchange single lanes (17 R410 to R415). A source lane is read whether or not it executes;
a lane that finds no source lane keeps its own A. -/
def Obligations.LaneWords : Prop :=
  ∀ (s : State) (d : Dst) (n : Fin 64) (m : Fin 128) (a b : Src) (o : BitVec 3),
    let c := ictx s
    let w := isWide c.ty
    let x (l : Nat) : Nat := srcTy s false l a c.ty
    let j (l : Nat) : Nat := srcCtl s false l b
    let k : Nat := srcCtl s true 0 b % 32
    let gives (i : Instr) (f : Nat → Nat) : Prop :=
      Runs i s → Answers i s fun t => Computes s t d w fun _ l => resTy c.ty (f l)
    GivesBits (.vget (.g n) a b) s (.g n) (fun _ _ => x k) ∧
    (Runs (.vput (.v m) a b) s → Answers (.vput (.v m) a b) s fun t =>
      let r := resTy c.ty (srcTy s true 0 a c.ty)
      held (curUnit t) (.v m) w k = asHeld (.v m) w r.reg ∧
      (∀ q l, l < 32 → ¬ (namesV (.v m) w q ∧ l = k) → rdV (curUnit t) q l = rdV (curUnit s) q l) ∧
      (curUnit t).p = (curUnit s).p ∧ (curUnit t).g = (curUnit s).g ∧ (curUnit t).gp = (curUnit s).gp ∧
      LatchesAre s t fun l => if ((curSlot s).mask &&& ~~~ s.cur.lanes).getLsbD l = true then 0 else r.lat) ∧
    (∀ p : Fin 8, a = .p p → Runs (.vote (.g n) a) s → Answers (.vote (.g n) a) s fun t =>
      Computes s t (.g n) false fun _ _ => res32 (execMask s &&& rdP (curUnit s) p.val).toNat) ∧
    (∀ p : Fin 4, a = .gp p → Runs (.vote (.g n) a) s → Answers (.vote (.g n) a) s fun t =>
      Computes s t (.g n) false fun _ _ => res32 (if rdGp (curUnit s) p.val = true then execMask s else 0).toNat) ∧
    gives (.shfl d a b) (fun l => x (j l % 32)) ∧
    gives (.shflx d a b) (fun l => x (l ^^^ (j l % 32))) ∧
    gives (.shflup d a b) (fun l => x (if j l ≤ l then l - j l else l)) ∧
    gives (.shfldn d a b) (fun l => x (if l + j l ≤ 31 then l + j l else l)) ∧
    gives (.bcast d a b) (fun l => x (j l % 32)) ∧
    GivesBits (.cred (.g n) a o) s (.g n) (fun _ _ =>
      let vs : List Int := (execLanes s).map fun l => c.val (x l)
      let us : List Nat := (execLanes s).map x
      match o.toNat with
      | 0 => c.fit vs.sum
      | 1 => wrapN (vs.foldl min (intMax c.signed c.w)) c.w
      | 2 => wrapN (vs.foldl max (intMin c.signed c.w)) c.w
      | 3 => us.foldl (· &&& ·) (2 ^ c.w - 1)
      | 4 => us.foldl (· ||| ·) 0
      | _ => us.foldl (· ^^^ ·) 0)

/-! ## Floating words -/

/-- Arithmetic at TYPE (18 R421, R422): the exact result is rounded once, under RND, SAT, INF and FTZ of the mode; the fused
forms read their destination as an operand. The sticky flags take what a lane raises, and a generator steps where SR
rounds. It rests on readings of the model: notes/assumptions 11, 13, 33 and 34. -/
def Obligations.FloatArithmetic : Prop :=
  ∀ (s : State) (d : Dst) (a b : Src),
    let m := (curUnit s).mode
    let ty := mTy m
    let x (g : Bool) (l : Nat) : Machine.Num := numIn s g l a
    let y (g : Bool) (l : Nat) : Machine.Num := numIn s g l b
    let z (g : Bool) (l : Nat) : Machine.Num := valOf ty (mInf m) (mFtz m) ((oldDst s g l d (isWide ty)).toNat % 2 ^ tyBits ty)
    let gives (i : Instr) (f : Bool → Nat → RCtx → Machine.Num × Flags) (inf : Bool → Nat → Bool) : Prop :=
      GivesFloat i s d (isWide ty) (mRnd m) fun g l c => roundOut ty c (f g l c).1 (f g l c).2 (inf g l)
    let two (g : Bool) (l : Nat) : Bool := (x g l).isInf || (y g l).isInf
    let three (g : Bool) (l : Nat) : Bool := (x g l).isInf || (y g l).isInf || (z g l).isInf
    gives (.fadd d a b) (fun g l c => addNum c.rm (x g l) (y g l)) two ∧
    gives (.fsub d a b) (fun g l c => addNum c.rm (x g l) (y g l).negate) (fun g l => (x g l).isInf || (y g l).negate.isInf) ∧
    gives (.fmul d a b) (fun g l _ => mulNum (x g l) (y g l)) two ∧
    gives (.fdiv d a b) (fun g l _ => divNum (x g l) (y g l)) two ∧
    gives (.fsqrt d a) (fun g l _ => sqrtNum (x g l)) (fun g l => (x g l).isInf) ∧
    gives (.fma d a b) (fun g l c => fmaNum c.rm (x g l) (y g l) (z g l)) three ∧
    gives (.fms d a b) (fun g l c => fmaNum c.rm (x g l) (y g l) (z g l).negate) three ∧
    gives (.fnma d a b) (fun g l c => fmaNum c.rm (x g l).negate (y g l) (z g l)) three

/-- The exact results that are rounded (18 R421, R422): for finite operands, a sum, a product and a fused sum are exactly
what the operands' values give, with no exception. A value is compared as the integer that it is at a scale 2^lo at or below
its exponent. -/
def Obligations.ExactResults : Prop :=
  ∀ (rm : Nat) (n n' n'' : Bool) (m m' m'' : Nat) (e e' e'' : Int),
    let val (n : Bool) (m : Nat) (e lo : Int) : Int := (if n = true then -1 else 1) * (m : Int) * 2 ^ (e - lo).toNat
    (∃ k j i, addNum rm (.fin n m e) (.fin n' m' e') = (.fin k j i, 0) ∧
      ∀ lo, lo ≤ e → lo ≤ e' → lo ≤ i → val k j i lo = val n m e lo + val n' m' e' lo) ∧
    (∃ k j i, mulNum (.fin n m e) (.fin n' m' e') = (.fin k j i, 0) ∧
      ∀ lo lo', lo ≤ e → lo' ≤ e' → val k j i (lo + lo') = val n m e lo * val n' m' e' lo') ∧
    (∃ k j i, fmaNum rm (.fin n m e) (.fin n' m' e') (.fin n'' m'' e'') = (.fin k j i, 0) ∧
      ∀ lo lo', lo ≤ e → lo' ≤ e' → lo + lo' ≤ e'' → lo + lo' ≤ i →
        val k j i (lo + lo') = val n m e lo * val n' m' e' lo' + val n'' m'' e'' (lo + lo')) ∧
    (∀ lo, lo ≤ e → lo ≤ e' → (ltNum (.fin n m e) (.fin n' m' e') = true ↔ val n m e lo < val n' m' e' lo))

/-- The rounding step (15 R371): the magnitude num / den of a unit is rounded to an integer, down, up, or to the nearest
one, ties to even under RNE and away from zero under RNA; SR goes up when the first 32 bits of the fraction and the
generator's value together reach 1. -/
def Obligations.RoundingStep : Prop :=
  ∀ (rm x m : Nat) (neg : Bool) (e u : Int),
    let num : Nat := m * 2 ^ (e - u).toNat
    let den : Nat := 2 ^ (u - e).toNat
    let r : Nat × Bool := roundAt rm x neg m e u fun n => decide (n % 2 = 1)
    let down : Nat := num / den
    let up : Nat := if num % den = 0 then down else down + 1
    let off : Nat := 2 * ((r.1 * den : Nat) - (num : Int)).natAbs
    (r.2 = true ↔ num % den ≠ 0) ∧
    (rm = 1 → r.1 = down) ∧
    (rm = 2 → r.1 = if neg = true then up else down) ∧
    (rm = 3 → r.1 = if neg = true then down else up) ∧
    (rm = 0 → off ≤ den ∧ (off = den → r.1 % 2 = 0)) ∧
    (rm = 4 → off ≤ den ∧ (off = den → num < r.1 * den)) ∧
    (rm = 5 → num % den ≠ 0 → r.1 = if 2 ^ 32 ≤ num % den * 2 ^ 32 / den + x then down + 1 else down)

/-- Rounding changes no value that the type holds already (15 R360, R363, R371): bits that stand for a finite value come
back as they were, with no exception, whatever the rounding mode and SAT. -/
def Obligations.RoundingKeepsValues : Prop :=
  ∀ (ty x : Nat) (c : RCtx) (n : Bool) (m : Nat) (e : Int),
    isFB ty = true → c.ftz = false → x < 2 ^ tyBits ty → valOf ty c.inf false x = .fin n m e →
      roundNum ty c (.fin n m e) = ⟨x, 0⟩

/-- Words that select, change a sign, compare or classify (18 R423 to R426). Nothing is rounded and no generator steps. FMIN
and FMAX answer one of the operands, with -0 below +0, and prefer a number to a NaN; FABS, FNEG and FCPS keep every bit but
the sign, and ignore FTZ. It rests on readings of the model: notes/assumptions 32. -/
def Obligations.FloatSelection : Prop :=
  ∀ (s : State) (d : Dst) (a b : Src),
    let m := (curUnit s).mode
    let ty := mTy m
    let w := isWide ty
    let bits (z : Src) (g : Bool) (l : Nat) : Nat := srcTy s g l z ty
    let val (z : Src) (g : Bool) (l : Nat) : Machine.Num := numIn s g l z
    let gives (i : Instr) (w : Bool) (r : Bool → Nat → Res) (fl : Bool → Nat → Flags) : Prop :=
      GivesFloat i s d w (mRnd m) fun g l _ => ⟨r g l, fl g l, false⟩
    let below (x y : Machine.Num) : Bool := ltNum x y || (eqNum x y && x.neg? && !y.neg?)
    let pick (max : Bool) (g : Bool) (l : Nat) : Nat :=
      let x := val a g l
      let y := val b g l
      if x.isNan = true ∧ y.isNan = true then nanOf ty
      else if y.isNan = true ∨ (x.isNan = false ∧ (if max = true then below x y else below y x) = false)
      then readBits m ty (bits a g l)
      else readBits m ty (bits b g l)
    let signalling (g : Bool) (l : Nat) : Flags := (val a g l).snan ||| (val b g l).snan
    let anyNan (g : Bool) (l : Nat) : Flags := if (val a g l).isNan = true ∨ (val b g l).isNan = true then fNV else 0
    let low : Nat := 2 ^ (tyBits ty - 1)
    let fixed (x : Nat) : Bool := isB8n ty || (isB8 ty && decide (x % 128 = 0))
    let truth (p : Machine.Num → Machine.Num → Bool) (g : Bool) (l : Nat) : Res := resOf (bit64 (p (val a g l) (val b g l)))
    gives (.fmin d a b) w (fun g l => resTy ty (pick false g l)) signalling ∧
    gives (.fmax d a b) w (fun g l => resTy ty (pick true g l)) signalling ∧
    gives (.fabs d a) w
      (fun g l => let x := bits a g l; resTy ty (if fixed x = true then x else x % low)) (fun _ _ => 0) ∧
    gives (.fneg d a) w
      (fun g l => let x := bits a g l
        resTy ty (if isB8n ty = true ∧ x ≠ 0 then 0xFF else if fixed x = true then x
          else if low ≤ x then x - low else x + low))
      (fun g l => let x := bits a g l; if isB8n ty = true ∧ x ≠ 0 ∧ x ≠ 0xFF then fNV else 0) ∧
    gives (.fcps d a b) w
      (fun g l => let x := bits a g l; let y := bits b g l
        resTy ty (if fixed x = true then x
          else if low ≤ y ∧ ¬ (isB8 ty = true ∧ y = 0x80) then x % low + low else x % low))
      (fun _ _ => 0) ∧
    gives (.fcmpeq d a b) false (truth fun x y => eqNum x y) signalling ∧
    gives (.fcmplt d a b) false (truth fun x y => ltNum x y) anyNan ∧
    gives (.fcmple d a b) false (truth fun x y => ltNum x y || eqNum x y) anyNan ∧
    gives (.fcmpun d a b) false (truth fun x y => x.isNan || y.isNan) signalling ∧
    gives (.fclass d a) false
      (fun g l => res32 (2 ^ (
        match valOf ty (mInf m) false (bits a g l) with
        | .inf n => if n = true then 0 else 7
        | .nan signalling => if signalling = true then 8 else 9
        | .fin n k e =>
          let sub : Bool := decide (e = (fmtOf ty (mInf m)).umin) && decide (k < 2 ^ ((fmtOf ty (mInf m)).p - 1))
          if k = 0 then (if n = true then 3 else 4)
          else if n = true then (if sub = true then 2 else 1) else (if sub = true then 5 else 6))))
      (fun _ _ => 0)

/-- FRND, FSCALE and FGETE (18 R427): infinities and zeros pass, a NaN gives the canonical one; FRND answers the integral
value that the rounding step at unit 1 gives, of the operand's sign, with no NX, UF or OF; FSCALE adds its control operand
to the exponent and rounds once; FGETE answers the exponent of A as a value of the type.
It rests on readings of the model: notes/assumptions 13, 32 and 35. -/
def Obligations.FloatExponents : Prop :=
  ∀ (s : State) (d : Dst) (a b : Src),
    let m := (curUnit s).mode
    let ty := mTy m
    let gives (i : Instr) (f : Bool → Nat → RCtx → FOut) : Prop := GivesFloat i s d (isWide ty) (mRnd m) f
    let out (x : Nat) (fl : Flags) : FOut := ⟨resTy ty x, fl, false⟩
    let nan (signalling : Bool) : FOut := out (nanOf ty) (if signalling = true then fNV else 0)
    let zero (n : Bool) : Nat := if isIeee ty = true ∧ n = true then signBit ty true else 0
    gives (.frnd d a) (fun g l c =>
      match numIn s g l a with
      | .nan q => nan q
      | .inf _ => out (srcTy s g l a ty) 0
      | .fin n k e =>
        if k = 0 then out (zero n) 0
        else
          let r := (roundAt c.rm c.x n k e 0 fun q => decide (q % 2 = 1)).1
          ⟨resTy ty (if r = 0 then zero n else (roundNum ty { c with rm := 0 } (.fin n r 0)).bits), 0, true⟩) ∧
    gives (.fscale d a b) (fun g l c =>
      match numIn s g l a with
      | .nan q => nan q
      | .inf _ => out (srcTy s g l a ty) 0
      | .fin n k e =>
        if k = 0 then out (zero n) 0
        else
          let r := roundNum ty c (.fin n k (e + sextN (srcCtl s g l b) 32))
          ⟨resTy ty r.bits, r.flags, true⟩) ∧
    gives (.fgete d a) (fun g l c =>
      match numIn s g l a with
      | .nan q => nan q
      | .inf _ => out (infOf ty (mInf m) false) 0
      | .fin _ k e =>
        if k = 0 then
          out (if isB8n ty = true ∨ (isB8 ty = true ∧ mInf m = false) then nanOf ty else infOf ty (mInf m) true) fDZ
        else
          let r := roundNum ty c (.ofInt (e + k.log2))
          ⟨resTy ty r.bits, r.flags, true⟩)

/-- Conversions (18 R429): the source is read at TYPE, the result is rounded once to TGT under RC, and an integer target
clamps whatever SAT holds, with NV. It rests on readings of the model: notes/assumptions 34 and 36. -/
def Obligations.FloatConversions : Prop :=
  ∀ (s : State) (d : Dst) (a : Src) (t : BitVec 5) (rc : BitVec 3),
    let m := (curUnit s).mode
    let ty := mTy m
    let tgt := t.toNat
    let val (g : Bool) (l : Nat) : Machine.Num := valOf ty (mInf m) (mFtz m) (srcTy s g l a ty)
    let steps (v : Machine.Num) : Bool := !(v.isNan || v.isInf) && decide (tgt ≠ ty)
    let round (g : Bool) (l : Nat) (c : RCtx) : FOut :=
      let r := roundNum tgt c (val g l) (decide (tgt = ty))
      ⟨resTy tgt r.bits, r.flags, steps (val g l)⟩
    let lo : Int := intMin (isSigned tgt) (tyBits tgt)
    let hi : Int := intMax (isSigned tgt) (tyBits tgt)
    let toInt (g : Bool) (l : Nat) (c : RCtx) : FOut :=
      let out (x : Int) (fl : Flags) : FOut := ⟨resTy tgt (wrapN x (tyBits tgt)), fl, steps (val g l)⟩
      match val g l with
      | .nan _ => out 0 fNV
      | .inf n => out (if n = true then lo else hi) fNV
      | .fin n k e =>
        let r := roundAt c.rm c.x n k e 0 fun q => decide (q % 2 = 1)
        let x : Int := if n = true then -(r.1 : Int) else r.1
        if x < lo then out lo fNV else if hi < x then out hi fNV else out x (if r.2 = true then fNX else 0)
    GivesFloat (.fcvt d a t rc) s d (isWide tgt) rc.toNat (fun g l c =>
      if ty = 27 ∧ tgt = 27 then ⟨resTy 27 (srcTy s g l a ty), 0, false⟩ else round g l c) ∧
    GivesFloat (.fcvti d a t rc) s d (isWide tgt) rc.toNat toInt ∧
    GivesFloat (.icvtf d a t rc) s d (isWide tgt) rc.toNat round

/-- The approximate functions (18 R428): their results in every lane are those of the functions named, which ignore RND and
step no generator; their special cases are the table's, under every choice of what an implementation answers; and a
reciprocal of a finite value is one of the two neighbours of the exact quotient, or that quotient.
It rests on readings of the model: notes/assumptions 8. -/
def Obligations.ApproximateWords : Prop :=
  (∀ (s : State) (d : Dst) (a : Src),
    let m := (curUnit s).mode
    let ty := mTy m
    let gives (i : Instr) (f : Nat → RCtx → Nat → Machine.Num → Rounded) : Prop :=
      GivesFloat i s d (isWide ty) 0 fun g l c =>
        let r := f ty c (readBits m ty (srcTy s g l a ty)) (numIn s g l a)
        ⟨resTy ty r.bits, r.flags, false⟩
    gives (.frcp d a) rcpFn ∧ gives (.frsq d a) rsqFn ∧ gives (.fexp2 d a) exp2Fn ∧ gives (.flog2 d a) log2Fn ∧
    gives (.fsin d a) (trigFn false) ∧ gives (.fcos d a) (trigFn true) ∧ gives (.ftanh d a) tanhFn) ∧
  (∀ (ty x : Nat) (c : RCtx) (n : Bool) (e : Int), isIeee ty = true →
    let nan (signalling : Bool) : Rounded := ⟨nanOf ty, if signalling = true then fNV else 0⟩
    let inf (n : Bool) (fl : Flags) : Rounded := ⟨infOf ty c.inf n, fl⟩
    let zero (n : Bool) : Rounded := ⟨signBit ty n, 0⟩
    let one (n : Bool) : Rounded := roundNum ty { c with rm := 0 } (.fin n 1 0)
    (∀ f ∈ [rcpFn, rsqFn, exp2Fn, log2Fn, trigFn false, trigFn true, tanhFn], f ty c x (.nan n) = nan n) ∧
    rcpFn ty c x (.fin n 0 e) = inf n fDZ ∧ rcpFn ty c x (.inf n) = zero n ∧
    rsqFn ty c x (.fin n 0 e) = inf n fDZ ∧ rsqFn ty c x (.inf true) = nan true ∧ rsqFn ty c x (.inf false) = zero false ∧
    (∀ k, 0 < k → rsqFn ty c x (.fin true k e) = nan true) ∧
    exp2Fn ty c x (.fin n 0 e) = one false ∧ exp2Fn ty c x (.inf true) = zero false ∧
    exp2Fn ty c x (.inf false) = inf false 0 ∧
    log2Fn ty c x (.fin n 0 e) = inf true fDZ ∧ log2Fn ty c x (.inf true) = nan true ∧
    log2Fn ty c x (.inf false) = inf false 0 ∧ log2Fn ty c x (.fin false 1 0) = zero false ∧
    (∀ k, 0 < k → log2Fn ty c x (.fin true k e) = nan true) ∧
    trigFn false ty c x (.fin n 0 e) = zero n ∧ trigFn true ty c x (.fin n 0 e) = one false ∧
    (∀ cosine, trigFn cosine ty c x (.inf n) = nan true ∧
      ∀ k, ltNum (.fin false 1 20) (.fin false k e) = true → trigFn cosine ty c x (.fin n k e) = nan true) ∧
    tanhFn ty c x (.fin n 0 e) = zero n ∧ tanhFn ty c x (.inf n) = one n) ∧
  (∀ (ty x : Nat) (c : RCtx) (n : Bool) (k : Nat) (e : Int), isIeee ty = true → 0 < k → c.ftz = false →
    let q := (divNum (.fin false 1 0) (.fin n k e)).1
    ∃ rm, rm ∈ [0, 2, 3] ∧ (rcpFn ty c x (.fin n k e)).bits = (roundNum ty { c with rm := rm } q).bits)

/-- Dot products, packing and trits (18 R430 to R432). A dot product sums the exact products and the addend and rounds once;
PACKN and TERNP change one element of their destination and keep its other bits; a reserved tern byte reads as five zeros and
sets TI, which never traps. It rests on readings of the model: notes/assumptions 11 and 34. -/
def Obligations.PackedWords : Prop :=
  ∀ (s : State) (d : Dst) (a b : Src) (p : BitVec 2) (rc : BitVec 3),
    let m := (curUnit s).mode
    let ty := mTy m
    let w := tyBits ty
    let at32 (z : Src) (g : Bool) (l : Nat) : Nat := srcCtl s g l z
    let elem (x j : Nat) : Machine.Num := valOf ty (mInf m) (mFtz m) (x / 2 ^ (w * j) % 2 ^ w)
    let old (g : Bool) (l : Nat) : Nat := (oldDst s g l d false).toNat % 2 ^ 32
    let addend (g : Bool) (l : Nat) : Machine.Num := valOf 10 (mInf m) (mFtz m) (old g l)
    let steps (v : Machine.Num) : Bool := !(v.isNan || v.isInf)
    let rounded (c : RCtx) (v : Machine.Num × Flags) : FOut :=
      let r := roundNum 10 c v.1
      ⟨resTy 10 r.bits, r.flags ||| v.2, steps v.1⟩
    let dot (n : Nat) (g : Bool) (l : Nat) (c : RCtx) : FOut :=
      rounded c (dotSum c.rm ((List.range n).map fun j => (elem (at32 a g l) j, elem (at32 b g l) j)) (addend g l))
    let i (g : Bool) (l : Nat) : Nat := at32 b g l
    let tern (y : Nat) : Nat := if 242 < y then 0 else y
    let ti (y : Nat) : Flags := if 242 < y then fTI else 0
    GivesFloat (.fdot2 d a b) s d false (mRnd m) (dot 2) ∧
    GivesFloat (.fdot4 d a b) s d false (mRnd m) (dot 4) ∧
    GivesFloat (.packn d a p rc) s d false rc.toNat (fun g l c =>
      let v := valOf 10 (mInf m) (mFtz m) (at32 a g l)
      let r := if isInt ty = true then toIntType ty c.rm c.x v else roundNum ty c v
      let k := w * p.toNat
      ⟨res32 (old g l - old g l / 2 ^ k % 2 ^ w * 2 ^ k + r.bits % 2 ^ w * 2 ^ k), r.flags, steps v⟩) ∧
    GivesFloat (.unpkn d a p) s d false 0 (fun g l c =>
      let r := roundNum 10 { c with ftz := false } (elem (at32 a g l) p.toNat) true
      ⟨res32 r.bits, r.flags, false⟩) ∧
    GivesFloat (.ternp d a b) s d false (mRnd m) (fun g l c =>
      if 4 < i g l then ⟨res32 (old g l), 0, false⟩
      else
        let v := numIn s g l a
        let t := toTrit c.rm c.x v
        let y := tern (old g l % 256)
        ⟨res32 (y - y / 3 ^ i g l % 3 * 3 ^ i g l + t.1 * 3 ^ i g l),
          (if isInt ty = true then 0 else t.2) ||| ti (old g l % 256), !(isInt ty || v.isNan || v.isInf)⟩) ∧
    GivesFloat (.ternu d a b) s d (isWide ty) (mRnd m) (fun g l c =>
      if 4 < i g l then ⟨resTy ty 0, 0, false⟩
      else
        let y := at32 a g l % 256
        let v : Int := match tern y / 3 ^ i g l % 3 with
          | 1 => 1
          | 2 => -1
          | _ => 0
        if isInt ty = true then ⟨resTy ty (fitInt (mSat m) (isSigned ty) w v), ti y, false⟩
        else
          let r := roundNum ty c (.ofInt v)
          ⟨resTy ty r.bits, r.flags ||| ti y, false⟩)

/-- An exact dot product (15 R375): for finite operands the sum of the products and the addend is exact and raises nothing;
a product of zero and an infinity, or infinities of opposite sign among the terms, give a NaN with NV. -/
def Obligations.ExactDotProducts : Prop :=
  ∀ (rm : Nat) (n n' : Bool) (m m' : Nat) (e e' : Int) (ps : List (Machine.Num × Machine.Num)) (z : Machine.Num),
    let val (x : Machine.Num) (lo : Int) : Int := match x with
      | .fin n m e => (if n = true then -1 else 1) * (m : Int) * 2 ^ (e - lo).toNat
      | _ => 0
    let finite (x : Machine.Num) : Prop := x.isNan = false ∧ x.isInf = false
    let low (x : Machine.Num) (lo : Int) : Prop := match x with
      | .fin _ _ e => lo ≤ e
      | _ => True
    ((∀ p ∈ ps, finite p.1 ∧ finite p.2) → finite z →
      finite (dotSum rm ps z).1 ∧ (dotSum rm ps z).2 = 0 ∧
        ∀ lo lo', (∀ p ∈ ps, low p.1 lo ∧ low p.2 lo') → low z (lo + lo') → lo + lo' ≤ 0 →
          val (dotSum rm ps z).1 (lo + lo') = (ps.map fun p => val p.1 lo * val p.2 lo').sum + val z (lo + lo')) ∧
    (dotSum rm [(.fin n 0 e, .inf n'), (.fin n m e, .fin n' m' e')] z).1.isNan = true ∧
    (dotSum rm [(.fin n 0 e, .inf n'), (.fin n m e, .fin n' m' e')] z).2 &&& fNV = fNV ∧
    (0 < m → 0 < m' → n ≠ n' → dotSum rm [(.fin n m e, .inf false), (.inf false, .fin n' m' e')] (.fin false 0 0) = (.nan false, fNV))

/-- SRSEED exchanges generators, a seed of 0 standing for the launch value, and FFLAGS reads the sticky flags before it clears
those that A selects (18 R433, R434; 15 R372, R374). -/
def Obligations.RoundingState : Prop :=
  ∀ (s : State) (n : Fin 64) (d : Dst) (a : Src),
    let u := curUnit s
    let launch : Word := if isCrew s.cur.unit = true then BitVec.ofNat 32 (0x800 + u.num)
      else if isCox s.cur.unit = true then 0x900 else 0xA00
    let seed (x : Nat) (z : Word) : Word := if x = 0 then z else BitVec.ofNat 32 x
    (Runs (.srseed (.g n) a) s → Answers (.srseed (.g n) a) s fun t =>
      ComputesIn s t { u with sg := seed (srcCtl s true 0 a) launch } (.g n) false fun _ _ => res32 u.sg.toNat) ∧
    (d.isVN = true → Runs (.srseed d a) s → Answers (.srseed d a) s fun t =>
      ComputesIn s t { u with sr := (curUnit t).sr } d false (fun _ l => res32 (laneSr u l).toNat) ∧
      ∀ l, laneSr (curUnit t) l =
        if l ∈ execLanes s then seed (srcCtl s false l a) (BitVec.ofNat 32 (32 * laneCrew u l + l + 1)) else laneSr u l) ∧
    (Runs (.fflags (.g n) a) s → Answers (.fflags (.g n) a) s fun t =>
      ComputesIn s t { u with sticky := u.sticky &&& ~~~ BitVec.ofNat 6 (srcCtl s true 0 a) } (.g n) false
        fun _ _ => res32 u.sticky.toNat)

/-- Floating traps (13 R334), for a word that stands at the start of a latch chain or outside one: the lanes that raise an
exception which the mode enables keep their destinations, are named with the highest-ranked enabled cause of the lowest plane
in which a lane traps and with all their exceptions as DETAIL, and leave the sticky flags alone; the other lanes write their results. A group-scope word faults as a whole. -/
def Obligations.FloatTraps : Prop :=
  ∀ (s : State) (d : Dst) (a b : Src),
    let m := (curUnit s).mode
    let ty := mTy m
    let en := trapEnables m
    let x (g : Bool) (l : Nat) : Machine.Num := numIn s g l a
    let y (g : Bool) (l : Nat) : Machine.Num := numIn s g l b
    let rank (f : Flags) : Cause :=
      if f &&& fNV ≠ 0 then .nv else if f &&& fDZ ≠ 0 then .dz else if f &&& fOF ≠ 0 then .ovf
      else if f &&& fUF ≠ 0 then .unf else .nx
    let traps (i : Instr) (wide : Bool) (f : Bool → Nat → RCtx → FOut) : Prop :=
      let o := floatOut s (mRnd m) f
      let bad (l : Nat) : Prop := (o false l).flags &&& en ≠ 0
      Runs i s → chPos (noteOps s i) = 0 →
      (d.isGroup = false → (∃ l ∈ execLanes s, bad l) → ∃ u r, exec i s = .next (raiseFault u s.cur.ctx s.cur.unit r) ∧
        (let bads := (execLanes s).filter fun l => decide ((o false l).flags &&& en ≠ 0)
         let p := lowPlane (curUnit s) (maskOf bads)
         let all := orFlags (bads.map fun l => (o false l).flags)
         let low := orFlags ((bads.filter fun l => decide (lanePlane (curUnit s) l % 8 = p)).map fun l => (o false l).flags)
         r.cause = rank (low &&& en) ∧ r.record.plane = p ∧ r.record.cause = causeWord (rank (low &&& en)) (all.toNat % 32) 0) ∧
        (∀ l, l < 32 → (r.record.lanes.getLsbD l = true ↔ l ∈ execLanes s ∧ bad l)) ∧
        r.record.mask = (curSlot s).mask ∧ r.record.off = s.cur.off ∧ r.record.word = s.cur.word ∧ r.slot = s.cur.slot ∧
        r.sup = false ∧ curSlot u = curSlot s ∧ RegsKept s u d wide ∧
        (∀ l ∈ execLanes s, (bad l → held (curUnit u) d wide l = held (curUnit s) d wide l) ∧
          (¬ bad l → held (curUnit u) d wide l = asHeld d wide (o false l).res.reg)) ∧
        (curUnit u).sticky = (curUnit s).sticky |||
          orFlags (((execLanes s).filter fun l => decide ((o false l).flags &&& en = 0)).map fun l => (o false l).flags)) ∧
      (d.isGroup = true → (o true 0).flags &&& en ≠ 0 → ∃ u r, exec i s = .next (raiseFault u s.cur.ctx s.cur.unit r) ∧
        r.cause = rank ((o true 0).flags &&& en) ∧ r.record.lanes = (curSlot s).mask ∧ r.record.off = s.cur.off ∧
        r.record.word = s.cur.word ∧ (∀ n, rdG (curUnit u) n = rdG (curUnit s) n) ∧
        (∀ k : Fin 4, rdGp (curUnit u) k.val = rdGp (curUnit s) k.val) ∧ (curUnit u).sticky = (curUnit s).sticky)
    traps (.fadd d a b) (isWide ty) (fun g l c => roundOut ty c (addNum c.rm (x g l) (y g l)).1 (addNum c.rm (x g l) (y g l)).2
      ((x g l).isInf || (y g l).isInf)) ∧
    traps (.fdiv d a b) (isWide ty) (fun g l c => roundOut ty c (divNum (x g l) (y g l)).1 (divNum (x g l) (y g l)).2
      ((x g l).isInf || (y g l).isInf)) ∧
    traps (.fcmplt d a b) false (fun g l _ =>
      ⟨resOf (bit64 (ltNum (x g l) (y g l))), if (x g l).isNan = true ∨ (y g l).isNan = true then fNV else 0, false⟩)

/-! ## Control -/

/-- Branches (07 R183; 17 R391 to R394): the conditional ones look at their predicate in the lanes of Exec(slot), or at a gp
bit; CALL and JMPG leave the next offset behind, JMPG after it has read its target; NOP and YIELD change nothing. -/
def Obligations.Branches : Prop :=
  ∀ (s : State) (k : Fin 8) (j : Fin 4) (n n' : Fin 64) (t : BitVec 20),
    let next := s.cur.off + 4
    let target := s.cur.off + 4 * t.signExtend 32
    let here (l : Nat) : Bool := decide (l ∈ execLanes s) && (rdP (curUnit s) k.val).getLsbD l
    let gp : Bool := rdGp (curUnit s) j.val
    let linked (n : Nat) : State := modCurUnit s fun u => wrG u n next
    Moves .nop s next ∧ Moves .yield s next ∧ Moves (.bra t) s target ∧
    ((∃ l, l < 32 ∧ here l = true) → Moves (.bany (.p k) t) s target) ∧
    ((∀ l, l < 32 → here l = false) → Moves (.bany (.p k) t) s next) ∧
    ((∀ l ∈ execLanes s, here l = true) → Moves (.ball (.p k) t) s target) ∧
    ((∃ l ∈ execLanes s, here l = false) → Moves (.ball (.p k) t) s next) ∧
    ((∀ l, l < 32 → here l = false) → Moves (.bnone (.p k) t) s target) ∧
    ((∃ l, l < 32 ∧ here l = true) → Moves (.bnone (.p k) t) s next) ∧
    Moves (.bany (.gp j) t) s (if gp = true then target else next) ∧
    Moves (.ball (.gp j) t) s (if gp = true then target else next) ∧
    Moves (.bnone (.gp j) t) s (if gp = true then next else target) ∧
    Moves (.ret (.g n)) s (rdG (curUnit s) n.val &&& 0xFFFFFFFC) ∧
    Moves (.jmpg .none (.g n)) s (rdG (curUnit s) n.val &&& 0xFFFFFFFC) ∧
    (Runs (.call t) s → Answers (.call t) s fun z => GoesTo (linked 63) z target) ∧
    (Runs (.jmpg (.g n') (.g n)) s → Answers (.jmpg (.g n') (.g n)) s fun z =>
      GoesTo (linked n'.val) z (rdG (curUnit s) n.val &&& 0xFFFFFFFC))

/-- Divergence (07 R184 to R188): SPLIT moves the lanes whose predicate holds to the other slot and pushes that slot if it is
occupied, into memory as well; JOIN merges with a slot at its offset, passes, lets the lower JOIN pass, or waits; EXIT empties its slot, which takes
the top of the stack; the unit is over when both slots and the stack are empty.
It rests on readings of the model: notes/assumptions 38 and 55. -/
def Obligations.Divergence : Prop :=
  ∀ (s : State) (k : Fin 8) (t : BitVec 20),
    let b := s.cur.slot
    let x := curSlot s
    let y := slotOf (curUnit s) (!b)
    let stack := (curUnit s).stack
    let m := execMask s &&& rdP (curUnit s) k.val
    let i : Instr := .split (.p k) t
    let other (y : Slot) (st : List Slot) : State := modCurUnit s fun u => { putSlot u (!b) y with stack := st }
    let split (y' : Slot) (st : List Slot) : State :=
      modCurUnit (if y.occ = true then hwWrite s (stackPa s s.cur.ctx s.cur.unit stack.length) (stackEntry y) else s)
        fun u => { putSlot u (!b) y' with stack := st }
    let moved : Slot := { occ := true, off := s.cur.off + 4 * t.signExtend 32, mask := m }
    let pushed : List Slot := if y.occ = true then y :: stack else stack
    let joined : Slot := { x with hold := .join }
    let gone (z : Slot) : Slot := { z with off := z.off + 4, hold := .none, waited := false, stage := 0 }
    x.off = s.cur.off → x.occ = true →
    (m = 0 → Moves i s (s.cur.off + 4)) ∧
    (m ≠ 0 → y.occ = true → 64 ≤ stack.length → Runs i s → chPos (noteOps s i) = 0 →
      ∃ u r, exec i s = .next (raiseFault u s.cur.ctx s.cur.unit r) ∧ r.cause = .stackOverflow ∧
        r.record.off = s.cur.off ∧ curSlot u = x ∧ slotOf (curUnit u) (!b) = y ∧ (curUnit u).stack = stack) ∧
    (m ≠ 0 → (y.occ = true → stack.length < 64) → Runs i s → Answers i s fun z =>
      if x.mask &&& ~~~ m = 0 then Rests (split moved pushed.tail) z (pushed.headD {})
      else Rests (split moved pushed) z { occ := true, off := s.cur.off + 4, mask := x.mask &&& ~~~ m }) ∧
    (y.occ = false → Moves .join s (s.cur.off + 4)) ∧
    (y.occ = true → y.off = x.off → joinable y = true → (y.hold = .join ∨ slotOpen (curUnit s) (!b) = false) →
      (stack.headD {}).hold ≠ .join → Runs .join s →
      Answers .join s fun z =>
        let v := modCurUnit s fun u => { u with
          s0 := { occ := true, off := x.off + 4, mask := x.mask ||| y.mask }, s1 := stack.headD {}, stack := stack.tail }
        Rests v z (curSlot v)) ∧
    (y.occ = true → y.hold = .join → x.off.toNat < y.off.toNat → x.off + 4 ≠ y.off → Moves .join s (s.cur.off + 4)) ∧
    (y.occ = true → y.hold = .join → y.off.toNat < x.off.toNat → Runs .join s → Answers .join s fun z =>
      Rests (other (gone y) stack) z joined) ∧
    (y.occ = true → y.hold ≠ .join → (y.off = x.off → joinable y = false ∨ slotOpen (curUnit s) (!b) = true) →
      Runs .join s → Answers .join s fun z => Rests s z joined) ∧
    (y.occ = true → Runs .exit s → Answers .exit s fun z =>
      Rests (other (if y.hold = .join then gone y else y) stack.tail) z (stack.headD {})) ∧
    (y.occ = false → stack = [] → Runs .exit s → Answers .exit s fun z =>
      (curUnit z).exited = true ∧ (curUnit z).s0.occ = false ∧ (curUnit z).s1.occ = false)

/-- Ferry barriers and hierarchical barriers (07 R189 to R194; 08 R228). A unit with nothing left to wait for, or one
that has arrived at the instance already, arrives: the instance records it, BAR, REPACK and HBAR hold their slot, BARA goes on, BARW waits for the instance at which the crew last
arrived; the last arrival closes the instance and releases every slot that waits on it. A ferry arrives at a hierarchical
barrier with its last crew. It rests on readings of the model: notes/assumptions 54. -/
def Obligations.Barriers : Prop :=
  ∀ (s : State) (n : BitVec 4) (a : Src) (l : BitVec 4) (d : Fin 64),
    let c := s.cur.ctx
    let f := (curUnit s).ferry
    let x := getBar s c f n.toNat
    let found : BarInst := x.inst.getD { num := x.opened + 1, expected := expectedAt s c f n.toNat, arrived := [] }
    let inst (plain : Bool) : BarInst := { found with
      arrived := addOnce found.arrived s.cur.unit
      plain := found.plain || (isCrew s.cur.unit && plain)
      repack := if plain = true then found.repack else some s.cur.off
      slots := if isCrew s.cur.unit = true then found.slots ++ [(s.cur.unit, barRecord s, (curUnit s).issued)] else found.slots }
    let recorded (i : BarInst) : State :=
      modCurUnit (putBar s c f n.toNat { opened := i.num, inst := some i }) fun u => { u with barAt := mset u.barAt n.toNat i.num }
    let free (repack : Option Word) : Prop :=
      (arriveNow s repack.isSome = true ∨ (repack = none ∧ hasArrived s c s.cur.unit n.toNat = true)) ∧
        anySlot (curUnit s) waitsRecord = false ∧
        (∀ b, b < 16 → b ≠ n.toNat → ∀ p, (getBar s c f b).inst = some p → instDone s c p = false) ∧
        coxFails s c s.cur.unit = false ∧
        arriveBad s c s.cur.unit n.toNat (match repack with | some o => .repack o | none => .plain) = false
    let waits (i : Instr) (p : BarInst) : Prop := instDone s c p = false → Holds i s (recorded p) (.barrier n.toNat p.num)
    let opens (i : Instr) (p : BarInst) : Prop :=
      instDone s c p = true → p.repack = none → p.failed = false → s.cur.unit ∈ ferryUnits s c f → (curSlot s).occ = true →
        (curSlot s).off = s.cur.off → Runs i s → Answers i s fun t =>
          getBar t c f n.toNat = { opened := p.num, inst := none } ∧ curSlot t = slotGone (curSlot s) (s.cur.off + 4) ∧
          ∀ u ∈ ferryUnits s c f, u ≠ s.cur.unit → ∀ b, (slotOf (getUnit s c u) b).occ = true →
            (slotOf (getUnit s c u) b).hold = .barrier n.toNat p.num →
              slotOf (getUnit t c u) b = passSlot (slotOf (getUnit s c u) b)
    let k := mgetD (curUnit s).barAt n.toNat 0
    let h := hbarOf s l.toNat n.toNat (gOf s a)
    let hold : Instr := .hbar a l n
    let counted : State := modFerry s c f fun fe => { fe with hcrews := fe.hcrews ++ [(h, s.cur.unit)] }
    let first : HArrival := ((getFerry s c f).hcrews.find? fun e => sameKey e.1 h).elim h Prod.fst
    let missing : Prop := ∃ u ∈ ferryUnits s c f, isCrew u = true ∧ goesOn s c u = true ∧ u ≠ s.cur.unit ∧
      ∀ e ∈ (getFerry s c f).hcrews, ¬ (sameKey e.1 h = true ∧ e.2 = u)
    (free none → waits (.bar n) (inst true) ∧ opens (.bar n) (inst true) ∧
      waits (.hbar a 0 n) (inst true) ∧ opens (.hbar a 0 n) (inst true) ∧
      (instDone s c (inst true) = false → Runs (.bara n) s → Answers (.bara n) s fun t =>
        GoesTo (recorded (inst true)) t (s.cur.off + 4))) ∧
    (free (some s.cur.off) → repackReady s = true → waits (.repack n) (inst false)) ∧
    (arriveBad s c s.cur.unit n.toNat .plain = false →
      (barOver x k = true → Moves (.barw n) s (s.cur.off + 4)) ∧
      (barOver x k = false → Holds (.barw n) s s (.barrier n.toNat k))) ∧
    (0 < l.toNat → hbarLost s h = false →
      (isCrew s.cur.unit = false →
        Holds hold s { s with pending := s.pending ++ [⟨s.now, .hbarArrival h⟩] } (.hbar h)) ∧
      (isCrew s.cur.unit = true → (getFerry s c f).hmade.any (sameKey h) = true → Holds hold s s (.hbar h)) ∧
      (isCrew s.cur.unit = true → (getFerry s c f).hmade.any (sameKey h) = false → arriveNow s false = true →
        (missing → Holds hold s counted (.hbar h)) ∧
        (¬ missing → Runs hold s → Answers hold s fun t =>
          curSlot t = { curSlot s with hold := .hbar h } ∧
            ⟨s.now, .hbarArrival { first with clock := (getCore s first.core).lc }⟩ ∈ t.pending))) ∧
    Makes (.exset a) s (modFerry s c f fun fe => { fe with bexp := gOf s a }) ∧
    (Runs (.exget (.g d)) s → Answers (.exget (.g d)) s fun t =>
      Computes s t (.g d) false fun _ _ => res32 (getFerry s c f).bexp.toNat)

/-- Waits, the mode register and planes (07 R199; 08 R225 to R227; 17 R395, R396): SLEEP of 0 and a WAITC whose count is met go
on; MODEA and MODEB replace one half of the mode; PLSET and PLSETP move lanes of Exec(slot) from the next offset on; PLOCC
answers the planes that the slot's lanes occupy. -/
def Obligations.WaitsModesAndPlanes : Prop :=
  ∀ (s : State) (n : Fin 64) (a : Src) (i8 : BitVec 8) (i16 : BitVec 16) (q : BitVec 3),
    let u := curUnit s
    let g := rdG u n.val
    let open8 : Nat := (u.flight.filter fun x => decide (i8.toNat ∈ x.paths)).length
    let planed (i : Instr) (f : Nat → Nat) : Prop := Runs i s → Answers i s fun t =>
      GoesTo (modCurUnit s fun z => { z with plane := (curUnit t).plane }) t (s.cur.off + 4) ∧
        ∀ l, l < 32 → lanePlane (curUnit t) l = f l
    (g = 0 → Moves (.sleep (.g n)) s (s.cur.off + 4)) ∧
    (g ≠ 0 → Holds (.sleep (.g n)) s
      { s with pending := s.pending ++ [⟨s.now + g.toNat, .sleepExpiry s.cur.ctx s.cur.unit s.cur.slot⟩] } (.sleep (s.now + g.toNat))) ∧
    (open8 ≤ g.toNat → Moves (.waitc (.g n) i8) s (s.cur.off + 4)) ∧
    (g.toNat < open8 → Holds (.waitc (.g n) i8) s s (.waitc i8.toNat g.toNat)) ∧
    Makes (.modea i16) s (modCurUnit s fun z => { z with mode := z.mode &&& 0xFFFF0000 ||| i16.setWidth 32 }) ∧
    Makes (.modeb i16) s (modCurUnit s fun z => { z with mode := z.mode &&& 0xFFFF ||| i16.setWidth 32 <<< 16 }) ∧
    (Runs (.modeg (.g n)) s → Answers (.modeg (.g n)) s fun t => Computes s t (.g n) false fun _ _ => res32 u.mode.toNat) ∧
    planed (.plset a) (fun l => if l ∈ execLanes s then (srcLane s a false l).toNat % 8 else lanePlane u l) ∧
    planed (.plsetp a q) (fun l =>
      if l ∈ execLanes s ∧ (srcLane s a false l).getLsbD 0 = true then q.toNat else lanePlane u l) ∧
    (∃ x : Nat, (Runs (.plocc (.g n)) s → Answers (.plocc (.g n)) s fun t => Computes s t (.g n) false fun _ _ => res32 x) ∧
      ∀ k, x.testBit k = (decide (k < 8) && (List.range 32).any fun l =>
        (curSlot s).mask.getLsbD l && decide (lanePlane u l % 8 = k)))

/-- The regroup of REPACK (08 R229): for each lane, the crews in ascending number take that lane's states in ascending order of
plane, those of one plane keeping the order of the crews; nothing is lost or made. -/
def Obligations.Regroup : Prop :=
  ∀ (ts : List (Nat × Thread)) (l : Nat),
    (laneOrder ts l).Perm (ts.map Prod.fst) ∧
    ((ts.map Prod.fst).Nodup →
      (laneOrder ts l).Pairwise fun u v => ∀ x y, (u, x) ∈ ts → (v, y) ∈ ts → lanePlane x l ≤ lanePlane y l) ∧
    ((ts.map Prod.fst).Pairwise (· < ·) →
      (laneOrder ts l).Pairwise fun u v => ∀ x y, (u, x) ∈ ts → (v, y) ∈ ts → lanePlane x l = lanePlane y l → u < v)

/-! ## Memory words -/

/-- Loads, stores and atomics on virtual addresses at issue (19 R437 to R446, R449; 07 R198). When no lane executes nothing
happens. When every lane's address passes the checks, its walks are over and its counters have room, one access sets out for
the lanes, with each lane's address, data and the physical address that its translation gives; its destination becomes pending,
and memory, registers and everything else stay. A non-canonical address, and a misaligned one of a strong access, fault every
lane that has it. The translations of a word change no other unit and no byte of memory, and nothing but translations and clocks
where no walk waits and no storage error is met. It rests on readings of the model: notes/assumptions 46 and 47. -/
def Obligations.VectorAccesses : Prop :=
  (∀ (s : State) (d : Dst) (x a b : Src) (o : BitVec 8),
    let n := tySize (curTy s)
    let wide := isWide (curTy s)
    let codes (d : Dst) : List Nat :=
      if d = .none then [] else if wide = true then [d.code.toNat, d.code.toNat + 1] else [d.code.toNat]
    let sends (i : Instr) (kind : AccKind) (grp release : Bool) (d : Dst) (as : List LaneAcc) : Prop :=
      let writes := kind.stores || kind.isAtomic
      let w := if s.cur.admitted = true then (none, s) else planWait s grp kind as release
      let z := noteOps w.2 i
      let q := xlatLanes s.cur.ctx s.cur.unit n { r := !kind.stores, w := writes } as z
      let ps := q.1.ok.flatMap fun e => e.2.map (pieceOf q.2 kind e.1)
      let nc := as.filter fun e => !canonAccess e.ea n
      let strong : Prop := kind ≠ .load ∧ kind ≠ .store
      let mis := as.filter fun e => decide (e.ea.toNat % n ≠ 0)
      (as = [] → Moves i s (s.cur.off + 4)) ∧
      (Runs i s → w.1 = none → as ≠ [] →
        (nc ≠ [] → Faults i s .addrNoncanon 0 (maskFor s (nc.map LaneAcc.lane)) (lowestAddr (nc.map LaneAcc.ea))) ∧
        (nc = [] → strong → mis ≠ [] → Faults i s .perm 3 (maskFor s (mis.map LaneAcc.lane)) (lowestAddr (mis.map LaneAcc.ea))) ∧
        (nc = [] → (strong → mis = []) →
          (∀ e ∈ as, kind = .load → isCrew s.cur.unit = true → haloRedirect (curCtx z) e.ea n = none) →
          (∀ e ∈ as, writes = true → isCrew s.cur.unit = true → haloForeign (curCtx z) (curCore z) e.ea n = false) →
          q.1.bad = [] → q.1.wait = false →
          farFault q.2 q.1.ok = none → (∀ e ∈ q.1.ok, ∀ p ∈ e.2, p.2.2.2.ace = false) →
          Answers i s fun t => Sends s q.2 t kind d.code.toNat (nub (ps.map fun p => memPath q.2 kind.stores p.pa)) ps (codes d)))
    let lane (grp : Bool) (l : Nat) : LaneAcc :=
      { lane := l, ea := srcIn s grp l a true + BitVec.ofInt 64 (sextN o.toNat 8 * (n : Nat)) }
    let loads (grp : Bool) : List LaneAcc := if grp = true then [lane true 32] else (execLanes s).map (lane false)
    let stores (grp : Bool) : List LaneAcc :=
      (loads grp).map fun e => { e with data := BitVec.ofNat 64 (srcTy s grp e.lane x (curTy s)) }
    let held (l : Nat) : Dword := match d with
      | .none => 0
      | _ => BitVec.ofNat 64 ((oldDst s d.isGroup l d wide).toNat % 2 ^ tyBits (curTy s))
    let atomic (l : Nat) : LaneAcc :=
      { lane := l, ea := srcIn s d.isGroup l a true, data := BitVec.ofNat 64 (srcTy s d.isGroup l b (curTy s)), cmp := held l }
    let atomics : List LaneAcc := if d.isGroup = true then [atomic 32] else (execLanes s).map atomic
    let sendsAtomic (i : Instr) (op : AtOp) : Prop := sends i (.atomic op) d.isGroup true d atomics
    let both : Bool := x.isG && a.isG
    sends (.ld d a o) .load d.isGroup false d (loads d.isGroup) ∧
    sends (.st x a o) .store both false .none (stores both) ∧
    sends (.ldacq d a o) .acquire d.isGroup false d (loads d.isGroup) ∧
    sends (.strel x a o) .release both true .none (stores both) ∧
    sendsAtomic (.atadd d a b) .add ∧ sendsAtomic (.atmin d a b) .min ∧ sendsAtomic (.atmax d a b) .max ∧
    sendsAtomic (.atand d a b) .and ∧ sendsAtomic (.ator d a b) .or ∧ sendsAtomic (.atxor d a b) .xor ∧
    sendsAtomic (.atxch d a b) .xch ∧ sendsAtomic (.atcas d a b) .cas) ∧
  (∀ (s : State) (c u n : Nat) (need : Need) (as : List LaneAcc),
    let q := xlatLanes c u n need as s
    let t := q.2
    (q.1.wait = false → s.errs = [] →
      t = { s with ctxs := t.ctxs, cores := t.cores, walkCache := t.walkCache, walkAsks := t.walkAsks }) ∧
    (∀ a, memByte t a = memByte s a) ∧ ∀ k l, k ≠ c ∨ l ≠ u → getUnit t k l = getUnit s k l)

/-- Local store and the cluster (19 R447, R448; 07 R201, R202): LDL reads the bank at issue and returns later; STL writes the
bank at issue, the highest lane standing where lanes overlap, after every lane has been checked; LDX and STX send an access to
the bank of another core, and act at issue on the crew's own bank. A misaligned lane is PERM with DETAIL 3, a lane outside the bank PERM with DETAIL 2.
It rests on readings of the model: notes/assumptions 41. -/
def Obligations.LocalStoreWords : Prop :=
  ∀ (s : State) (d : Dst) (x a : Src) (o : BitVec 8),
    let n := tySize (curTy s)
    let codes : List Nat := if isWide (curTy s) = true then [d.code.toNat, d.code.toNat + 1] else [d.code.toNat]
    let both : Bool := x.isG && a.isG
    let off : Int := sextN o.toNat 8 * (n : Nat)
    let at32 (grp : Bool) (l : Nat) : Dword := zext64 ((srcIn s grp l a false).setWidth 32 + BitVec.ofInt 32 off)
    let at64 (grp : Bool) (l : Nat) : Dword := srcIn s grp l a true + BitVec.ofInt 64 off
    let lanes (grp : Bool) (f : Bool → Nat → Dword) : List LaneAcc :=
      (if grp = true then [32] else execLanes s).map fun l => { lane := l, ea := f grp l }
    let stored (f : Bool → Nat → Dword) : List LaneAcc :=
      (lanes both f).map fun e => { e with data := BitVec.ofNat 64 (srcTy s both e.lane x (curTy s)) }
    let aligned (as : List LaneAcc) : Prop := ∀ e ∈ as, e.ea.toNat % n = 0
    let inside (as : List LaneAcc) : Prop := ∀ e ∈ as, e.ea.toNat + n ≤ 0x20000
    let mis (as : List LaneAcc) : List LaneAcc := as.filter fun e => decide (e.ea.toNat % n ≠ 0)
    let out (as : List LaneAcc) : List LaneAcc := as.filter fun e => decide (0x20000 < e.ea.toNat + n)
    let free (grp : Bool) (path : Nat) : Prop := s.cur.admitted = true ∨ accessWait s grp [path] false = (none, s)
    let read (as : List LaneAcc) : State := readOwn s n (as.map fun e => e.ea.toNat)
    let reach (kind : AccKind) (as : List LaneAcc) : List Piece × State :=
      clusterPieces kind n (as.filterMap fun e => (clusterCtx s e.ea n).map fun c => (e, c)) s
    let apart (as : List LaneAcc) : Prop := ∀ e ∈ as, clusterCtx s e.ea n ≠ some s.cur.ctx
    let refused (i : Instr) (as : List LaneAcc) : Prop :=
      mis as ≠ [] → Runs i s → Faults i s .perm 3 (maskFor s ((mis as).map LaneAcc.lane)) (lowestAddr ((mis as).map LaneAcc.ea))
    let toBank (e : LaneAcc) : Piece :=
      { lane := e.lane, served := .bank ((clusterCtx s e.ea n).getD 0), pa := e.ea.toNat % 2 ^ 17, va := e.ea, len := n, pos := 0,
        data := e.data }
    let l32 := lanes d.isGroup at32
    let l64 := lanes d.isGroup at64
    (free d.isGroup 0 → l32 ≠ [] → aligned l32 → inside l32 → Runs (.ldl d a o) s → Answers (.ldl d a o) s fun t =>
      Sends s (read l32) t .ldl d.code.toNat [0] (l32.map fun e => ownPiece (read l32) e.lane e.ea e.ea.toNat n) codes) ∧
    (free d.isGroup 0 → refused (.ldl d a o) l32) ∧
    (aligned (stored at32) → inside (stored at32) → Runs (.stl x a o) s → Answers (.stl x a o) s fun t =>
      let bank := getCtx t s.cur.ctx
      GoesTo (modCtx s s.cur.ctx fun c => { c with ls := bank.ls, lsPoison := bank.lsPoison, lsErr := bank.lsErr }) t (s.cur.off + 4) ∧
      ∀ y, lsByte bank y =
        match ((stored at32).filter fun e => decide (e.ea.toNat ≤ y) && decide (y < e.ea.toNat + n)).getLast? with
        | none => lsByte (curCtx s) y
        | some e => BitVec.ofNat 8 (e.data.toNat / 2 ^ (8 * (y - e.ea.toNat)))) ∧
    refused (.stl x a o) (stored at32) ∧
    (aligned (stored at32) → out (stored at32) ≠ [] → Runs (.stl x a o) s →
      Faults (.stl x a o) s .perm 2 (maskFor s ((out (stored at32)).map LaneAcc.lane)) (lowestAddr ((out (stored at32)).map LaneAcc.ea))) ∧
    (free d.isGroup 1 → l64 ≠ [] → aligned l64 → (∀ e ∈ l64, (clusterCtx s e.ea n).isSome = true) → Runs (.ldx d a o) s →
      Answers (.ldx d a o) s fun t => Sends s (reach .ldx l64).2 t .ldx d.code.toNat [1] (reach .ldx l64).1 codes) ∧
    (apart l64 → (∀ e ∈ l64, (clusterCtx s e.ea n).isSome = true) → reach .ldx l64 = (l64.map toBank, s)) ∧
    (free both 1 → stored at64 ≠ [] → aligned (stored at64) → (∀ e ∈ stored at64, (clusterCtx s e.ea n).isSome = true) →
      Runs (.stx x a o) s → Answers (.stx x a o) s fun t =>
        Sends s (reach .stx (stored at64)).2 t .stx 0x80 [1] (reach .stx (stored at64)).1 []) ∧
    (apart (stored at64) → (∀ e ∈ stored at64, (clusterCtx s e.ea n).isSome = true) →
      reach .stx (stored at64) = ((stored at64).map toBank, s)) ∧
    (free d.isGroup 1 → refused (.ldx d a o) l64) ∧ (free both 1 → refused (.stx x a o) (stored at64))

/-- Atomic operations (19 R449): what an atomic leaves at its address, given the old value and its operand at a type of 32 or 64
bits. Floating sums are rounded to nearest even in the type. -/
def Obligations.AtomicValues : Prop :=
  ∀ (ty old x y : Nat),
    let w := tyBits ty
    old < 2 ^ w → x < 2 ^ w →
    (isInt ty = true → atomicNew .add ty old x y = (old + x) % 2 ^ w) ∧
    (ty = 10 ∨ ty = 11 → ∀ n m e n' m' e', valOf ty true false old = .fin n m e → valOf ty true false x = .fin n' m' e' →
      atomicNew .add ty old x y = (roundNum ty ⟨0, false, true, false, 0⟩ (addNum 0 (.fin n m e) (.fin n' m' e')).1).bits) ∧
    intOf (isSigned ty) w (atomicNew .min ty old x y) = min (intOf (isSigned ty) w old) (intOf (isSigned ty) w x) ∧
    intOf (isSigned ty) w (atomicNew .max ty old x y) = max (intOf (isSigned ty) w old) (intOf (isSigned ty) w x) ∧
    (∀ i, (atomicNew .and ty old x y).testBit i = (old.testBit i && x.testBit i)) ∧
    (∀ i, (atomicNew .or ty old x y).testBit i = (old.testBit i || x.testBit i)) ∧
    (∀ i, (atomicNew .xor ty old x y).testBit i = (old.testBit i != x.testBit i)) ∧
    atomicNew .xch ty old x y = x ∧ atomicNew .cas ty old x old = x ∧ (y ≠ old → atomicNew .cas ty old x y = old)

/-- How an access ends (07 R198; 19 R442, R443, R447). A load whose parts have all come writes each lane's destination, in the
register form of its type, clears the marks of those lanes, and leaves the counters in issue order; a store to another bank
writes the bytes there. -/
def Obligations.AccessesEnd : Prop :=
  ∀ (s : State) (r : AccRef) (a : Access),
    let u := getUnit s r.ctx r.unit
    let bits (l : Nat) : Dword := regForm a.ty (laneValue a l)
    getAcc s r = some a → a.done = false → (u.flight.map Access.id).Nodup →
    (returnsValue a = true → a.pieces.all (fun p => p.done && p.failed.isNone) = true → a.kind ≠ .release → a.dst < 0x80 →
      (∀ p ∈ a.pieces, p.lane < 32) → Answers (.loadDataReturn r) s fun t =>
        let v := getUnit t r.ctx r.unit
        (∀ n l, l < 32 → rdV v n l =
          if l ∈ accLanes a ∧ n = a.dst then (bits l).extractLsb' 0 32
          else if l ∈ accLanes a ∧ isWide a.ty = true ∧ n = a.dst + 1 then (bits l).extractLsb' 32 32
          else rdV u n l) ∧
        (∀ l ∈ accLanes a, (mgetD v.vpend a.dst 0).getLsbD l = false) ∧ v.g = u.g ∧ v.p = u.p ∧ v.q = u.q ∧
        (∀ b, b ∈ v.flight → b.id = a.id → b.done = true) ∧ (∀ y, memByte t y = memByte s y)) ∧
    (∀ (p : Piece) (c : Nat), a.kind = .stx → a.pieces = [p] → p.served = .bank c → p.done = false → p.failed = none →
      heldBack s u a p = false → Answers (.storeComplete r) s fun t =>
        (∀ y, lsByte (getCtx t c) y =
          if p.pa ≤ y ∧ y < p.pa + p.len then BitVec.ofNat 8 (p.data.toNat / 2 ^ (8 * p.pos) / 2 ^ (8 * (y - p.pa)))
          else lsByte (getCtx s c) y) ∧
        (∀ b, b ∈ (getUnit t r.ctx r.unit).flight → b.id = a.id → b.done = true) ∧ (∀ y, memByte t y = memByte s y))

/-- FENCE and the hints (19 R452, R453; 09 R260, R261). FENCE goes on when no access of the unit is open and its release
conditions hold; else it waits for those accesses. PREF and RESID never fault: they complete whatever their addresses are, and
a lane whose address has no translation only counts as dropped, one whose walk waits goes on later, and a line that the die's
L2 serves already is not asked for. -/
def Obligations.FencesAndHints : Prop :=
  ∀ (s : State) (m : BitVec 5) (a : Src) (o : BitVec 8),
    let u := curUnit s
    let waiting : List Nat := (u.flight.filter fun x => !x.done && x.paths.any fun p => decide (p < 5)).map Access.id
    (waiting = [] → (m.getLsbD 2 = true → dirtyLines s (curCore s) = []) → (m.getLsbD 3 = true → u.invs = []) →
      Moves (.fence m) s (s.cur.off + 4)) ∧
    (s.cur.admitted = false → waiting ≠ [] → (curSlot s).stage = 0 → Holds (.fence m) s s (.release waiting)) ∧
    (s.cur.admitted = false → waiting = [] ∨ (curSlot s).stage = 1 → (curSlot s).stage < 2 → m.getLsbD 2 = false → m.getLsbD 3 = true →
      u.invs ≠ [] → Holds (.fence m) s s (.settle [] u.invs)) ∧
    (2 ≤ (curSlot s).stage → Moves (.fence m) s (s.cur.off + 4)) ∧
    (let lanes : List LaneAcc := (execLanes s).map fun l => { lane := l, ea := vaOf s false l a o }
     (∀ e ∈ lanes, canonAccess e.ea (tySize (curTy s)) = false) →
       Makes (.pref a o) s (dropHints s s.cur.ctx lanes.length) ∧ Makes (.resid a o) s (dropHints s s.cur.ctx lanes.length)) ∧
    (let hints (resid : Bool) (z : State) : State :=
       let as := loadLanes z false a o
       let r := hintLines z.cur.ctx z.cur.unit (tySize (curTy z)) as z
       deferHint (r.1.foldl (fun z e => if resid = true then residLine z z.cur.ctx e.2 else prefLine z z.cur.ctx e.1) r.2.2)
         z.cur.ctx z.cur.unit (tySize (curTy z)) resid r.2.1
     Does (.pref a o) s (hints false) ∧ Does (.resid a o) s (hints true)) ∧
    (∀ (c : Nat) (x : Xlat), x.kind ≠ 2 ∨ x.ace = false → residLine s c x = s) ∧
    (∀ (c line : Nat), (getL2 s (dieOf (ctxCore (getCtx s c))) line).any
        (fun x => l2Serves s x line (clk s (ctxCore (getCtx s c)))) = true → prefLine s c line = s)

/-! ## Landing names -/

/-- Mints (11 R283): with room and a reachable storer, every binding takes a free entry, which becomes LIVE with the binding,
the class, a nonce and the deadline; the bound register becomes pending and loses its RCL mark; the name goes to the
destination at once. A storer without a session is PEER_LOST; without room the slot waits; no lane, no effect.
It rests on readings of the model: notes/assumptions 120. -/
def Obligations.Mints : Prop :=
  ∀ (s : State) (k : Fin 64) (bound g : Src) (v : Fin 128),
    let core := (curCtx s).home
    let ctl := (srcGroup s g false).toNat % 2 ^ 32
    let pair : Bool := ctl.testBit 2
    let time : Nat := 18000 * 10 ^ (ctl % 4)
    let storer : Option Nat := if ctl.testBit 3 = true then some (ctl / 16 % 128) else none
    let lost : Prop := ∃ e, storer = some e ∧ e ≠ ownEp s ∧ sessLive s e = false
    let room (n : Nat) : Prop := mintRoom s core s.cur.ctx n = true
    let entry (t : State) (name : Dword) (lane width : Nat) : Prop :=
      (getEntry s core (nmEntry name)).state ≠ .live ∧
      getEntry t core (nmEntry name) =
        { state := .live, ctx := s.cur.ctx, unit := s.cur.unit, lane := lane, reg := bound.code.toNat, width := width
          nonce := nmNonce name, cls := (curCtx s).cls, deadline := s.now + time, expected := storer } ∧
      nmWidth name = width ∧ ⟨s.now + time, .nameDeadline core (nmEntry name) (nmNonce name)⟩ ∈ t.pending
    let marked (t : State) (lanes : Mask) : Prop := ∀ c, c = bound.code.toNat ∨ (pair = true ∧ c = bound.code.toNat + 1) →
      (c < 0x80 → ∀ l, l < 32 → lanes.getLsbD l = true →
        (mgetD (curUnit t).vpend c 0).getLsbD l = true ∧ (mgetD (curUnit t).vrcl c 0).getLsbD l = false) ∧
      (0xC0 ≤ c → mgetD (curUnit t).gpend (c - 0xC0) false = true ∧ mgetD (curUnit t).grcl (c - 0xC0) false = false)
    let stays (t : State) : Prop := SlotAt s t (s.cur.off + 4) ∧ (∀ a, memByte t a = memByte s a) ∧
      (curUnit t).p = (curUnit s).p ∧ (curUnit t).q = (curUnit s).q ∧ flightOf (curUnit t) = flightOf (curUnit s)
    let one (i : Instr) (width : Nat) (lanes : Mask) : Prop := Runs i s →
      (lost → Faults i s .peerLost 0 (curSlot s).mask 0) ∧
      (¬ lost → room 1 → Answers i s fun t =>
        entry t (held (curUnit t) (.g k) true 0) 0 width ∧ marked t lanes ∧ stays t ∧ (curUnit t).v = (curUnit s).v ∧
        ∀ n, ¬ namesG (.g k) true n → rdG (curUnit t) n = rdG (curUnit s) n) ∧
      (s.cur.admitted = false → ¬ lost → ¬ room 1 → Answers i s fun t => (curSlot t).hold = .mint 1 ∧ t.cores = s.cores ∧ (curUnit t).g = (curUnit s).g)
    let lanes := execLanes s
    let i : Instr := .lmint (.v v) bound g
    one (.lmintc (.g k) bound g) (if pair = true then 5 else 4) 0xFFFFFFFF ∧
    one (.lmintg (.g k) bound g) (if pair = true then 3 else 2) 0 ∧
    (lanes = [] → Moves i s (s.cur.off + 4)) ∧
    (lanes ≠ [] → lost → Runs i s → Faults i s .peerLost 0 (execMask s) 0) ∧
    (lanes ≠ [] → ¬ lost → room lanes.length → Runs i s → Answers i s fun t =>
      (∀ l ∈ lanes, entry t (held (curUnit t) (.v v) true l) l (if pair = true then 1 else 0)) ∧ marked t (execMask s) ∧
      (∀ l ∈ lanes, ∀ l' ∈ lanes, l < l' →
        nmEntry (held (curUnit t) (.v v) true l) < nmEntry (held (curUnit t) (.v v) true l')) ∧
      stays t ∧ (curUnit t).g = (curUnit s).g) ∧
    (s.cur.admitted = false → lanes ≠ [] → ¬ lost → ¬ room lanes.length → Runs i s → Answers i s fun t =>
      (curSlot t).hold = .mint lanes.length ∧ t.cores = s.cores ∧ (curUnit t).v = (curUnit s).v)

/-- The other landing words (11 R285, R288, R289, R291, R292). LSTO sends each store whose name is well formed, reachable and of
its width, lanes that name one entry in turn; LREQ sends its requests to the home of their addresses; LDROP reclaims a live
name of its own context and faults LN_FOREIGN for another's, PEER_LOST for one of a lost cell; LSTAT reads the marks of a register in the lanes that count;
LWAIT holds the slot while the register is pending. It rests on readings of the model: notes/assumptions 48. -/
def Obligations.LandingWords : Prop :=
  ∀ (s : State) (a b : Src) (k : Fin 64),
    let names : List (Nat × Dword) :=
      if a.isG = true then [(32, srcGroup s a true)] else (execLanes s).map fun l => (l, srcLane s a true l)
    let code := a.code.toNat
    let pend : Bool := isPend (curUnit s) code (execMask s)
    let rests (t : State) : Prop := SlotAt s t (s.cur.off + 4) ∧ (curUnit t).v = (curUnit s).v ∧ (curUnit t).g = (curUnit s).g ∧
      (curUnit t).p = (curUnit s).p ∧ (curUnit t).q = (curUnit s).q ∧ ∀ x, memByte t x = memByte s x
    let reqs := lreqLanes s a b
    let w := if s.cur.admitted = true then (none, s) else lreqWait a b s
    let z := noteOps w.2 (.lreq a b)
    let q := lreqXlat s.cur.ctx s.cur.unit reqs z
    (s.cur.admitted = true ∨ accessWait s a.isG [4] true = (none, s) → Runs (.lsto a b) s → Answers (.lsto a b) s fun t =>
      rests t ∧ (lstoStores s a b ≠ [] → (curUnit t).nextAcc = (curUnit s).nextAcc + 1) ∧
      ∀ pre e post, lstoStores s a b = pre ++ e :: post → storerCheck s e.2.name e.2.width = none → nmEp e.2.name = ownEp s →
        (∀ x ∈ pre, sameEntry x.2.name e.2.name = false) → ⟨s.now, .landingStore e.2⟩ ∈ t.pending) ∧
    (w.1 = none → reqs ≠ [] →
      (∀ x ∈ reqs, canonAccess x.ea x.size = true ∧ x.ea.toNat % x.size = 0 ∧ nameCheck q.2.2 x.name = none) →
      q.1.length = reqs.length → q.2.1 = [] →
      (∀ e ∈ q.1, farBad q.2.2 e.2 e.1.ea = none ∧ e.2.ace = false) → Runs (.lreq a b) s → Answers (.lreq a b) s fun t =>
      rests t ∧ (curUnit t).nextAcc = (curUnit s).nextAcc + 1 ∧
      ∀ e ∈ q.1, ownLine s (xlatPa e.2 e.1.ea / 128) = true →
        ⟨s.now, .lreqRead ⟨xlatPa e.2 e.1.ea, e.1.size, e.1.name, (curCtx s).cls,
          .unit ⟨s.cur.ctx, s.cur.unit, (curUnit s).nextAcc⟩ e.1.lane⟩⟩ ∈ t.pending) ∧
    ((∀ e ∈ names, dropBad s e.2 = false ∧ ¬ ((getEntry s (nmCore e.2) (nmEntry e.2)).state = .live ∧
        (getEntry s (nmCore e.2) (nmEntry e.2)).nonce = nmNonce e.2)) → Moves (.ldrop a) s (s.cur.off + 4)) ∧
    (∀ n, names = [(32, n)] → dropBad s n = false → (getEntry s (nmCore n) (nmEntry n)).state = .live →
      (getEntry s (nmCore n) (nmEntry n)).nonce = nmNonce n → Runs (.ldrop a) s → Answers (.ldrop a) s fun t =>
        SlotAt s t (s.cur.off + 4) ∧
        getEntry t (nmCore n) (nmEntry n) = { getEntry s (nmCore n) (nmEntry n) with state := .reclaimed, ended := s.now + 1 } ∧
        ∀ c e, c ≠ nmCore n ∨ e ≠ nmEntry n → getEntry t c e = getEntry s c e) ∧
    (∀ e more, names.filter (fun e => dropBad s e.2) = e :: more → Runs (.ldrop a) s →
      ∃ u f, exec (.ldrop a) s = .next (raiseFault u s.cur.ctx s.cur.unit f) ∧ f.cause = dropCause s e.2 ∧
        (f.cause = if nmMalformed e.2 = false ∧ nmEp e.2 ≠ ownEp s ∧ epLost s (nmEp e.2) = true then .peerLost else .lnForeign)) ∧
    (Runs (.lstat (.g k) a) s → Answers (.lstat (.g k) a) s fun t => Computes s t (.g k) false fun _ _ =>
      res32 ((if pend = true then 1 else 0) + (if isRcl (curUnit s) code (execMask s) = true then 2 else 0))) ∧
    (pend = false → Moves (.lwait a) s (s.cur.off + 4)) ∧ (pend = true → Holds (.lwait a) s s (.lwait code))

/-- A landing store at the core that its name names (11 R277, R280, R286, R288). A live entry whose nonce, class and width agree
takes the data, and so does one that was reclaimed in this very cycle (R293): the bound registers hold it, they are no longer
pending, the entry is SPENT, and a clock that comes with the store raises the core's. Any other store changes nothing and reports why. -/
def Obligations.LandingDelivery : Prop :=
  ∀ (s : State) (m : LandMsg),
    let core := nmCore m.name
    let e := getEntry s core (nmEntry m.name)
    let r := landAt s m
    let u := getUnit r.1 e.ctx e.unit
    let el (k : Nat) : Word := BitVec.ofNat 32 (leNat ((m.data.drop (4 * k)).take 4))
    let fits : Prop := m.cls = e.cls ∧ nmWidth m.name = e.width
    let mine : Prop := e.nonce = nmNonce m.name
    (e.state = .free → r = (s, some .lnStale)) ∧
    (e.state ≠ .free → ¬ fits → r = (s, some .lnForeign)) ∧
    (e.state = .reclaimed → e.ended ≠ s.now + 1 → fits → mine → r = (s, some .lnStale)) ∧
    (e.state ≠ .free → fits → (mine → e.state = .spent) → r = (s, some .lnSecondUse)) ∧
    (e.state = .live ∨ e.state = .reclaimed ∧ e.ended = s.now + 1 → fits → mine → r.2 = none ∧
      getEntry r.1 core (nmEntry m.name) = { e with state := .spent } ∧
      (∀ c k, c ≠ core ∨ k ≠ nmEntry m.name → getEntry r.1 c k = getEntry s c k) ∧
      (∀ t, m.clock = some t → clk r.1 core = stampMax (clk s core) t) ∧
      (e.reg < 0x7F → e.width = 0 → e.lane < 32 → rdV u e.reg e.lane = el 0 ∧ (mgetD u.vpend e.reg 0).getLsbD e.lane = false) ∧
      (e.reg < 0x7F → e.width = 1 → e.lane < 32 → rdV u e.reg e.lane = el 0 ∧ rdV u (e.reg + 1) e.lane = el 1) ∧
      (0xC0 ≤ e.reg → e.width = 2 → rdG u (e.reg - 0xC0) = el 0 ∧ mgetD u.gpend (e.reg - 0xC0) false = false) ∧
      (0xC0 ≤ e.reg → e.width = 3 → rdG u (e.reg - 0xC0) = el 0 ∧ rdG u (e.reg - 0xC0 + 1) = el 1) ∧
      (e.reg < 0x7F → e.width = 4 → ∀ l, l < 32 → rdV u e.reg l = el l ∧ (mgetD u.vpend e.reg 0).getLsbD l = false) ∧
      (e.reg < 0x7F → e.width = 5 → ∀ l, l < 32 → rdV u e.reg l = el (2 * l) ∧ rdV u (e.reg + 1) l = el (2 * l + 1)) ∧
      ∀ a, memByte r.1 a = memByte s a)

/-! ## The carter -/

/-- Copies (20 R459 to R465). CPY and CPYT read their descriptor, CPYRES takes a suspended copy out of its slot: a valid copy of
at least one element joins the carter's copies and starts when the carter's earlier accesses have completed; an empty one, an
invalid one and a bad slot only deliver their status. A ninth copy waits, and so does one whose descriptor or destination's
walk is not at hand.
It rests on readings of the model: notes/assumptions 64, 65 and 69. -/
def Obligations.CopyWords : Prop :=
  ∀ (s s' z : State) (a b : Src) (desc : List Byte),
    let first : Prop := s.cur.admitted = false
    let after (w : Option Hold × State) : Option Hold × State := if s.cur.admitted = true then (none, s) else w
    let off := (gOf s a).toNat % 2 ^ 17
    let name := ggOf s b
    let named : Prop := engineNameFault s name true [2, 3] = none
    let room : Prop := (curUnit s).copies.length < 8
    let cpy : Instr := .cpy a b
    let cpyt : Instr := .cpyt a b
    let res : Instr := .cpyres a b
    let z' := noteOps s res
    let slot := (gOf s a).toNat % 4
    let only (k : Copy) (z t : State) : Prop :=
      (curUnit t).copies = (curUnit z).copies ++
        [{ k with
          id := (curUnit z).nextCopy, word := z.cur.word, off := z.cur.off
          waits := ((curUnit z).flight.filter fun x => !x.done && x.paths.any fun p => decide (p < 5)).map Access.id
          segs := k.cut (dimsCount k.dims + 1) 0
          wins := copyWins z (curCtx z) { k with word := z.cur.word, off := z.cur.off, segs := k.cut (dimsCount k.dims + 1) 0 } }] ∧
      (curUnit t).g = (curUnit z).g ∧ ⟨z.now + 1, .copySegmentIssue z.cur.ctx z.cur.unit (curUnit z).nextCopy⟩ ∈ t.pending
    (first → ¬ room → Runs cpy s → Answers cpy s fun t => (curSlot t).hold = .busy ∧ (curUnit t).copies = (curUnit s).copies) ∧
    (first → ¬ room → Holds cpyt s s .busy) ∧ (first → ¬ room → Holds res s s .busy) ∧
    (after (cpyWait a b s) = (none, s') → engineNameFault s' (ggOf s' b) true [2, 3] = none →
      issueRead (noteOps s' cpy) (ggOf s' a) 32 = (.got desc, z) →
        Makes cpy s (beginCopy z (cpyOf desc).1 (cpyOf desc).2 (ggOf s' b))) ∧
    (after (cpytWait a b s) = (none, s') → engineNameFault s' (ggOf s' b) true [2, 3] = none →
      (let z := readLs (noteOps s' cpyt) s.cur.ctx off (cpytLen s' off)
       bankRead z off 32 (cpytLen z off) = .inl desc → Makes cpyt s (beginCopy z (cpytOf desc).1 (cpytOf desc).2 (ggOf s' b)))) ∧
    (∀ (k : Copy) (bad : Bool), k.name = name →
      (bad = true ∨ copyBad z (curCtx z).asid { k with word := z.cur.word, off := z.cur.off } = true →
        beginCopy z k bad name = copyStatus z z.cur.ctx z.cur.unit name z.cur.word (some 7) none 0 0) ∧
      (bad = false → copyBad z (curCtx z).asid { k with word := z.cur.word, off := z.cur.off } = false → dimsCount k.dims = 0 →
        beginCopy z k bad name = copyStatus z z.cur.ctx z.cur.unit name z.cur.word none none 0 0) ∧
      (bad = false → copyBad z (curCtx z).asid { k with word := z.cur.word, off := z.cur.off } = false → dimsCount k.dims ≠ 0 →
        only k z (beginCopy z k bad name))) ∧
    (room → named → ((gOf s a).toNat / 4 % 64 ≠ 0 ∨ 512 ≤ (gOf s a).toNat) →
      Does res s fun z => copyStatus z z.cur.ctx z.cur.unit name z.cur.word (some 7) none 0 0) ∧
    (room → named → (gOf s a).toNat / 4 % 64 = 0 → (gOf s a).toNat < 512 →
      (mget? (curUnit s).susp slot = none →
        Does res s fun z => copyStatus z z.cur.ctx z.cur.unit name z.cur.word (some 9) none 0 0) ∧
      (∀ k, mget? (curUnit s).susp slot = some k →
        let free := modCurUnit z' fun u => { u with susp := mdel u.susp slot }
        ((gOf s a).toNat.testBit 8 = true →
          Makes res s (copyStatus free z'.cur.ctx z'.cur.unit name z'.cur.word none none k.performed 0)) ∧
        ((gOf s a).toNat.testBit 8 = false → Makes res s (startCopy free
          { k with word := z'.cur.word, off := z'.cur.off, name := name, stopped := false, resumed := true }))))

/-- The segments of a copy (20 R460, R462): they take its elements in order, none left out and none twice; the destination bytes
of a segment follow each other, and do not pass a 4 KiB boundary unless it is of one element. -/
def Obligations.CopySegments : Prop :=
  ∀ (k : Copy) (fuel : Nat),
    let n := dimsCount k.dims
    let gs := k.cut fuel 0
    n < fuel → 0 < k.esz → (∀ d ∈ k.dims, 0 < d.count) → k.dims ≠ [] →
      (gs.map Seg.len).sum = n ∧
      (∀ i g, gs[i]? = some g → g.first = ((gs.take i).map Seg.len).sum ∧ 0 < g.len ∧ g.dst0 = k.dstAt g.first ∧
        (∀ j, j < g.len → k.dstAt (g.first + j) = g.dst0 + j * k.esz) ∧
        (g.len = 1 ∨ g.dst0 % 4096 + g.len * k.esz ≤ 4096))

/-- Windows, halos and replica hints (09 R256 to R261; 20 R466 to R469). The words complete whatever their outcome and write its
code into their g register: SHOPEN and SHDISC refuse a window that is not the context's or stands wrongly with 1, 2 or 3; PUBL
reports through its name, or waits for the copies into the shadow; HALO declares or removes a region; HALOP starts pushes;
REPLH only asks, and counts a hint that is dropped. It rests on readings of the model: notes/assumptions 67. -/
def Obligations.WindowsAndHalos : Prop :=
  ∀ (s : State) (d : Fin 64) (a b : Src) (blk : List Byte),
    let g := (gOf s a).toNat
    let wid := g % 65536
    let e := winEntry s wid
    let mine : Nat := if 65536 ≤ g ∨ (fieldB e 0x1C 1).testBit 0 = false then 1 else if fieldB e 0x16 2 ≠ (curCtx s).asid then 2 else 0
    let isOpen : Bool := (fieldB e 0x1C 1).testBit 2
    let busy : Prop := (fieldB e 0x1C 1).testBit 3 = true ∨ ∃ p ∈ s.publs, p.wid = wid
    let noted (i : Instr) : State := noteOps s i
    let first (w : Option Hold × State) : Option Hold × State := if s.cur.admitted = true then (none, s) else w
    let tells (i : Instr) (u : State) (code : Nat) : Prop :=
      Makes i s (modCurUnit u fun t => { wrG t d.val (BitVec.ofNat 32 code) with grcl := mput t.grcl false d.val false })
    let opens : Instr := .shopen (.g d) a
    let drops : Instr := .shdisc (.g d) a
    let publ : Instr := .publ a b
    let halo : Instr := .halo (.g d) a
    let name := ggOf s b
    let core := ctxCore (curCtx s)
    let read : State := readLs (noted halo) s.cur.ctx (g % 2 ^ 17) 64
    let z := noteOps (first (replhWait a s)).2 (.replh a)
    let refuses : Nat := if mine ≠ 0 then mine else if isOpen = false ∨ busy ∨ wid ∈ s.winFaulted then 3 else 0
    (mine ≠ 0 → tells opens (noted opens) mine ∧ tells drops (noted drops) mine) ∧
    (mine = 0 → (isOpen = true ∨ busy) → tells opens (noted opens) 3) ∧
    (mine = 0 → isOpen = false → ¬ busy →
      tells opens { winFlagSet (noted opens) wid 2 true with winFaulted := s.winFaulted.erase wid, winTime := mdel s.winTime wid } 0) ∧
    (mine = 0 → (isOpen = false ∨ busy) → tells drops (noted drops) 3) ∧
    (mine = 0 → isOpen = true → ¬ busy →
      tells drops (discardCopies { winFlagSet (noted drops) wid 2 false with winFaulted := s.winFaulted.erase wid } wid) 0) ∧
    (engineNameFault s name false [2] = none → refuses ≠ 0 → Does publ s fun z =>
      deliverStatus z z.cur.ctx z.cur.unit name z.cur.word (statusEngine false refuses) 0) ∧
    (engineNameFault s name false [2] = none → refuses = 0 → Does publ s fun z =>
      post { z with publs := z.publs ++ [{ wid := wid, ctx := z.cur.ctx, unit := z.cur.unit, name := name, word := z.cur.word,
                                           waits := shadowCopies z wid }] } 1 (.publComplete wid)) ∧
    (haloDesc read a = (.inl blk, true) → (mget? (curCtx s).halos (haloOf blk).base).isNone = true → tells halo read 7) ∧
    (haloDesc read a = (.inl blk, true) → (mget? (curCtx s).halos (haloOf blk).base).isSome = true →
      tells halo (modCtx read s.cur.ctx fun x => { x with halos := mdel x.halos (haloOf blk).base }) 0) ∧
    (first (haloWait a s) = (none, s) → haloDesc read a = (.inl blk, false) → haloCode (curCtx s) core blk ≠ 0 →
      tells halo read (haloCode (curCtx s) core blk)) ∧
    (∀ z asks, haloDesc read a = (.inl blk, false) → haloCode (curCtx s) core blk = 0 → first (haloWait a s) = (none, s) →
      fillFrame s.cur.ctx (haloOf blk) (((haloOf blk).tileOf core).getD 0) ((haloOf blk).frameElems (((haloOf blk).tileOf core).getD 0))
        read (fillAsks read) = (.done, asks, z) →
      tells halo (modCtx z s.cur.ctx fun x =>
        { x with halos := mset x.halos (haloOf blk).base { desc := blk, tile := ((haloOf blk).tileOf core).getD 0 } }) 0) ∧
    Does .halop s (fun z => startPushes z z.cur.ctx z.cur.unit z.cur.word) ∧
    (canonical (ggOf s a) = false → Makes (.replh a) s (dropHints s s.cur.ctx 1)) ∧
    ((first (replhWait a s)).1 = none → (askReplica z (ggOf z a)).cur.stay = false →
      Makes (.replh a) s (askReplica z (ggOf z a)))

/-! ## The cox -/

/-- The cox's words at issue (12 R299 to R317; 20 R457, R470): FMTB takes a legal format block; ACZ zeroes a tile of the type in
force; ACCHK answers the state word and sets the policy; FINJ flips bits of one element; MMA, MMAS, ACLD, ACST and ACCVT queue a
command with what it reads at issue; MILL queues a job at its stack, and waits behind four of its cox and under throttling. A word whose tile an earlier command names
waits.
It rests on readings of the model: notes/assumptions 71. -/
def Obligations.MatrixWords : Prop :=
  ∀ (s : State) (k : Fin 8) (d : Fin 64) (a b : Src) (blk : List Byte),
    let n := k.val
    let x := (curUnit s).cox
    let tile := (curFerry s).accTiles.getD n 0
    let acct := (x.fmt.map fbAcct).getD 0
    let ty := tileTy s tile
    let free (t : Nat) : Prop := s.cur.admitted = true ∨ (tileWait n (fun _ => t) s).1 = none
    let waits (i : Instr) (t : Nat) : Prop := ¬ free t → Holds i s s (.drain [])
    let mill : Instr := .mill a
    let m := if s.cur.admitted = true then (none, s) else millWait a s
    let acz : Instr := .acz (.acc k)
    let mma : Instr := .mma (.acc k) a b
    let mmas : Instr := .mmas (.acc k) a b
    let acld : Instr := .acld (.acc k) a
    let acst : Instr := .acst (.acc k) a b
    let accvt : Instr := .accvt (.acc k) a b
    let finj : Instr := .finj (.acc k) a b
    let inj := (gOf s a).toNat
    let el := 64 * (inj / 256 % 64) + inj % 64
    let queued (i : Instr) (z : State) (c : CoxCmd) : Prop := Runs i s → Answers i s fun t =>
      GoesTo (queueCmd (touchTile z n) c) t (s.cur.off + 4) ∧ (curUnit t).cox.cmds = x.cmds ++ [c]
    let block : State := readLs (noteOps s (.fmtb a)) s.cur.ctx (gOf s a).toNat 32
    let scales (i : Instr) (f : List Byte) (off len : Nat) : State :=
      readLs (readLs (readLs (noteOps s i) s.cur.ctx (fbScale f false) (scaleBytes f false)) s.cur.ctx (fbScale f true)
        (scaleBytes f true)) s.cur.ctx off len
    let cmd : CoxCmd :=
      { op := (s.cur.word.extractLsb' 24 8).toNat, tile := tile, a := 0, b := 0, name := 0, word := s.cur.word, off := s.cur.off
        fmt := x.fmt.getD [], scaleA := [], scaleB := [], zmap := [], policy := x.policy, tie := x.tie, age := s.now }
    let policy := (gOf s a).toNat % 4
    let tgt := (gOf s a).toNat / 2 ^ 19 % 32
    (bankRead block (gOf s a).toNat 32 32 = .inl blk → fmtBad blk = false →
      Makes (.fmtb a) s (modCurUnit block fun u => { u with cox := { u.cox with fmt := some blk } })) ∧
    (bankRead block (gOf s a).toNat 32 32 = .inl blk → fmtBad blk = true → Runs (.fmtb a) s →
      Faults (.fmtb a) s .illegal 1 (curSlot s).mask 0) ∧
    waits acz acct ∧ waits mma acct ∧ waits mmas acct ∧ waits acld acct ∧ waits acst ty ∧ waits accvt ty ∧ waits finj ty ∧
    (free acct → x.fmt.isSome = true → pairBad s n acct = false →
      Does acz s fun z => putTile z z.cur.ctx tile { ty := acct, kept := decide (x.policy ≠ 2) }) ∧
    (policy ≠ 3 → Makes (.acchk (.g d) a) s
      (let z := noteOps s (.acchk (.g d) a)
       let z := if policy = 2 then endKeeping z else z
       let z := modCurUnit z fun u => { u with cox := { u.cox with
         policy := policy, tie := (gOf s a).getLsbD 2, flags := if (gOf s a).getLsbD 8 = true then 0 else x.flags } }
       modCurUnit z fun u => { wrG u d.val (BitVec.ofNat 32 (x.policy + (if x.tie = true then 4 else 0) + x.flags.toNat * 512)) with
         grcl := mput u.grcl false d.val false })) ∧
    (policy = 3 → Runs (.acchk (.g d) a) s → Faults (.acchk (.g d) a) s .illegal 1 (curSlot s).mask 0) ∧
    (free ty → pairBad s n ty = false → Does finj s fun z =>
      let z := touchTile z n
      let t := getTile z z.cur.ctx tile
      putTile z z.cur.ctx tile { t with el := t.elems.set el (t.elem el ^^^
        (if t.ty = 1 then (gOf s b).setWidth 64 <<< 32 else (gOf s b).setWidth 64)) }) ∧
    (∀ f sa sb, x.fmt = some f → free acct → pairBad s n acct = false → ty = acct →
      rangeFault s (gOf s b).toNat 16 (sideBytes f true) = none →
      (let z := scales mma f 0 0
       fbSparse f = false → issueBytes z (fbScale f false) (scaleBytes f false) = .inl sa →
         issueBytes z (fbScale f true) (scaleBytes f true) = .inl sb →
         rangeFault s (gOf s a).toNat 16 (sideBytes f false) = none →
         queued mma z { cmd with a := gOf s a, b := gOf s b, scaleA := sa, scaleB := sb }) ∧
      (∀ map, let off := ((ggOf s a).extractLsb' 32 32).toNat
       let z := scales mmas f off (fbK f / 8)
       fbSparse f = true → issueBytes z (fbScale f false) (scaleBytes f false) = .inl sa →
         issueBytes z (fbScale f true) (scaleBytes f true) = .inl sb → issueBytes z off (fbK f / 8) = .inl map →
         rangeFault s ((ggOf s a).toNat % 2 ^ 32) 16 (sideBytes f false) = none →
         queued mmas z { cmd with a := (ggOf s a).extractLsb' 0 32, b := gOf s b, scaleA := sa, scaleB := sb, zmap := map })) ∧
    (x.fmt.isSome = true → free acct → pairBad s n acct = false → rangeFault s (gOf s a).toNat 128 (4096 * accSize acct) = none →
      queued acld (noteOps s acld) { cmd with a := gOf s a, b := BitVec.ofNat 32 acct }) ∧
    (free ty → pairBad s n ty = false → engineNameFault s (ggOf s b) true [2] = none →
      (rangeFault s ((gOf s a).toNat % 2 ^ 17) 128 (4096 * accSize ty) = none →
        queued acst (noteOps s acst) { cmd with a := gOf s a, name := ggOf s b }) ∧
      (cvtTarget tgt = true → (gOf s a).toNat / 2 ^ 24 % 8 ≤ 4 →
        rangeFault s ((gOf s a).toNat % 2 ^ 17) 128 (4096 * tySize tgt) = none →
        queued accvt (noteOps s accvt) { cmd with a := gOf s a, name := ggOf s b })) ∧
    (m.1 = none →
      let z := readLs (noteOps m.2 mill) s.cur.ctx (gOf s a).toNat 64
      bankRead z (gOf s a).toNat 64 64 = .inl blk → engineNameFault s (mlRname blk) false [4, 5] = none →
      engineNameFault s (mlSname blk) true [2] = none → mlBad blk = false → mlXoff blk % 16 = 0 →
      let z := readLs z s.cur.ctx (mlXoff blk) (mlK blk * tySize (mlXty blk))
      ∀ v, issueBytes z (mlXoff blk) (mlK blk * tySize (mlXty blk)) = .inl v → Makes mill s (queueMill z blk v)) ∧
    (s.cur.admitted = false → 4 ≤ millsOut s s.cur.ctx s.cur.unit ∨ s.throttle ≠ 0 → Holds mill s s .busy)

/-- A K group of MMA and MMAS (12 R306, R307, R310): each of the 64 × 64 elements becomes its old value plus the exact sum of the
products of its row of A and its column of B, rounded once to nearest even in the accumulator's type (an i32 wraps); a marked
element of A counts as zero. It rests on readings of the model: notes/assumptions 72 and 73. -/
def Obligations.MatrixGroups : Prop :=
  ∀ (x : Ctx) (k : CoxCmd) (t : Tile) (m n : Nat),
    let g := fbG k.fmt
    let k0 := g * k.grp
    let row (isB : Bool) (line : Nat) : List Byte :=
      lsRead x ((if isB = true then k.b.toNat else k.a.toNat) + line * fbStride k.fmt isB) (rowBytes (fbTy k.fmt isB) (fbK k.fmt))
    let val (isB : Bool) (line i : Nat) : Machine.Num :=
      let j := k0 + i
      let v := if isB = false ∧ k.marked line j = true then .fin false 0 0 else elemOf (fbTy k.fmt isB) (fbInf k.fmt) (row isB line) j
      if fbBlk k.fmt isB = 0 then v
      else (mulNum v (scaleVal (fbSct k.fmt isB) (fbInf k.fmt) (if isB = true then k.scaleB else k.scaleA)
        (line * (fbK k.fmt / fbBlk k.fmt isB) + j / fbBlk k.fmt isB))).1.quiet
    m < 64 → n < 64 → t.el = [] ∨ t.el.length = 4096 →
      (groupTile x k t).1.elem (64 * m + n) =
        (accRound t.ty (dotSum 0 ((List.range g).map fun i => (val false m i, val true n i)) (accVal t.ty (t.elem (64 * m + n)))).1).1 ∧
      (groupTile x k t).1.ty = t.ty

/-- The checksum check of a drain (12 R311, R312, R314): a tile that is not kept is not checked; a tile all of whose lines agree
with their sums passes as it is; under CORRECT one row and one column out of tolerance give the element where they meet, and
nothing else changes; anything else fails with the counts of lines and the first of each.
It rests on readings of the model: notes/assumptions 75 and 76. -/
def Obligations.DrainChecks : Prop :=
  ∀ (s : State) (core u : Nat) (fe : Ferry) (k : CoxCmd) (t : Tile),
    let el := t.elems.map (accVal t.ty)
    let ro := linesOut t.ty el t.rows false
    let co := linesOut t.ty el t.cols true
    let j := (judge s core u fe k t).1
    (t.kept = false → j.tile = t ∧ j.bad = false ∧ j.fixed = 0) ∧
    (t.kept = true → ro = [] → co = [] → j.tile = t ∧ j.bad = false ∧ j.fixed = 0) ∧
    (∀ m n o p, t.kept = true → k.policy = 0 → ro = [(m, o)] → co = [(n, p)] → j.bad = false ∧ j.fixed = 1 ∧
      (∀ i, i ≠ 64 * m + n → j.tile.elem i = t.elems.getD i 0) ∧ j.tile.ty = t.ty) ∧
    (t.kept = true → ro ≠ [] ∨ co ≠ [] → k.policy ≠ 0 ∨ ro.length ≠ 1 ∨ co.length ≠ 1 →
      j.bad = true ∧ j.tile = t ∧ j.rows = ro.length ∧ j.cols = co.length ∧
        ∃ a, j.abft = some a ∧ a.row = (ro.head?.map fun e => BitVec.ofNat 32 e.1).getD 0xFFFFFFFF ∧
          a.col = (co.head?.map fun e => BitVec.ofNat 32 e.1).getD 0xFFFFFFFF) ∧
    (∀ vs : List Machine.Num, ∀ e a : Int, t.ty ≠ 2 → (sumTerms (vs.map termOf)).1 = some e → lineOut t.ty vs (some e, some a) = none) ∧
    (∀ vs : List Machine.Num, ∀ x e a : Int, t.ty ≠ 2 → (sumTerms (vs.map termOf)).1 = some x →
      (lineOut t.ty vs (some e, some a) = none ↔ (x - e).natAbs * 2 ^ 16 ≤ a.natAbs))

/-! ## Work and system words -/

/-- FORK starts the cox and the carter of its ferry once each, with the issuer's g registers; RDV arrives at a ferry barrier;
SPAWN checks its ticket, and answers 0 and enqueues it or answers the code of the first check that fails (06 R172, R175; 20 R471
to R473). -/
def Obligations.WorkWords : Prop :=
  ∀ (s s' z : State) (a b : Src) (d : Fin 64) (n : BitVec 4) (tk : List Byte),
    let f := (curUnit s).ferry
    let c := s.cur.ctx
    let fork : Instr := .fork a b
    let rdv : Instr := .rdv n
    let spawn : Instr := .spawn (.g d) a
    let begun (t : State) (u : Nat) (off : Word) : Prop :=
      (getUnit t c u).live = true ∧ (getUnit t c u).exited = false ∧ (getUnit t c u).ferry = f ∧ (getUnit t c u).g = (curUnit s).g ∧
      (getUnit t c u).s0.occ = true ∧ (getUnit t c u).s0.off = off &&& 0xFFFFFFFC ∧ (getUnit t c u).s1.occ = false ∧
      (getUnit t c u).v = [] ∧ (getUnit t c u).mode = 0x1000
    let x := getBar s c f n.toNat
    let found : BarInst := x.inst.getD { num := x.opened + 1, expected := expectedAt s c f n.toNat, arrived := [] }
    let inst : BarInst := { found with arrived := addOnce found.arrived s.cur.unit }
    (a = .zero → b = .zero → wordFault s fork ≠ none) ∧
    ((curFerry s).coxStarted = true → (curFerry s).carStarted = true → Moves fork s (s.cur.off + 4)) ∧
    (f < 4 → s.cur.unit < 64 → (curFerry s).coxStarted = false → (curFerry s).carStarted = false → Runs fork s → Answers fork s fun t =>
      (a ≠ .zero → begun t (0x40 + f) (gOf s a) ∧ (getUnit t c (0x40 + f)).sg = 0x900 ∧ (getFerry t c f).coxStarted = true) ∧
      (b ≠ .zero → begun t (0x44 + f) (gOf s b) ∧ (getUnit t c (0x44 + f)).sg = 0xA00 ∧ (getFerry t c f).carStarted = true) ∧
      SlotAt s t (s.cur.off + 4) ∧ (curUnit t).g = (curUnit s).g ∧ ∀ y, memByte t y = memByte s y) ∧
    (isCrew s.cur.unit = false → (arriveNow s false = true ∨ hasArrived s c s.cur.unit n.toNat = true) →
      anySlot (curUnit s) waitsRecord = false →
      (∀ b, b < 16 → b ≠ n.toNat → ∀ p, (getBar s c f b).inst = some p → instDone s c p = false) →
      coxFails s c s.cur.unit = false → instDone s c inst = false →
      Holds rdv s (modCurUnit (putBar s c f n.toNat { opened := inst.num, inst := some inst }) fun u =>
        { u with barAt := mset u.barAt n.toNat inst.num }) (.barrier n.toNat inst.num)) ∧
    ((if s.cur.admitted = true then (none, s) else spawnWait a s) = (none, s') → issueRead (noteOps s' spawn) (ggOf s' a) 64 = (.got tk, z) →
      Makes spawn s (modCurUnit (spawnTicket z tk).2 fun u =>
        { wrG u d.val (BitVec.ofNat 32 (spawnTicket z tk).1) with grcl := mput u.grcl false d.val false })) ∧
    (let r := spawnTicket z tk
     let q := queueOf z (curFerry z)
     let bad : Prop := tkSpan tk = 0 ∨ tkDieMask tk = 0 ∨ 128 < tkLskb tk ∨ 8 < tkAcc tk ∨ 8 < tkStrideCode tk
     (bad → r = (2, z)) ∧
     (¬ bad → tkClass tk ≠ (curCtx z).cls → r = (3, z)) ∧
     (¬ bad → tkClass tk = (curCtx z).cls → (curFerry z).pri < tkPri tk → r = (4, z)) ∧
     (¬ bad → tkClass tk = (curCtx z).cls → tkPri tk ≤ (curFerry z).pri → tkPinned tk = true → r = (5, z)) ∧
     (¬ bad → tkClass tk = (curCtx z).cls → tkPri tk ≤ (curFerry z).pri → tkPinned tk = false →
       r = if qSize z q ≤ qLen z q + 1 then (1, z) else (0, enqueue z q tk (curCtx z).asid 2 none)))

/-- Special registers and clocks (14 R352; 13 R328; 20 R474, R477). SRD reads the numbered register, a pair for $lc, $tvec and
$trap.addr and under a 64-bit TYPE; SWR writes $tvec, $trap.off with its low bits clear, $abft.fixed and $hintdrop, and no other
special register. -/
def Obligations.SpecialRegisters : Prop :=
  ∀ (s : State) (d : Fin 64) (a : Src) (n : BitVec 8),
    let u := curUnit s
    let c := curCtx s
    let wide : Bool := decide (n.toNat = 3 ∨ n.toNat = 8 ∨ n.toNat = 0x15)
    let word (x : Word) : Dword := x.setWidth 64
    let skid : Word := u.trap.skid ||| (if u.pendTrap.isSome = true then 0x400 else 0) ||| (if u.inh = true then 0x800 else 0)
    let srd : Instr := .srd (.g d) n
    let reads (k : Nat) (x : Dword) : Prop := n.toNat = k → Runs srd s → Answers srd s fun t =>
      Computes s t (.g d) (isWide (curTy s) || wide) fun _ _ => resOf x
    let swr : Instr := .swr a n
    let g := srcGroup s a wide
    let low : Word := g.setWidth 32
    reads 0x00 (BitVec.ofNat 64 (curFerry s).index) ∧ reads 0x01 (BitVec.ofNat 64 (curCore s)) ∧
    reads 0x02 (BitVec.ofNat 64 (ctlField s 0x0200 31 1 * 2 ^ 31 + ctlField s 0x0200 0 6)) ∧
    reads 0x03 ((getCore s (curCore s)).lc.setWidth 64) ∧ reads 0x08 c.tvec ∧
    reads 0x10 (word u.trap.cause) ∧ reads 0x11 (word u.trap.off) ∧ reads 0x12 (BitVec.ofNat 64 u.trap.plane) ∧
    reads 0x13 (word u.trap.lanes) ∧ reads 0x14 (word u.trap.mask) ∧ reads 0x15 u.trap.addr ∧ reads 0x16 (word u.trap.word) ∧
    reads 0x17 (word skid) ∧ reads 0x20 (word c.abft.syn) ∧ reads 0x21 (word c.abft.unit) ∧ reads 0x22 (word c.abft.row) ∧
    reads 0x23 (word c.abft.col) ∧ reads 0x24 (word c.abftFixed) ∧ reads 0x28 (word c.hintdrop) ∧
    (n = 0x08 → Makes swr s (modCtx s s.cur.ctx fun x => { x with tvec := g })) ∧
    (n = 0x11 → Makes swr s (modCurUnit s fun t => { t with trap := { t.trap with off := low &&& 0xFFFFFFFC } })) ∧
    (n = 0x24 → Makes swr s (modCtx s s.cur.ctx fun x => { x with abftFixed := low })) ∧
    (n = 0x28 → Makes swr s (modCtx s s.cur.ctx fun x => { x with hintdrop := low })) ∧
    (n ≠ 0x08 → n ≠ 0x11 → n ≠ 0x24 → n ≠ 0x28 → Moves swr s (s.cur.off + 4)) ∧
    (Runs (.rdtim (.g d)) s → Answers (.rdtim (.g d)) s fun t =>
      Computes s t (.g d) true fun _ _ => resOf (BitVec.ofNat 64 (fabTime s))) ∧
    (let waiting := (u.flight.filter fun x => !x.done && x.paths.any fun p => decide (p < 5)).map Access.id
     (waiting = [] → Runs (.rdlc (.g d)) s → Answers (.rdlc (.g d)) s fun t =>
       Computes s t (.g d) true fun _ _ => resOf ((getCore s (curCore s)).lc.setWidth 64)) ∧
     (s.cur.admitted = false → waiting ≠ [] → (curSlot s).waited = false → Holds (.rdlc (.g d)) s s (.drain waiting)))

/-- Traps, returns and the last words (09 R244; 13 R331, R335; 20 R475, R476, R478). TRAP and ILL raise their fault with their
operand in DETAIL; BKPT does until it is let pass once; TRET puts back the offset and mask of $trap and clears INH, and enters
the handler again for a trap that is pending; LPINV empties the last-page registers; SCRUB zeroes a range of the bank and counts
its poisoned words. It rests on readings of the model: notes/assumptions 37, 42, 68 and 119. -/
def Obligations.SystemWords : Prop :=
  ∀ (s : State) (i5 : BitVec 5) (i8 : BitVec 8) (i24 : BitVec 24) (d : Fin 64) (a : Src),
    let u := curUnit s
    let x := curSlot s
    let back : Slot := { x with off := u.trap.off, mask := u.trap.mask, hold := .none, waited := false, stage := 0 }
    let off := (ggOf s a).toNat % 2 ^ 32
    let n := (ggOf s a).toNat / 2 ^ 32
    let ok : Prop := off % 128 = 0 ∧ n % 128 = 0 ∧ off + n ≤ 0x20000
    let scrub : Instr := .scrub (.g d) a
    (Runs (.trap i5) s → Faults (.trap i5) s .trap i5.toNat x.mask 0) ∧
    (Fresh s → Faults (.ill i24) s .illegal 0 (lanesIn u s.cur.lanes s.cur.plane) 0) ∧
    (u.bkptPass ≠ some s.cur.off → Runs (.bkpt i8) s → Faults (.bkpt i8) s .bkpt 0 x.mask 0) ∧
    (u.bkptPass = some s.cur.off → Runs (.bkpt i8) s → Answers (.bkpt i8) s fun t =>
      GoesTo (modCurUnit s fun z => { z with bkptPass := none }) t (s.cur.off + 4)) ∧
    (u.pendTrap = none → Runs .tret s → Answers .tret s fun t => Rests (modCurUnit s fun z => { z with inh := false }) t back) ∧
    (∀ g o, u.pendTrap = some g → g.sup = false → (curCtx s).tvec ≠ 0 → handlerOff (curCtx s) (curFerry s) = some o →
      Runs .tret s → Answers .tret s fun t => (curUnit t).inh = true ∧ (curUnit t).trap = g.record ∧ (curUnit t).pendTrap = none ∧
        (curUnit t).inhSlot = g.slot ∧ (slotOf (curUnit t) g.slot).off = o ∧ (slotOf (curUnit t) g.slot).hold = .none ∧
        (curUnit t).g = u.g ∧ (curUnit t).v = u.v ∧ (curUnit t).mode = u.mode) ∧
    Makes .lpinv s (modCurUnit s fun z => { z with lp := [] }) ∧
    (¬ ok → Runs scrub s → Faults scrub s .perm 2 x.mask (BitVec.ofNat 64 off)) ∧
    (ok → Runs scrub s → Answers scrub s fun t =>
      let bank := getCtx t s.cur.ctx
      GoesTo (modCurUnit (modCtx s s.cur.ctx fun c => { c with ls := bank.ls, lsPoison := bank.lsPoison, lsErr := bank.lsErr }) fun z =>
        wrG z d.val (BitVec.ofNat 32 ((curCtx s).lsPoison.filter fun e =>
          e.2 && decide (off ≤ 4 * e.1) && decide (4 * e.1 < off + n)).length)) t (s.cur.off + 4) ∧
      ((curCtx s).ls.Pairwise (fun e f => e.1 < f.1) → ∀ y, lsByte bank y =
        if off ≤ y ∧ y < off + n then 0 else lsByte (curCtx s) y) ∧
      ((curCtx s).lsPoison.Pairwise (fun e f => e.1 < f.1) → ∀ y, lsPois bank y =
        if off ≤ y ∧ y < off + n then false else lsPois (curCtx s) y))


/-! ## Events of the package -/

/-- Boot and the root of trust (05 R133 to R143; 01 R25). Package reset gives every register its reset value, keeps the memory and
the audit log, and starts the first stage when its image passes; the first stage's measurement brings dies and stacks up and asks
for the supervisor's image; an image that fails is asked for again, three times on port 0, then on port 1. A measurement
register only ever takes SHA-384 of itself and the digest. The audit log numbers and chains its entries.
It rests on readings of the model: notes/assumptions 7, 23, 25 and 83. -/
def Obligations.BootAndTrust : Prop :=
  ∀ (s : State) (img : List Byte) (d : Digest) (idx port tries core requester : Nat) (out : Bool) (w : Word) (nonce : BitVec 256),
    let first := Config.firstStage
    let ep := Config.endpoint % 128
    let mr (t : State) (i : Nat) : Digest := mgetD t.mrs i 0
    let grown (t : State) (i : Nat) (x : Digest) : Prop :=
      mr t i = Config.sha384 (digestBytes (mr s i) ++ digestBytes x) ∧ ∀ j, j ≠ i → mr t j = mr s j
    let period := nextPeriod (fabTime s)
    let timers : List Timed :=
      [⟨s.now + untilFab s period, .fabBudgetPeriod⟩, ⟨s.now + 90000, .schedPeriodBoundary⟩, ⟨s.now + 4096, .clockSync⟩]
    let begun (kept t : State) : Prop :=
      t = { logIn kept t with
        pending := timers, budgetAt := period, planActive := Plan.default ep, ctl := t.ctl, boot := t.boot
        supRunning := t.supRunning, supEntry := t.supEntry, mrs := t.mrs } ∧
      CtlKept kept t [0x0000] ∧ ctlField t 0x0000 0 8 = 128 + ep ∧ ctlField t 0x0000 8 56 = ctlField kept 0x0000 8 56 ∧
      (imageOk first 1 = true → t.boot = .firstStage ∧ t.supRunning = [0] ∧ t.supEntry = imageEntry first ∧ Logged kept t 1 ∧
        mr t 0 = Config.sha384 (digestBytes 0 ++ digestBytes (imageHash first)) ∧ ∀ j, j ≠ 0 → mr t j = 0) ∧
      (imageOk first 1 = false → t.boot = .refused ∧ t.supRunning = [] ∧ t.supEntry = kept.supEntry ∧ t.mrs = [] ∧ Logged kept t 2)
    let asks (base t : State) (p : Nat) : Prop :=
      t = { base with
        boot := t.boot, update := t.update, out := s.out ++ [.fetchImage p]
        pending := s.pending ++ [⟨s.now + 7200000000, .bootFetchRetryTimer⟩] }
    let next (t : State) (place : Nat → Nat → Prop) : Prop :=
      (tries < 2 → asks s t port ∧ place port (tries + 1)) ∧
      (2 ≤ tries → port = 0 → asks s t 1 ∧ place 1 0) ∧
      (2 ≤ tries → port ≠ 0 → asks (logIn s t) t 0 ∧ Logged s t 1 ∧ place 0 0)
    let checkAt : List Timed := s.pending ++ [⟨s.now + 1, .firmwareUpdateCheck img⟩]
    Answers .powerOn s (begun { State.reset with
      now := s.now, resetAt := s.now, free := s.free, fabAdj := s.fabAdj, out := s.out, inletHot := s.inletHot }) ∧
    Answers .packageReset s (begun { State.reset with
      now := s.now, resetAt := s.now, free := s.free, fabAdj := s.fabAdj, errs := s.errs.filter fun e => isHbm e.1
      out := s.out, inletHot := s.inletHot, mem := s.mem, poison := s.poison, audit := s.audit
      auditNext := s.auditNext, auditReleased := s.auditReleased, auditExported := s.auditExported
      auditDropped := s.auditDropped, auditLost := s.auditLost }) ∧
    (s.boot = .firstStage → Answers (.bootMeasurementExtend 1 d) s fun t =>
      t = { logIn s t with
        mrs := t.mrs, ctl := t.ctl, boot := .fetching 0 0, out := s.out ++ [.fetchImage 0]
        pending := s.pending ++ (if s.inletHot = true then [] else s.fences.map fun k => ⟨s.now, .drainDie k⟩) ++
          [⟨s.now + 7200000000, .bootFetchRetryTimer⟩] } ∧
      grown t 1 d ∧ Logged s t 1 ∧ CtlKept s t [0x0008] ∧ (∀ m, m < 8 → ctlField t 0x0008 (12 + 2 * m) 2 = 1) ∧
      ctlField t 0x0008 10 2 = 1 ∧
      ∀ k, k < 4 → ctlField t 0x0008 (2 * k) 2 = if s.inletHot = true then ctlField s 0x0008 (2 * k) 2 else 1) ∧
    (s.boot = .supervisor → Answers (.bootMeasurementExtend 3 d) s fun t =>
      t = { logIn s t with mrs := t.mrs, boot := .running } ∧ grown t 3 d ∧ Logged s t 1) ∧
    (¬ (s.boot = .firstStage ∧ idx = 1) → ¬ (s.boot = .supervisor ∧ idx = 3) → Stands (.bootMeasurementExtend idx d) s) ∧
    (s.boot = .fetching port tries →
      (imageOk img 2 = true → Answers (.bootImageFetched img) s fun t =>
        t = { logIn s t with
          mrs := t.mrs, boot := .supervisor, supRunning := List.range 16, supEntry := imageEntry img, image := img } ∧
        grown t 2 (imageHash img) ∧ Logged s t 1) ∧
      (imageOk img 2 = false → Answers (.bootImageFetched img) s fun t =>
        t = { logIn s t with boot := .fetching 0 0, out := s.out ++ [.fetchImage 0] } ∧ Logged s t 2) ∧
      (Answers .bootFetchRetryTimer s fun t => t.update = s.update ∧ next t fun p n => t.boot = .fetching p n)) ∧
    (s.boot = .running → s.update = .fetching port tries →
      (Answers (.bootImageFetched img) s fun t =>
        t = { s with update := .idle, pending := s.pending ++ [⟨s.now, .firmwareUpdateCheck img⟩] }) ∧
      (Answers .bootFetchRetryTimer s fun t => t.boot = .running ∧ next t fun p n => t.update = .fetching p n)) ∧
    (s.boot = .running → s.update = .idle → Answers .bootFetchRetryTimer s fun t =>
      asks s t 0 ∧ t.boot = .running ∧ t.update = .fetching 0 0) ∧
    ((∀ p n, s.boot ≠ .fetching p n) → (s.boot = .running → ∀ p n, s.update ≠ .fetching p n) →
      Stands (.bootImageFetched img) s ∧ ((s.boot = .running → s.update ≠ .idle) → Stands .bootFetchRetryTimer s)) ∧
    ((∀ k b, s.update ≠ .replacing k b) →
      (imageOk img 2 = true → Answers (.firmwareUpdateCheck img) s fun t =>
        t = { logIn s t with
          mrs := t.mrs, image := img, update := .replacing 0 false, supOld := List.range 16, pending := checkAt } ∧
        grown t 2 (imageHash img) ∧ Logged s t 8) ∧
      (imageOk img 2 = false → Answers (.firmwareUpdateCheck img) s fun t => t = logIn s t ∧ Logged s t 2)) ∧
    (s.update = .replacing core out →
      (img ≠ s.image → Answers (.firmwareUpdateCheck img) s fun t => t = { s with pending := checkAt }) ∧
      (img = s.image → core < 16 → Answers (.firmwareUpdateCheck img) s fun t =>
        (out = false → t = { s with update := .replacing core true, supRunning := s.supRunning.erase core, pending := checkAt }) ∧
        (out = true → t = { s with
          update := .replacing (core + 1) false, supRunning := addOnce s.supRunning core, supOld := s.supOld.erase core
          pending := checkAt })) ∧
      (img = s.image → 16 ≤ core → Answers (.firmwareUpdateCheck img) s fun t =>
        t = { s with update := .idle, supEntry := imageEntry img })) ∧
    (let k := w.toNat % 8
     Answers (.rtbExtend w) s fun t =>
      t = { s with ctl := t.ctl, mrs := t.mrs } ∧ CtlKept s t [0x09B0] ∧ ctlField t 0x09B0 0 3 = k ∧
      (w.getLsbD 31 = false → t.mrs = s.mrs) ∧
      (w.getLsbD 31 = true → k < 4 → t.mrs = s.mrs ∧ ctlField t 0x09B0 29 2 = 1) ∧
      (w.getLsbD 31 = true → 4 ≤ k → grown t k s.extData ∧ ctlField t 0x09B0 29 2 = 2)) ∧
    (Answers (.spdmGetMeasurements requester nonce) s fun t => ∃ sig,
      t = { s with out := s.out ++
        [.measurements requester nonce ((List.range 8).map (mr s)) (auditHead s) (s.auditNext - 1) sig (certChain s)] }) ∧
    (let ty := fieldB s.audIn 0 2
     (ty < 0x100 → Answers (.audAppend core) s fun t => CtlOnly s t [0x0740] ∧ ctlField t 0x0740 28 3 = 1) ∧
     (0x100 ≤ ty → Answers (.audAppend core) s fun t =>
       t = { logIn s t with ctl := t.ctl } ∧ CtlKept s t [0x0740] ∧ ctlField t 0x0740 28 3 = 0 ∧ Logged s t ty)) ∧
    (∀ e, s.auditExported = some e → ctlGet s 0x0748 ≤ e → Answers .audRelease s fun t =>
      t = { s with ctl := t.ctl, auditReleased := max s.auditReleased (ctlGet s 0x0748 + 1) } ∧ CtlKept s t [0x0740] ∧
      ctlField t 0x0740 28 3 = 0) ∧
    ((∀ e, s.auditExported = some e → e < ctlGet s 0x0748) → Answers .audRelease s fun t =>
      CtlOnly s t [0x0740] ∧ ctlField t 0x0740 28 3 = 3) ∧
    (Answers .audExport s fun t => t.auditExported = some (s.auditNext - 1) ∧ Logged s t 0xB ∧ CtlKept s t [0x0740] ∧
      ctlField t 0x0740 28 3 = 0 ∧ (s.home = [] → hwRead t (ctlGet s 0x0750 / 128 * 128) 256 = exportRecord s)) ∧
    (∀ e, s.audit.find? (fun e => decide (e.seq = ctlGet s 0x0748)) = some e → Answers .audRead s fun t =>
      CtlKept s t [0x0740] ∧ ctlField t 0x0740 28 3 = 0 ∧ t.audit = s.audit ∧
      (s.home = [] → hwRead t (ctlGet s 0x0750 / 128 * 128) 128 = auditBytes e)) ∧
    ((∀ e ∈ s.audit, e.seq ≠ ctlGet s 0x0748) → Answers .audRead s fun t => CtlOnly s t [0x0740] ∧ ctlField t 0x0740 28 3 = 2)

/-- Links, patrol, power, temperature, dies and stacks (01 R15 to R25, R28 to R32; 05 R146, R148). An error is counted and seen in its
register; 105 degrees stop the package; a die drains until it holds no context and no line, and then is fenced; a stack is
recalibrated while its accesses are held. A write of a plain register follows its access codes.
It rests on readings of the model: notes/assumptions 24. -/
def Obligations.PackageService : Prop :=
  ∀ (s : State) (n watts tmax degrees line off : Nat) (err : EccResult) (pass : Bool) (v : Dword),
    let count (t : State) (r : Nat) : Prop := ctlField t r 0 32 = min 0xFFFFFFFF (ctlField s r 0 32 + 1)
    let stack := line / 2 ^ 29 % 8
    let still : Prop := line / 2 ^ 38 % 128 = ctlField s 0x0000 0 7 ∧ mgetD s.recal stack false = true
    let die (t : State) : Nat := ctlField t 0x0008 (2 * n) 2
    let stk (t : State) : Nat := ctlField t 0x0008 (12 + 2 * n) 2
    let busy (t : State) (r : Nat) : Nat := ctlField t r 31 1
    let serves (t : State) (r : Nat) : Prop := t = { logIn s t with ctl := t.ctl, pending := t.pending } ∧ CtlKept s t [0x0008, r]
    let later (t : State) (e : Ev) : Prop := t = { s with pending := s.pending ++ [⟨s.now + 1, e⟩] }
    let limit := max 1200 (min 3200 (ctlField s 0x0018 0 12))
    let eased (other : Nat) : Nat := if ctlField s 0x0010 other 1 = 0 then 0 else s.throttle
    let powers (t : State) : Prop := t = { s with ctl := t.ctl, throttle := t.throttle } ∧ CtlKept s t [0x0010]
    let waiting : Prop := ctlField s 0x0008 12 2 ≠ 0 ∧ ∀ k, k < 4 → ctlField s 0x0008 (2 * k) 2 = 0
    (n ≤ 10 → mgetD s.linkRuns n 0 < 16 → Answers (.linkTransferError n) s fun t =>
      count t (0x0060 + 4 * n) ∧ (mgetD t.linkRuns n 0 = mgetD s.linkRuns n 0 + 1 ∨ mgetD t.linkRuns n 0 = 1) ∧
      (16 ≤ mgetD t.linkRuns n 0 → ctlField t 0x0020 n 1 = 1 ∧ ∀ d, fencedBy n = some d → d ∈ t.fences ∧ Due s t 0 (.drainDie d)) ∧
      (mgetD t.linkRuns n 0 < 16 → t = { s with ctl := t.ctl, linkRuns := t.linkRuns, free := s.free + 1 })) ∧
    (10 < n ∨ 16 ≤ mgetD s.linkRuns n 0 → Stands (.linkTransferError n) s) ∧
    (still → Answers (.patrolScrubRead line err) s fun t => later t (.patrolScrubRead line err)) ∧
    (¬ still → errAt s (.hbm line) = none → Stands (.patrolScrubRead line .clean) s ∧
      (Answers (.patrolScrubRead line .corrected) s fun t => CtlOnly s t [0x0040 + 4 * stack] ∧ count t (0x0040 + 4 * stack)) ∧
      (Answers (.patrolScrubRead line .uncorrectable) s fun t =>
        t = { s with ctl := t.ctl, poison := t.poison } ∧ ctlField t 0x0020 (11 + stack) 1 = 1 ∧
        ∀ l, mgetD t.poison l false = (decide (l = line) || mgetD s.poison l false))) ∧
    (∀ ue, ¬ still → errAt s (.hbm line) = some ue → Answers (.patrolScrubRead line .clean) s fun t =>
      t = { s with ctl := t.ctl, poison := t.poison, errs := t.errs } ∧ errAt t (.hbm line) = none ∧
      (∀ p, p ≠ .hbm line → errAt t p = errAt s p) ∧
      (ue = false → CtlKept s t [0x0040 + 4 * stack] ∧ count t (0x0040 + 4 * stack) ∧ t.poison = s.poison) ∧
      (ue = true → CtlKept s t [0x0020] ∧ ctlField t 0x0020 (11 + stack) 1 = 1 ∧
        ∀ l, mgetD t.poison l false = (decide (l = line) || mgetD s.poison l false))) ∧
    (Answers (.powerWindow watts) s fun t => powers t ∧ ctlField t 0x0010 0 12 = min 0xFFF watts ∧
      ctlField t 0x0010 30 1 = (if limit < watts then 1 else if watts < limit then 0 else ctlField s 0x0010 30 1) ∧
      t.throttle = (if limit < watts then min 2 (s.throttle + 1) else if watts < limit then eased 29 else s.throttle)) ∧
    (Answers (.thermalThrottleStart tmax) s fun t => powers t ∧ ctlField t 0x0010 16 11 = min 0x7FF tmax ∧
      ctlField t 0x0010 29 1 = (if 95 ≤ tmax then 1 else ctlField s 0x0010 29 1) ∧
      t.throttle = (if 95 ≤ tmax then min 2 (s.throttle + 1) else s.throttle)) ∧
    (Answers (.thermalThrottleStop tmax) s fun t => powers t ∧ ctlField t 0x0010 16 11 = min 0x7FF tmax ∧
      ctlField t 0x0010 29 1 = (if tmax < 90 then 0 else ctlField s 0x0010 29 1) ∧
      t.throttle = (if tmax < 90 then eased 30 else s.throttle)) ∧
    (tmax < 105 → Answers (.thermalTrip tmax) s fun t => CtlOnly s t [0x0010] ∧ ctlField t 0x0010 16 11 = min 0x7FF tmax) ∧
    (105 ≤ tmax → Answers (.thermalTrip tmax) s fun t => t.stopped = true ∧ t.sess = [] ∧ CtlKept s t [0x0010] ∧
      ctlField t 0x0010 31 1 = 1 ∧ t.mem = s.mem ∧ t.ctxs = s.ctxs ∧ Logged s t 5) ∧
    (Answers (.coolantInletTemperature degrees) s fun t =>
      CtlKept s t [0x0008] ∧
      (degrees ≤ 40 ∧ waiting → t = { s with
        ctl := t.ctl, inletHot := false, pending := s.pending ++ s.fences.map fun k => ⟨s.now, .drainDie k⟩ } ∧
        ∀ d, d < 4 → ctlField t 0x0008 (2 * d) 2 = 1) ∧
      (¬ (degrees ≤ 40 ∧ waiting) → t = { s with inletHot := decide (40 < degrees) })) ∧
    (n < 4 → die s = 1 → busy s 0x0A10 = 0 → Answers (.drainDie n) s fun t =>
      serves t 0x0A10 ∧ die t = 2 ∧ busy t 0x0A10 = 1 ∧ Logged s t 9 ∧ Due s t 1 (.drainDie n)) ∧
    (n < 4 → die s = 2 → dieCtxs s n ≠ [] → Answers (.drainDie n) s fun t =>
      t = { s with ctxs := t.ctxs, pending := t.pending } ∧ Due s t 1 (.drainDie n) ∧
      ∀ c ∈ dieCtxs s n, (getCtx t c).leaving = true ∨ (getCtx t c).releasing = true) ∧
    (n < 4 → die s = 2 → dieCtxs s n = [] → dieOwned s n = [] → (∀ e ∈ s.wb, e.1 % 4 ≠ n) → Answers (.drainDie n) s fun t =>
      die t = 3 ∧ busy t 0x0A10 = 0 ∧ Logged s t 9 ∧ (∀ e ∈ t.l2, e.1 % 4 ≠ n) ∧ (∀ e ∈ t.l1, e.1 % 320 / 80 ≠ n) ∧
      t = { logIn s t with ctl := t.ctl, l2 := t.l2, l1 := t.l1, fences := s.fences.erase n } ∧ CtlKept s t [0x0008, 0x0A10]) ∧
    (n < 4 → die s ≠ 2 → die s ≠ 1 ∨ busy s 0x0A10 = 1 →
      (n ∈ s.fences → busy s 0x0A10 = 1 → Answers (.drainDie n) s fun t => later t (.drainDie n)) ∧
      (n ∉ s.fences ∨ busy s 0x0A10 = 0 → die s = 3 → Answers (.drainDie n) s fun t => t = { s with fences := s.fences.erase n }) ∧
      (n ∉ s.fences ∨ busy s 0x0A10 = 0 → die s ≠ 3 → Stands (.drainDie n) s)) ∧
    (4 ≤ n → Stands (.drainDie n) s) ∧
    (n < 4 → die s = 3 → busy s 0x0A10 = 0 → Answers (.readmitDie n) s fun t => busy t 0x0A10 = 1 ∧ ctlField t 0x0A10 30 1 = 0 ∧
      CtlKept s t [0x0A10] ∧ (Due s t 1 (.readmissionDone n true) ∨ Due s t 1 (.readmissionDone n false))) ∧
    (n < 4 → die s = 3 → busy s 0x0A10 = 1 → Answers (.readmissionDone n pass) s fun t =>
      CtlKept s t [0x0008, 0x0A10] ∧ busy t 0x0A10 = 0 ∧ die t = (if pass = true then 1 else 3) ∧
      (pass = false → ctlField t 0x0A10 30 1 = 1 ∧ t.audit = s.audit) ∧ (pass = true → Logged s t 9)) ∧
    (n < 8 → busy s 0x0A18 = 0 → stk s = 1 → Answers (.stkDrain n) s fun t =>
      t = { logIn s t with ctl := t.ctl, pending := t.pending, stkQuiet := s.now } ∧ CtlKept s t [0x0008, 0x0A18] ∧
      stk t = 2 ∧ busy t 0x0A18 = 1 ∧ Logged s t 9 ∧ Due s t 1 (.stkRecalibrate n)) ∧
    (n < 8 → busy s 0x0A18 = 1 → stk s = 2 → mgetD s.recal n false = false →
      (stackInUse s n = true → Answers (.stkRecalibrate n) s fun t =>
        t = { s with stkQuiet := s.now, pending := s.pending ++ [⟨s.now + 1, .stkRecalibrate n⟩] }) ∧
      (stackInUse s n = false → s.now < s.stkQuiet + 1800 → Answers (.stkRecalibrate n) s fun t => later t (.stkRecalibrate n)) ∧
      (stackInUse s n = false → s.stkQuiet + 1800 ≤ s.now → Answers (.stkRecalibrate n) s fun t =>
        t = { s with recal := t.recal, pending := s.pending ++ [⟨s.now + 1, .stkRecalibrateDone n⟩] } ∧
        ∀ k, mgetD t.recal k false = (decide (k = n) || mgetD s.recal k false))) ∧
    (mgetD s.recal n false = true → Answers (.stkRecalibrateDone n) s fun t =>
      t = { s with ctl := t.ctl, recal := t.recal, home := t.home, pending := t.pending } ∧ CtlKept s t [0x0A18] ∧
      busy t 0x0A18 = 0 ∧ ∀ k, mgetD t.recal k false = (decide (k ≠ n) && mgetD s.recal k false)) ∧
    (n < 8 → busy s 0x0A18 = 0 → stk s = 2 → Answers (.stkResume n) s fun t =>
      t = { logIn s t with ctl := t.ctl } ∧ CtlKept s t [0x0008] ∧ stk t = 1 ∧ Logged s t 9) ∧
    (∃ t, exec (.registerWrite off v) s = .next t) ∧
    (∀ i : RegInfo, off < 0x0600 → off ∉ [0x0108, 0x0200, 0x0220, 0x0230, 0x0248, 0x0300, 0x0330, 0x0334, 0x0338, 0x033C] →
      regInfo off = some i → Answers (.registerWrite off v) s fun t => CtlOnly s t [off] ∧ ∀ b, b < 64 →
        (readReg t off).testBit b =
          if i.w1c.testBit b = true ∧ v.getLsbD b = true then false
          else if i.rw.testBit b = true then v.getLsbD b else (readReg s off).testBit b)

/-! ## The fabric and other cells -/

/-- Plans, packets, acknowledgement, weak channels and budgets (02 R36 to R44, R47 to R53). A plan is checked before it becomes
pending, and a switch goes to it at its time; a packet is dropped and counted when its session or its tag does not fit; a new
one is delivered once, in its stream; what is not acknowledged goes out again, on another channel where there is one.
It rests on readings of the model: notes/assumptions 14, 24 and 81. -/
def Obligations.FabricEvents : Prop :=
  ∀ (s : State) (ep plane stream pseq base symbols corrected bad : Nat) (bits : BitVec 64) (p : Packet) (x : Session) (m : XMsg),
    let img := hwRead s (ctlField s 0x0104 0 20 * 2 ^ 32 + ctlField s 0x0100 6 26 * 64) 1088
    let at_ (t : State) : Option Session := mget? t.sess ep
    let st := mgetD x.streams stream {}
    let ports := txPorts s ep
    let when := ctlGet s 0x0114 * 2 ^ 32 + ctlGet s 0x0110
    let count (t : State) (lo : Nat) : Prop := CtlOnly s t [0x0124] ∧
      ctlField t 0x0124 lo 16 = min 0xFFFF (ctlField s 0x0124 lo 16 + 1) ∧ ctlField t 0x0124 (16 - lo) 16 = ctlField s 0x0124 (16 - lo) 16
    let tx : Instr := .fabPacketTransmit ep stream
    let rx : Instr := .fabPacketReceive plane p.src p
    let mine : Prop := rxTuned s plane p.src = true ∧ p.dst = ownEp s ∧ p.ndata ≤ 8
    let tagged (gen : Nat) : Prop :=
      let key := keyNum p.src (ownEp s) x.tag gen
      let iv := ivOf (if p.stream = 7 then 0 else if p.kslot = true then x.rxSalt1 else x.rxSalt0) p.pctr
      p.tag = Config.packetTag key iv (packetHeader p) p.payload ∧ p.crypt = if p.stream = 7 then none else some { key := key, iv := iv }
    let goesOut (t : State) (seq : Nat) (m : Msg) (planes : List Nat) : Prop := ∃ k ∈ planes, ∃ q : Packet,
      (∀ j ∈ planes, queuedFlits s ep k < queuedFlits s ep j ∨ (queuedFlits s ep k = queuedFlits s ep j ∧ k ≤ j)) ∧
      t.out = s.out ++ [.packet k q] ∧ q.pseq = seq ∧ q.stream = stream ∧ q.dst = ep ∧ q.src = ownEp s ∧ q.payload = m ∧
      q.stag = x.tag ∧ q.kslot = x.kslot ∧ q.pctr = (if x.kslot = true then x.pctr1 else x.pctr0) ∧
      let key := keyNum (ownEp s) ep x.tag (if x.kslot = true then x.gen1 else x.gen0)
      let iv := ivOf (if x.kslot = true then x.txSalt1 else x.txSalt0) q.pctr
      q.tag = Config.packetTag key iv (packetHeader q) m ∧ q.crypt = some { key := key, iv := iv }
    (planCheck s img ≠ 0 → Answers .fabPlanLoad s fun t => CtlOnly s t [0x0120] ∧ ctlField t 0x0120 11 3 = planCheck s img) ∧
    (planCheck s img = 0 → Answers .fabPlanLoad s fun t =>
      t = { s with ctl := t.ctl, planPending := some { id := fieldB img 0 2, tx := planHalf img 0x40, rx := planHalf img 0x240 } } ∧
      CtlKept s t [0x0120] ∧ ctlField t 0x0120 11 3 = 0 ∧ ctlField t 0x0120 15 1 = 1) ∧
    (s.planPending = none → Answers .fabPlanSwitch s fun t => CtlOnly s t [0x0120] ∧ ctlField t 0x0120 11 3 = 7) ∧
    (s.planPending ≠ none → s.armed ≠ none → Answers .fabPlanSwitch s fun t => CtlOnly s t [0x0120] ∧ ctlField t 0x0120 11 3 = 0) ∧
    (s.planPending ≠ none → s.armed = none → Answers .fabPlanSwitch s fun t =>
      t = { s with ctl := t.ctl, armed := some when
                   pending := s.pending ++ [⟨s.now + ((when - fabTime s) * 288 + 124) / 125, .planSwitchTime⟩] } ∧
      CtlKept s t [0x0120] ∧ ctlField t 0x0120 14 1 = 1 ∧ ctlField t 0x0120 11 3 = 0) ∧
    (∀ n, s.armed = some n → s.switching = none →
      (fabTime s < n → Answers .planSwitchTime s fun t => ∃ d, 0 < d ∧ t = { s with pending := s.pending ++ [⟨s.now + d, .planSwitchTime⟩] }) ∧
      (n ≤ fabTime s → Answers .planSwitchTime s fun t => t = { s with
        switching := s.planPending, rxMoved := false
        pending := s.pending ++ [⟨s.now + 90, .planSwitchRxRetune⟩, ⟨s.now + 360, .planSwitchDone⟩] })) ∧
    (s.switching ≠ none → Answers .planSwitchRxRetune s fun t => t = { s with rxMoved := true }) ∧
    (∀ q, s.switching = some q → Answers .planSwitchDone s fun t =>
      t.planActive = q ∧ t.planPending = none ∧ t.armed = none ∧ t.switching = none ∧ CtlKept s t [0x0120] ∧
      ctlField t 0x0120 16 16 = q.id % 2 ^ 16 ∧ ctlField t 0x0120 14 2 = 0 ∧ Logged s t 9 ∧
      (∀ c ∈ t.removed, c ∈ s.removed ∧ ∀ e ∈ q.tx, ¬ (e.1 / 16 = c.2 ∧ e.2 = c.1))) ∧
    (s.switching = none → Stands .planSwitchRxRetune s ∧ Stands .planSwitchDone s) ∧
    (Answers .fabTimeLoRead s fun t => t = { s with timeLatch := BitVec.ofNat 32 (fabTime s / 2 ^ 32) }) ∧
    (¬ mine → Stands rx s) ∧
    (mine → p.stream = 4 ∨ p.stream = 5 → Answers rx s fun t => count t 0) ∧
    (mine → p.stream < 4 ∨ p.stream = 7 → mget? s.sess p.src = none → Answers rx s fun t => count t 16) ∧
    (mine → p.stream < 4 ∨ p.stream = 7 → mget? s.sess p.src = some x → p.stag ≠ x.tag → Answers rx s fun t => count t 16) ∧
    (mine → p.stream = 7 → mget? s.sess p.src = some x → p.stag = x.tag → ¬ tagged 0 → Answers rx s fun t => count t 0) ∧
    (∀ y, mine → p.stream = 6 → p.payload = .spdm y →
      (p.stag = 0 → Answers rx s fun t => t = { s with pending := s.pending ++ [⟨s.now, .spdmMessage p.src y⟩] }) ∧
      (p.stag ≠ 0 → Stands rx s)) ∧
    (mine → p.stream < 4 → mget? s.sess p.src = some x → p.stag = x.tag → p.kslot ≠ x.rxSlot → x.installed = false →
      x.rxOld = false → Answers rx s fun t => count t 0) ∧
    (mine → p.stream < 4 → mget? s.sess p.src = some x → p.stag = x.tag → p.kslot ≠ x.rxSlot → x.installed = true →
      tagged (if p.kslot = true then x.gen1 else x.gen0) → Answers rx s fun t => Due s t 180000 (.oldKeySlotRetire p.src) ∧
        ∃ z, mget? t.sess p.src = some z ∧ z.rxSlot = p.kslot ∧ z.rxOld = true ∧ z.installed = false ∧ z.heard = s.now) ∧
    (mine → p.stream < 4 → mget? s.sess p.src = some x → p.stag = x.tag → p.kslot = x.rxSlot →
      (¬ tagged (if p.kslot = true then x.gen1 else x.gen0) → Answers rx s fun t => count t 0) ∧
      (tagged (if p.kslot = true then x.gen1 else x.gen0) → p.payload = .rds m →
        let y := mgetD x.streams p.stream {}
        let fresh : Prop := (p.pseq + 65536 - y.rxBase % 65536) % 65536 < 32768 ∧ p.pseq ∉ y.rxSeen
        (fresh → Answers rx s fun t => Due s t 0 (.rds m) ∧ ∃ z, mget? t.sess p.src = some z ∧ z.heard = s.now) ∧
        (¬ fresh → ¬ Due s s 0 (.rds m) → Answers rx s fun t => ¬ Due s t 0 (.rds m)))) ∧
    (s.sess = [] ∨ ports = [] → Stands tx s) ∧
    (at_ s = some x → stream < 4 → x.halted = false → st.unacked.length < 64 → ports ≠ [] →
      (x.ctr = 2 ^ 48 - 1 → Answers tx s fun t => CtlKept s t [0x0120] ∧ ctlField t 0x0120 10 1 = 1 ∧ t.out = s.out ∧
        at_ t = some { x with halted := true }) ∧
      (x.ctr ≠ 2 ^ 48 - 1 → ∀ w, st.waiting.find? (admitted s stream) = some w → Answers tx s fun t =>
        goesOut t (st.nextSeq % 65536) w.2 ports ∧ Due s t 3600 (.replayTimeout ep stream (st.nextSeq % 65536)) ∧
        ∃ y, at_ t = some y ∧ (mgetD y.streams stream {}).waiting = st.waiting.erase w ∧
          (mgetD y.streams stream {}).nextSeq = st.nextSeq + 1 ∧ (mgetD y.streams stream {}).unacked.length = st.unacked.length + 1)) ∧
    (at_ s = none ∨ (at_ s = some x ∧ ∀ u ∈ st.unacked, u.2.pseq ≠ pseq) → Stands (.replayTimeout ep stream pseq) s) ∧
    (∀ u, at_ s = some x → stream < 4 → st.unacked.find? (fun u => decide (u.2.pseq = pseq)) = some u → x.halted = false →
      x.ctr ≠ 2 ^ 48 - 1 → ports ≠ [] → Answers (.replayTimeout ep stream pseq) s fun t =>
        goesOut t pseq u.2.payload (if (∀ k ∈ ports, k = u.1) then ports else ports.filter fun k => decide (k ≠ u.1)) ∧
        Due s t 3600 (.replayTimeout ep stream pseq)) ∧
    (at_ s = some x → Answers (.selectiveAck ep stream base bits) s fun t => Due s t 0 (.fabPacketTransmit ep stream) ∧
      ∃ y, at_ t = some y ∧ (mgetD y.streams stream {}).unacked.map Prod.snd = (st.unacked.map Prod.snd).filter fun q =>
        let d := (q.pseq + 65536 - base % 65536) % 65536
        decide (d < 32768) && !(decide (d < 64) && bits.getLsbD d)) ∧
    (at_ s = none ∨ (at_ s = some x ∧ st.rxSinceAck = 0) → Stands (.ackTimer ep stream) s) ∧
    (at_ s = some x → st.rxSinceAck ≠ 0 → stream < 4 → Answers (.ackTimer ep stream) s fun t => ∃ y b, at_ t = some y ∧
      (mgetD y.streams stream {}).rxSinceAck = 0 ∧ AtPort t ep (.selack stream st.rxBase b) ∧
      ∀ k, k < 64 → b.getLsbD k = decide ((st.rxBase + k) % 65536 ∈ st.rxSeen)) ∧
    (let weak : Prop := (symbols < corrected * 100000 ∨ 4 ≤ bad) ∧ rxTuned s plane ep = true ∧ (ep, plane) ∉ s.removedRx
     let i : Instr := .channelErrorWindow ep plane symbols corrected bad
     (weak → sessLive s ep = true → Answers i s fun t => t.removedRx = s.removedRx ++ [(ep, plane)] ∧
       AtPort t ep (.channelNotice plane) ∧ CtlKept s t [0x0120] ∧ ctlField t 0x0120 8 1 = 1) ∧
     (¬ weak → Stands i s)) ∧
    (Answers (.channelNotice ep plane) s fun t => t = { s with removed := t.removed } ∧
      ∀ c, c ∈ t.removed ↔ c = (ep, plane) ∨ c ∈ s.removed) ∧
    (fabTime s < s.budgetAt →
      ((∃ e ∈ s.pending, e.ev = .fabBudgetPeriod) → Stands .fabBudgetPeriod s) ∧
      ((∀ e ∈ s.pending, e.ev ≠ .fabBudgetPeriod) → Answers .fabBudgetPeriod s fun t =>
        t = { s with pending := s.pending ++ [⟨s.now + max 1 (untilFab s s.budgetAt), .fabBudgetPeriod⟩] })) ∧
    (s.budgetAt ≤ fabTime s → Answers .fabBudgetPeriod s fun t =>
      let next := nextPeriod (fabTime s)
      t = { s with ctxs := t.ctxs, pending := t.pending, budgetAt := next } ∧
      Due s t (max 1 (untilFab s next)) .fabBudgetPeriod ∧ ∀ c, getCtx t c = { getCtx s c with fabCharge := 0 }) ∧
    (s.sess = [] → Stands .heartbeatTimer s) ∧
    (s.sess ≠ [] → Answers .heartbeatTimer s fun t => Due s t 18000 .heartbeatTimer ∧ t.ctl = s.ctl ∧ ∃ l, t.out = s.out ++ l ∧
      l.length = ((s.sess.map Prod.fst).filter fun e => decide (txPorts s e ≠ [])).length ∧
      ∀ o ∈ l, ∃ k q, o = .packet k q ∧ q.stream = 7 ∧ q.payload =
        .heartbeat (fabTime s) (ownCell s) s.planActive.id (decide (ctlField s 0x0200 8 3 = 3)) (highClock s))

/-- Sessions, cells and recovery (02 R46, R47, R49, R53, R54; 03 R59 to R62, R77, R80 to R82, R88 to R90; 04 R99). A session becomes
live with its peer's cell when a set-up is accepted; its end retires its tag; a peer that is silent for 80 µs, or that announces
another cell, is lost; a departure that was announced is no loss. A new key starts its counter at 0. The recovery engine poisons
a line whose only data was lost. It rests on readings of the model: notes/assumptions 57, 80, 82 and 84. -/
def Obligations.SessionsAndCells : Prop :=
  ∀ (s : State) (ep tag cell time plan line die ask : Nat) (leaving wr : Bool) (clock : Stamp) (x : Session) (v : Word) (r : AccRef) (a : Access),
    let at_ (t : State) : Option Session := mget? t.sess ep
    let member : Prop := ctlField s 0x0200 31 1 = 1
    let full : Prop := 256 ≤ s.sess.length + s.tags.length
    let lst (t : State) : Nat := ctlField t 0x0200 8 3
    let taken : Prop := tag = 0 ∨ 0xFFFF ≤ tag ∨ (∃ e ∈ s.sess, e.2.tag = tag) ∨ ∃ e ∈ s.tags, e.1 = tag
    let ports := txPorts s ep
    let own := ctlField s 0x0200 0 6
    let salt (i j n : Nat) : BitVec 32 := Config.sessionSalt (keyNum i j n 1)
    let spdmOut (u t : State) : Prop := t = { u with out := t.out, chanQ := t.chanQ, spdmSeq := t.spdmSeq }
    let tells (t : State) (m : Spdm) : Prop :=
      (ports = [] → t.out = s.out) ∧ (ports ≠ [] → ∃ n ∈ ports, ∃ q : Packet, t.out = s.out ++ [.packet n q] ∧ q.stream = 6 ∧
        q.stag = 0 ∧ q.dst = ep ∧ q.src = ownEp s ∧ q.crypt = none ∧ q.payload = .spdm m)
    let live (t : State) (n c : Nat) : Prop :=
      at_ t = some { tag := n, cell := c, heard := s.now, txSalt0 := salt (ownEp s) ep n, rxSalt0 := salt ep (ownEp s) n } ∧
      mget? t.peerCell ep = some c ∧ mget? t.setups ep = none ∧ t.departed = s.departed ∧
      Due s t 144000 (.silenceTimeout ep) ∧ ∀ e, e ≠ ep → mget? t.sess e = mget? s.sess e
    let begins (t : State) : Prop := ∃ n, 0 < n ∧ n < 0xFFFF ∧ tells t (.request n own) ∧
      spdmOut { s with free := s.free + 1, setups := mset s.setups ep n } t
    let lost (i : Instr) (u : State) : Prop := exec i s = .next (losePeer u ep)
    let set := { s with fabAdj := s.fabAdj + ((time - fabTime s : Nat) : Int) }
    let f := getFilt s line
    (at_ s = none →
      (member → ¬ full → Answers (.spdmMessage ep .start) s begins) ∧
      (¬ member ∨ full → Stands (.spdmMessage ep .start) s) ∧
      (¬ full → ¬ taken → member → Answers (.spdmMessage ep (.request tag cell)) s fun t =>
        live t tag cell ∧ tells t (.accept tag own)) ∧
      (¬ full → ¬ taken → ¬ member → Stands (.spdmMessage ep (.request tag cell)) s) ∧
      (full → Answers (.spdmMessage ep (.request tag cell)) s fun t => spdmOut s t ∧ tells t .busy) ∧
      (¬ full → taken → Answers (.spdmMessage ep (.request tag cell)) s fun t => spdmOut s t ∧ tells t (.tagRefused tag)) ∧
      (¬ full → member → mget? s.setups ep = some tag → Answers (.spdmMessage ep (.accept tag cell)) s fun t =>
        live t tag cell ∧ t.out = s.out) ∧
      (full ∨ ¬ member ∨ mget? s.setups ep ≠ some tag → Stands (.spdmMessage ep (.accept tag cell)) s) ∧
      (mget? s.setups ep = some tag → Answers (.spdmMessage ep (.tagRefused tag)) s begins) ∧
      (mget? s.setups ep = some tag → Answers (.spdmMessage ep .busy) s fun t =>
        t = { s with pending := s.pending ++ [⟨s.now + 18000000, .spdmBusyRetry ep⟩] }) ∧
      (mget? s.setups ep = some tag → ¬ full → member → Answers (.spdmBusyRetry ep) s begins)) ∧
    (mget? s.setups ep = none → Stands (.spdmMessage ep (.accept tag cell)) s ∧ Stands (.spdmBusyRetry ep) s) ∧
    (at_ s = some x → Answers (.spdmKeyUpdate ep) s fun t => ∃ y, at_ t = some y ∧ y.kslot = (!x.kslot) ∧ y.halted = false ∧
      y.rot = false ∧ y.rxOld = false ∧ y.installed = true ∧ y.streams = x.streams ∧ y.tag = x.tag ∧
      (let g := max x.gen0 x.gen1 + 1
       let tx := Config.sessionSalt (keyNum (ownEp s) ep x.tag g)
       let rx := Config.sessionSalt (keyNum ep (ownEp s) x.tag g)
       if y.kslot = true then
         y.pctr1 = 0 ∧ y.gen1 = g ∧ y.txSalt1 = tx ∧ y.rxSalt1 = rx ∧ y.pctr0 = x.pctr0 ∧ y.gen0 = x.gen0 ∧ y.txSalt0 = x.txSalt0 ∧
           y.rxSalt0 = x.rxSalt0
       else
         y.pctr0 = 0 ∧ y.gen0 = g ∧ y.txSalt0 = tx ∧ y.rxSalt0 = rx ∧ y.pctr1 = x.pctr1 ∧ y.gen1 = x.gen1 ∧ y.txSalt1 = x.txSalt1 ∧
           y.rxSalt1 = x.rxSalt1) ∧
      ∀ k, k < 4 → Due s t 0 (.fabPacketTransmit ep k)) ∧
    (at_ s = some x → Answers (.oldKeySlotRetire ep) s fun t => t = { s with sess := t.sess } ∧
      at_ t = some { x with rxOld := if x.oldTill ≤ s.now then false else x.rxOld } ∧ ∀ e, e ≠ ep → mget? t.sess e = mget? s.sess e) ∧
    (Answers (.retiredTagExpiry tag) s fun t => t = { s with tags := t.tags } ∧
      ∀ e, e ∈ t.tags ↔ e ∈ s.tags ∧ (e.1 = tag → s.now < e.2 + 1800000000)) ∧
    (at_ s = none → Stands (.spdmKeyUpdate ep) s ∧ Stands (.oldKeySlotRetire ep) s ∧ Stands (.heartbeat ep time cell plan leaving clock) s ∧
      Stands (.silenceTimeout ep) s ∧ Stands (.sessionEndNotice ep) s) ∧
    (at_ s = some x → cell = x.cell ∨ ep ∈ s.departed → 0 ≤ ((s.now * 125 / 288 : Nat) : Int) + s.fabAdj →
      Answers (.heartbeat ep time cell plan leaving clock) s fun t =>
        fabTime t = max (fabTime s) time ∧ at_ t = some { x with cell := cell, leaving := x.leaving || leaving } ∧
        (∀ e, e ≠ ep → mget? t.sess e = mget? s.sess e) ∧
        t = { set with
          peerCell := mset s.peerCell ep cell, sess := t.sess, cores := t.cores, pending := t.pending
          departed := if cell = x.cell then s.departed else s.departed.erase ep } ∧
        (s.budgetAt ≤ fabTime t → Due s t 0 .fabBudgetPeriod) ∧
        (∀ n, s.switching = none → s.armed = some n → n ≤ fabTime t → Due s t 0 .planSwitchTime) ∧
        (∀ e ∈ s.pending, e ∈ t.pending) ∧
        ∀ k ∈ s.cores.map Prod.fst, clk t k =
          if sameCell { s with peerCell := mset s.peerCell ep cell } ep = true ∧ 0 < (clock - clk s k).toNat ∧
              (clock - clk s k).toNat < 2 ^ 47 ∧ 2 ^ 40 < (clock - clk s k).toNat then clock - 2 ^ 40
          else clk s k) ∧
    (at_ s = some x → cell ≠ x.cell → ep ∉ s.departed → lost (.heartbeat ep time cell plan leaving clock) (fabMoved set)) ∧
    (at_ s = some x → s.now < x.heard + 144000 → Answers (.silenceTimeout ep) s fun t =>
      t = { s with pending := s.pending ++ [⟨x.heard + 144000, .silenceTimeout ep⟩] }) ∧
    (at_ s = some x → x.heard + 144000 ≤ s.now → lost (.silenceTimeout ep) s) ∧
    (at_ s = some x → x.leaving = false → lost (.sessionEndNotice ep) s) ∧
    (at_ s = some x → x.leaving = true → Answers (.sessionEndNotice ep) s fun t => at_ t = none ∧ ep ∈ t.departed ∧
      (x.tag, s.now) ∈ t.tags ∧ t.poison = s.poison ∧ CtlKept s t [0x0230] ∧ Due s t 1800000000 (.retiredTagExpiry x.tag)) ∧
    (at_ s = some x → at_ (endSession s ep) = none ∧ (endSession s ep).tags = s.tags ++ [(x.tag, s.now)] ∧
      (∀ e, e ≠ ep → mget? (endSession s ep).sess e = mget? s.sess e) ∧
      (∀ n ∈ txPorts s ep, ∃ q, Out.packet n q ∈ (endSession s ep).out ∧ q.payload = .sessionEnd)) ∧
    (getAcc s r = none → Stands (.transactionTimeout (.access r)) s) ∧
    (let late (p : Piece) : Bool := decide (p.deadline ≠ 0) && decide (p.deadline ≤ s.now)
     getAcc s r = some a → a.kind ≠ .lreq → (∃ p ∈ a.pieces, p.isOpen = true ∧ late p = false) →
      Answers (.transactionTimeout (.access r)) s fun t =>
        getAcc t r = some { a with pieces := a.pieces.map fun p =>
          if p.isOpen = true ∧ late p = true then { p with failed := some .timeout } else p } ∧
        t = { s with ctxs := t.ctxs }) ∧
    (mget? s.landTxns tag = none → Stands (.transactionTimeout (.landing tag)) s) ∧
    (let key := askKey die line wr
     (mget? s.asks key = some ask → Answers (.transactionTimeout (.line die line wr ask)) s fun t =>
       t = { s with asks := t.asks, refusals := t.refusals } ∧ mget? t.asks key = none ∧
       mget? t.refusals line = some (.timeout, s.cohSeq)) ∧
     (mget? s.asks key ≠ some ask → Stands (.transactionTimeout (.line die line wr ask)) s)) ∧
    (invAwaited s f ep = true → sessLive s ep = true → Answers (.transactionTimeout (.holder line ep)) s fun t =>
      AtPort t ep (.inv (xmsg s line (ownEp s) none false false)) ∧ Due s t 1800000 (.transactionTimeout (.holder line ep))) ∧
    (ep ∈ f.awaitEps → invAwaited s f ep = false → Answers (.transactionTimeout (.holder line ep)) s fun t =>
      t = { s with pending := s.pending ++ [⟨s.now + 1800000, .transactionTimeout (.holder line ep)⟩] }) ∧
    (ep ∉ f.awaitEps → Stands (.transactionTimeout (.holder line ep)) s) ∧
    (mget? s.wb (l2Key die line) = none → Stands (.transactionTimeout (.back die line)) s) ∧
    ((mget? s.wb (l2Key die line)).isSome = true → ownLine s line = false → Answers (.transactionTimeout (.back die line)) s fun t =>
      Due s t 1800000 (.transactionTimeout (.back die line)) ∧ t.wb = s.wb) ∧
    (v.getLsbD 7 = false → Answers (.cellCfgWrite v) s fun t => CtlOnly s t [0x0200] ∧
      ctlField t 0x0200 31 1 = (if v.getLsbD 31 = true then 1 else 0) ∧
      ctlField t 0x0200 0 6 = (if lst s = 2 ∨ lst s = 3 then ctlField s 0x0200 0 6 else v.toNat % 64) ∧
      lst t = if v.getLsbD 31 = true ∧ (lst s = 0 ∨ lst s = 4 ∨ lst s = 5) then 1 else lst s) ∧
    (0 < lst s → lst s < 4 → ownedAway s = [] → (∃ e ∈ s.sess, e.2.flagged = false ∧ txPorts s e.1 ≠ []) →
      Answers .cellLeave s fun t => lst t = 3 ∧ Due s t 1 .cellLeave ∧ t.sess = s.sess ∧ CtlKept s t [0x0200]) ∧
    (0 < lst s → lst s < 4 → ownedAway s = [] → (∀ e ∈ s.wb, ownLine s (e.1 / 4) = true) → s.asks = [] → flightRefs s = [] →
      (∀ e ∈ s.sess, e.2.flagged = true ∨ txPorts s e.1 = []) →
      Answers .cellLeave s fun t => lst t = 4 ∧ t.sess = [] ∧ CtlKept s t [0x0200] ∧ t.mem = s.mem ∧ Logged s t 9 ∧
        (∀ e ∈ t.l2, ownLine s (e.1 / 4) = true ∨ e.2.st ≠ .s) ∧ (∀ e ∈ t.l1, ownLine s (e.1 / 320) = true)) ∧
    (lst s = 0 ∨ 4 ≤ lst s → Stands .cellLeave s) ∧
    (lst s = 1 → Answers .cellJoinComplete s fun t =>
      t = { logIn s t with ctl := t.ctl } ∧ CtlKept s t [0x0200] ∧ lst t = 2 ∧ Logged s t 9) ∧
    (lst s ≠ 1 → Stands .cellJoinComplete s) ∧
    (recoverLines s = [] → Answers (.recoveryEngineStart cell) s fun t =>
      t = { s with pending := s.pending ++ [⟨s.now + 1, .recoverySweepEnd⟩] }) ∧
    (recoverLines s = [line] → f.st = .m → f.pend = false → f.evicting = false → (∃ c ∈ s.sweepCells ++ s.queuedCells, c < 64 ∧ f.owner = c) →
      Answers (.recoveryEngineStart cell) s fun t => (∀ l, mgetD t.poison l false = (decide (l = line) || mgetD s.poison l false)) ∧
        (getFilt t line).st = .i ∧ (getFilt t line).vec = 0 ∧ t.mem = s.mem ∧
        ctlField t 0x0214 0 32 = min 0xFFFFFFFF (ctlField s 0x0214 0 32 + 1) ∧ Due s t 1 .recoverySweepEnd) ∧
    (Answers .recoverySweepEnd s fun t => t.sweepCells = s.queuedCells ∧ t.queuedCells = [] ∧ CtlKept s t [0x0210] ∧
      (s.queuedCells = [] → ctlField t 0x0210 30 2 = 0) ∧
      (∀ c cs, s.queuedCells = c :: cs → ctlField t 0x0210 30 1 = 0 ∧ Due s t 0 (.recoveryEngineStart c))) ∧
    (f.recovering = [] → Stands (.fwdrecTimeout line) s) ∧
    (∀ c, f.recovering = [c] → f.evicting = false → Answers (.fwdrecTimeout line) s fun t =>
      mgetD t.poison line false = true ∧ (getFilt t line).recovering = [] ∧ (getFilt t line).vec = 0 ∧ t.mem = s.mem)

/-- The cross-cell protocol (03 R57, R64 to R76, R80; 19 R451), where nothing else is in progress on the line. A home answers RdS with
the line and notes the cell as a sharer; it answers RdOwn with the line and notes the cell as its owner, unless the firewall
refuses that; WrBk of the owner makes memory current. Sharers and owners give up or pass on what they hold, and acknowledge to the
home. An offset that does not exist is refused. It rests on readings of the model: notes/assumptions 15, 16, 44 and 59. -/
def Obligations.CrossCellProtocol : Prop :=
  ∀ (s : State) (m : XMsg) (d : List Byte) (c k : Nat) (x : L2Line) (am : AtomicMsg) (v : Word),
    let line := m.line
    let home := line / 2 ^ 38 % 128
    let own : Prop := home = ownEp s
    let exists_ : Prop := line % 2 ^ 38 < 2 ^ 32
    let away : Prop := cellOf s m.src = some c ∧ c < 64 ∧ sameCell s m.src = false ∧ sessLive s m.src = true
    let f := getFilt s line
    let h := getHome s line
    let sound : Prop := s.errs = []
    let settled : Prop := f.way < waysOf s ∧ s.recallPage = none
    let memory (t : State) : List Byte := memLine t line
    let poisoned (t : State) : Bool := mgetD t.poison line false
    let f' (t : State) : FiltEntry := getFilt t line
    let xm (req : Nat) (data : Option (List Byte)) (own poison : Bool) : XMsg :=
      { line := line, src := ownEp s, req := req, data := data, own := own, poison := poison, page := false }
    let back : XMsg := { xm m.src none false false with die := m.die }
    let datum (own : Bool) : XMsg := { xm m.src (some (memory s)) own (poisoned s) with src := home, die := m.die }
    let refused (page : Bool) : XMsg := { xm m.src none m.own false with page := page, die := m.die }
    let memKept (t : State) : Prop := t.mem = s.mem ∧ t.poison = s.poison
    let homeLive : Prop := sessLive s home = true
    let acks (t : State) (z : Option (List Byte)) (poison : Bool) : Prop := AtPort t home (.ack (xm home z false poison))
    let gone (t : State) : Prop := (∀ e ∈ t.l2, e.1 / 4 ≠ line) ∧ ∀ e ∈ t.l1, e.1 / 320 ≠ line
    let od := ownerDie s line
    let i (n : Nat) : Instr := match n with
      | 0 => .rds m | 1 => .rdown m | 2 => .wrbk m | _ => .ack m
    (∀ n, n < 4 → ¬ own → Stands (i n) s) ∧ (¬ own → Stands (.cmpack m) s) ∧
    (own → ¬ exists_ → away → (Answers (.rds m) s fun t => AtPort t m.src (.refuse (refused true))) ∧
      Answers (.rdown m) s fun t => AtPort t m.src (.refuse (refused true))) ∧
    (own → exists_ → away → sound → LineFree s line → (mget? s.filt line).isSome = true → h.st = .i ∨ h.st = .s →
      Answers (.rds m) s fun t =>
        AtPort t m.src (.data (datum false)) ∧ (f' t).st = .s ∧ (f' t).vec = f.vec ||| cellBit c ∧ memKept t) ∧
    (own → exists_ → away → sound → LineFree s line → (mget? s.filt line).isSome = true → h.st = .i ∨ h.st = .s →
      ctlField s 0x0248 0 1 = 0 → mget? s.reps (line / 64) = none → f.host = 0 → (∀ k, k < 64 → f.vec.getLsbD k = true → k = c) →
      h.lastGrant = 0 → Answers (.rdown m) s fun t =>
        AtPort t m.src (.data (datum true)) ∧ (f' t).st = .m ∧ (f' t).owner = c ∧ (f' t).vec = cellBit c ∧
        (f' t).pend = true ∧ memKept t ∧ (∀ e ∈ t.l1, e.1 / 320 ≠ line) ∧ (getHome t line).st = .i) ∧
    (own → exists_ → away → ctlField s 0x0248 0 1 = 1 → ((fwEntry s line).1).getLsbD c = false → h.turn = none →
      Answers (.rdown m) s fun t => AtPort t m.src (.refuse (refused false)) ∧ t.filt = s.filt ∧ memKept t) ∧
    (own → away → mgetD s.recal (line / 2 ^ 29 % 8) false = true → Answers (.wrbk m) s fun t =>
      t = { s with pending := s.pending ++ [⟨s.now + 1, .wrbk m⟩] }) ∧
    (own → away → mgetD s.recal (line / 2 ^ 29 % 8) false = false → settled → m.data = some d → d.length = 128 → f.awaitEps = [] →
      (f.st = .m ∨ f.st = .o → f.hown = false → f.owner = c → Answers (.wrbk m) s fun t =>
        memory t = d ∧ poisoned t = m.poison ∧ AtPort t m.src (.cmp back) ∧ (f' t).vec = f.vec &&& ~~~ cellBit c ∧
        (f' t).st = (if f.vec &&& ~~~ cellBit c = 0 then .i else .s) ∧ ∀ y, y / 128 ≠ line → memByte t y = memByte s y) ∧
      (f.owner ≠ c → Answers (.wrbk m) s fun t => memKept t ∧ AtPort t m.src (.cmp back) ∧ t.filt = s.filt)) ∧
    (own → f.st ≠ .i → f.evicting = false → settled → Answers (.cmpack m) s fun t =>
      f' t = (if f.grantee = m.src then { f with pend := false } else f) ∧ memKept t) ∧
    (own → f.recovering = [] → f.orphan = false → f.evicting = false → settled → Answers (.ack m) s fun t =>
      (f' t).awaitEps = f.awaitEps.erase m.src ∧ (∀ z, m.data = some z → z.length = 128 → memory t = z ∧ poisoned t = m.poison) ∧
      (m.data = none → memKept t)) ∧
    (Answers (.inv m) s fun t => gone t ∧ memKept t ∧ (homeLive → acks t none false)) ∧
    (getL2 s od line = some x → x.st ≠ .s → sound → homeLive → m.req ≠ home → m.req ≠ ownEp s → sessLive s m.req = true →
      (Answers (.fwds m) s fun t => getL2 t od line = some { x with st := .o } ∧ acks t none false ∧
        AtPort t m.req (.data { xm m.req (some x.data) false x.poison with src := home, die := m.die })) ∧
      (Answers (.fwdown m) s fun t => gone t ∧ acks t none false ∧
        AtPort t m.req (.data { xm m.req (some x.data) true x.poison with src := home, die := m.die }))) ∧
    (getL2 s od line = some x → x.st ≠ .s → sound → homeLive →
      (m.req = home → (Answers (.fwds m) s fun t => getL2 t od line = some { x with st := .o } ∧ acks t (some x.data) x.poison) ∧
        Answers (.fwdown m) s fun t => gone t ∧ acks t (some x.data) x.poison) ∧
      Answers (.binv m) s fun t => gone t ∧ acks t (some x.data) x.poison) ∧
    (k < 4 → (∀ j, j < k → getL2 s j line = none) → getL2 s k line = some x → sound → homeLive → Answers (.fwdrec m) s fun t =>
      getL2 t k line = some x ∧ acks t (some x.data) x.poison) ∧
    (heldDirty s line = none → sound → homeLive → Answers (.fwds m) s fun t => t.l2 = s.l2 ∧ acks t none false) ∧
    (Answers (.cmp m) s fun t => t = { s with wb := t.wb } ∧ mget? t.wb (l2Key m.die line) = none ∧
      ∀ k, k ≠ l2Key m.die line → mget? t.wb k = mget? s.wb k) ∧
    (¬ own → NoWaiter s line → m.data = some d →
      let key (own : Bool) := askKey m.die line own
      (m.own = true → homeLive → Answers (.data m) s fun t => AtPort t home (.cmpack (xm home none true false)) ∧
        getL2 t m.die line =
          some { st := .m, wts := 0, rts := 0, data := d, poison := m.poison, got := s.cohSeq + 1, used := s.now } ∧
        mget? t.asks (key false) = none ∧ mget? t.asks (key true) = none) ∧
      (m.own = false → mget? s.asks (key false) ≠ none → getL2 s m.die line = none → Answers (.data m) s fun t =>
        getL2 t m.die line =
          some { st := .s, wts := 0, rts := 0, data := d, poison := m.poison, got := s.cohSeq + 1, used := s.now } ∧
        mget? t.asks (key false) = none)) ∧
    (own → Answers (.data m) s fun t => t = { s with cohSeq := s.cohSeq + 1 }) ∧
    (NoWaiter s line → Answers (.refuse m) s fun t => t = { s with asks := t.asks, refusals := t.refusals } ∧
      (∀ k, k < 4 → mget? t.asks (askKey k line true) = none ∧ (m.page = true → mget? t.asks (askKey k line false) = none)) ∧
      (m.page = true → mget? t.refusals line = some (.page, s.cohSeq)) ∧
      (m.page = false → t.refusals = if copiesRun s = true then mset s.refusals line (.firewall, s.cohSeq) else s.refusals)) ∧
    (f.evicting = false ∨ f.awaitEps = [] → Stands (.binvResendTimer line) s) ∧
    (f.evicting = true → f.awaitEps ≠ [] → Answers (.binvResendTimer line) s fun t => Due s t 1800000 (.binvResendTimer line) ∧
      ∀ e ∈ f.awaitEps, sessLive s e = true → AtPort t e (.binv (xm (ownEp s) none false false))) ∧
    (s.sfBusy = true → Answers (.sfCfgWrite v) s fun t => t = { s with pending := s.pending ++ [⟨s.now + 1, .sfCfgWrite v⟩] }) ∧
    (s.sfBusy = false → Answers (.sfCfgWrite v) s fun t =>
      CtlKept s t [0x0220, 0x0230] ∧ ctlField t 0x0220 0 5 = v.toNat % 32 ∧ memKept t ∧
      (s.recallPage = none → (∀ e ∈ s.filt, e.2.way < (if v.toNat % 32 = 0 ∨ 16 < v.toNat % 32 then 16 else v.toNat % 32)) →
        t.filt = s.filt ∧ t.sfBusy = false)) ∧
    (s.recallPage ≠ none → Stands .sfRecallGo s) ∧
    (s.recallPage = none → (∀ e ∈ s.filt, e.1 / 2 ^ 38 % 128 ≠ ownEp s ∧ e.2.way < waysOf s) → Answers .sfRecallGo s fun t =>
      t = { s with ctl := t.ctl } ∧ CtlKept s t [0x0230] ∧ ctlField t 0x0230 1 1 = 0) ∧
    (let page := ctlField s 0x022C 0 13 * 2 ^ 19 + ctlField s 0x0228 13 19
     s.recallPage = none → (line, f) ∈ s.filt → own → line % 2 ^ 38 / 64 = page → f.pend = true → Answers .sfRecallGo s fun t =>
      t.recallPage = some page ∧ ctlField t 0x0230 1 1 = 1) ∧
    (Answers .fwSync s fun t => t = { s with ctl := t.ctl, pending := s.pending ++ [⟨s.now, .fwSyncDone⟩] } ∧ CtlKept s t [0x0248] ∧
      ctlField t 0x0248 1 1 = 1) ∧
    (Answers .fwSyncDone s fun t => t = { s with ctl := t.ctl, fwCache := [] } ∧ CtlKept s t [0x0248] ∧ ctlField t 0x0248 1 1 = 0) ∧
    (let l := am.pa / 128
     let answers (t : State) (old : Option Dword) (e : Option Cause) : Prop := AtPort t am.src (.atomicResult am.tid old e)
     let n := tySize am.ty
     sessLive s am.src = true → l / 2 ^ 38 % 128 = ownEp s →
      (2 ^ 32 ≤ l % 2 ^ 38 → Answers (.homeAtomic am) s fun t => answers t none (some .page) ∧ t.l2 = s.l2 ∧ t.mem = s.mem) ∧
      (l % 2 ^ 38 < 2 ^ 32 → ctlField s 0x0248 0 1 = 0 → mget? s.reps (l / 64) = none → LineFree s l → sound →
        (getFilt s l).vec = 0 → (getFilt s l).host = 0 → (getHome s l).st.owned = false → (getHome s l).lastGrant = 0 →
        (mgetD s.poison l false = true → Answers (.homeAtomic am) s fun t => answers t none (some .poison) ∧ t.mem = s.mem) ∧
        (mgetD s.poison l false = false → am.pa % n = 0 → Answers (.homeAtomic am) s fun t =>
          let old := fieldB (memLine s l) (am.pa % 128) n
          answers t (some (BitVec.ofNat 64 old)) none ∧ (getHome t l).st = .i ∧ (∀ e ∈ t.l1, e.1 / 320 ≠ l) ∧
          memLine t l = patchB (memLine s l) (am.pa % 128) (leBytes n (atomicNew am.op am.ty old am.operand.toNat am.compare.toNat)) ∧
          ∀ y, y / 128 ≠ l → memByte t y = memByte s y)))

/-- The package protocol (04 R94 to R102, R106 to R109), where nothing else is in progress on the line. The home gives ownership to a
requester whose clock is past every lease, else a lease; it forwards to an owner what an owner holds, and the owner answers the
requester and the home; what comes back from an owner is memory's. An owner that writes back keeps the line until the home has it.
Items of an access that fail on the way fail in the lanes named. It rests on readings of the model: notes/assumptions 15, 51 and 52. -/
def Obligations.PackageProtocol : Prop :=
  ∀ (s : State) (m : DMsg) (d : List Byte) (x : L2Line) (a : Access) (r : AccRef) (die : Nat) (lanes : Mask) (cause : Cause) (addr : Dword),
    let line := m.line
    let home := line / 2 ^ 38 % 128
    let own : Prop := home = ownEp s
    let exists_ : Prop := line % 2 ^ 38 < 2 ^ 32
    let mate (y : DMsg) : DMsg := { y with src := .mate (ownEp s) }
    let blank : DMsg :=
      { line := line, src := .die 0, req := .die 0, toHome := false, pts := 0, wts := 0, rts := 0, grant := .s, data := none
        poison := false, lastGrant := 0 }
    let forIt : DMsg := { blank with die := m.die }
    let h := getHome s line
    let f := getFilt s line
    let h' (t : State) : HomeLine := getHome t line
    let mem (t : State) : List Byte := memLine t line
    let bad (t : State) : Bool := mgetD t.poison line false
    let memKept (t : State) : Prop := t.mem = s.mem ∧ t.poison = s.poison
    let room : Prop := (s.home.filter fun e => e.2.st.owned && sameOwnSet e.1 line).length < 16
    let free : Prop := LineFree s line
    let sound : Prop := s.errs = []
    let still : Prop := mgetD s.recal (line / 2 ^ 29 % 8) false = true
    let open_ : Prop := ctlField s 0x0248 0 1 = 0
    let homeward (t : State) (e : Ev) (y : Msg) : Prop := (own → Due s t 0 e) ∧ (¬ own → sessLive s home = true → AtPort t home y)
    let gives (t : State) (y : DMsg) : Prop :=
      let z : DMsg := { y with req := m.req }
      match m.req with
      | .die _ => homeward t (.ddata z) (.ddata (mate z))
      | .mate ep => ep ≠ ownEp s → sessLive s ep = true → AtPort t ep (.ddata (mate z))
    let acks (t : State) (y : DMsg) : Prop := homeward t (.dack y) (.dack (mate y))
    let later1 (i : Instr) (e : Ev) : Prop := Answers i s fun t => t = { s with pending := s.pending ++ [⟨s.now + 1, e⟩] }
    let refused (i : Instr) : Prop := Answers i s fun t =>
      let y (req die : Nat) : XMsg :=
        { line := line, src := ownEp s, req := req, data := none, own := false, poison := false, page := true, die := die }
      match m.req with
      | .die k => Due s t 0 (.refuse (y (ownEp s) k))
      | .mate ep => sessLive s ep = true → AtPort t ep (.refuse (y ep 0))
    let lease := grantLease s h.wts h.rts m.pts
    let g := grantLease s x.wts x.rts m.pts
    let here : Prop := ownerDie s line = die ∧ getL2 s die line = some x ∧ x.st ≠ .s ∧ sound
    let asked : Prop := mget? s.asks (askKey die line false) ≠ none
    (¬ own → Stands (.drds m) s ∧ Stands (.drdown m) s ∧ Stands (.dwrbk m) s) ∧
    (own → ¬ exists_ → refused (.drds m) ∧ refused (.drdown m)) ∧
    (own → exists_ → free → sound → open_ → h.st = .i ∨ h.st = .s → ∀ k, m.req = .die k → later m.pts h.rts = true → room →
      Answers (.drds m) s fun t =>
        gives t { forIt with wts := h.wts, rts := h.rts, grant := .e, data := some (mem s), poison := bad s, lastGrant := h.lastGrant } ∧
        (h' t).st = .e ∧ (h' t).owner = m.req ∧ memKept t) ∧
    (own → exists_ → free → sound → h.st = .i ∨ h.st = .s → (∃ ep, m.req = .mate ep) ∨ later m.pts h.rts = false →
      Answers (.drds m) s fun t =>
        gives t { forIt with wts := h.wts, rts := lease.1, grant := .s, poison := bad s, lastGrant := s.now + 1
                             data := if m.data.isSome = true ∧ m.wts = h.wts then none else some (mem s) } ∧
        (h' t).st = .s ∧ (h' t).rts = lease.2 ∧ (h' t).wts = h.wts ∧ (h' t).lastGrant = s.now + 1 ∧ memKept t) ∧
    (own → exists_ → free → sound → open_ → h.st = .i ∨ h.st = .s → mget? s.reps (line / 64) = none → f.host = 0 → f.vec = 0 → room →
      Answers (.drdown m) s fun t =>
        gives t { forIt with wts := h.wts, rts := h.rts, grant := .m, data := some (mem s), poison := bad s, lastGrant := h.lastGrant } ∧
        (h' t).st = .m ∧ (h' t).owner = m.req ∧ memKept t) ∧
    (own → exists_ → free → h.st = .e ∨ h.st = .m ∨ h.st = .o → (Answers (.drds m) s fun t =>
        let y : DMsg := { forIt with req := m.req, pts := m.pts, wts := m.wts, data := m.data }
        Toward s t h.owner (.dfwds y) (.dfwds (mate y)) ∧ memKept t ∧
        (h' t).fwd = some { own := false, recalls := false, req := m.req, toHome := false }) ∧
      (open_ → mget? s.reps (line / 64) = none → f.host = 0 → f.vec = 0 → Answers (.drdown m) s fun t =>
        let y : DMsg := { forIt with req := m.req, pts := m.pts }
        Toward s t h.owner (.dfwdown y) (.dfwdown (mate y)) ∧ memKept t ∧
        (h' t).fwd = some { own := true, recalls := false, req := m.req, toHome := false })) ∧
    (own → exists_ → ctlField s 0x0248 0 1 = 1 → ((fwEntry s line).1).getLsbD (ownCell s) = false → h.turn = none →
      Answers (.drdown m) s fun t => memKept t ∧ (h' t).st = h.st ∧
        ∀ k, m.req = .die k → Due s t 0 (.refuse { line := line, src := ownEp s, req := ownEp s, data := none, own := true
                                                   poison := false, page := false, die := k })) ∧
    (here → (Answers (.dfwds m) s fun t =>
        getL2 t die line = some { x with rts := g.2, lastGrant := s.now + 1, st := if x.st = .e then .s else .o } ∧ memKept t ∧
        (m.toHome = false → gives t { forIt with wts := x.wts, rts := g.1, grant := .s, poison := x.poison, lastGrant := s.now + 1
                                                 data := if m.data.isSome = true ∧ m.wts = x.wts then none else some x.data }) ∧
        acks t { blank with wts := x.wts, rts := g.2, grant := if x.st = .e then .s else .m, lastGrant := s.now + 1, poison := x.poison
                            data := if m.toHome = true then some x.data else none }) ∧
      (Answers (.dfwdown m) s fun t => getL2 t die line = none ∧ memKept t ∧
        (m.toHome = false → gives t { forIt with wts := x.wts, rts := x.rts, grant := .m, data := some x.data, poison := x.poison
                                                 lastGrant := x.lastGrant }) ∧
        acks t { blank with wts := x.wts, rts := x.rts, grant := .m, lastGrant := x.lastGrant, poison := x.poison
                            data := if m.toHome = true then some x.data else none }) ∧
      (own → Answers (.drecall m) s fun t => getL2 t die line = none ∧ mget? t.wb (l2Key die line) = some x ∧ memKept t ∧
        Due s t 0 (.dwrbk { blank with src := .die die, req := .die die, wts := x.wts, rts := x.rts, data := some x.data
                                       poison := x.poison, lastGrant := x.lastGrant, die := die }))) ∧
    (ownerLine s (ownerDie s line) line = none → sound →
      later1 (.dfwds m) (.dfwds m) ∧ later1 (.dfwdown m) (.dfwdown m) ∧ later1 (.drecall m) (.drecall m)) ∧
    (h.fwd = none → Stands (.dack m) s) ∧
    (∀ w : Fwd, h.fwd = some w → Answers (.dack m) s fun t => (h' t).fwd = none ∧ (h' t).rts = stampMax h.rts m.rts ∧
      (h' t).wts = stampMax h.wts m.wts ∧ (h' t).lastGrant = max h.lastGrant m.lastGrant ∧
      (h' t).st = (if w.own = true then (if w.toHome = true then .s else .m) else if m.grant = .s then .s else .o) ∧
      (w.own = true → w.toHome = false → (h' t).owner = w.req) ∧
      (w.toHome = false ∨ m.data = none → memKept t) ∧
      (w.toHome = true → w.own = true ∨ m.grant = .s → m.data = some d → d.length = 128 → mem t = d ∧ bad t = m.poison)) ∧
    (own → still → later1 (.dwrbk m) (.dwrbk m)) ∧
    (own → ¬ still → h.fwd = none ∨ (∃ w : Fwd, h.fwd = some w ∧ w.recalls = true) →
      let cmp (t : State) : Prop := let y : DMsg := { forIt with req := m.src }; Toward s t m.src (.dcmp y) (.dcmp (mate y))
      (h.st.owned = true → h.owner = m.src → m.data = some d → d.length = 128 → Answers (.dwrbk m) s fun t => cmp t ∧ mem t = d ∧
        bad t = m.poison ∧ (h' t).st = .s ∧ (h' t).fwd = none ∧ (h' t).rts = stampMax h.rts m.rts ∧
        ∀ y, y / 128 ≠ line → memByte t y = memByte s y) ∧
      (h.st.owned = false ∨ h.owner ≠ m.src → Answers (.dwrbk m) s fun t => cmp t ∧ memKept t ∧ (h' t).st = h.st)) ∧
    (dmsgDie s m = die → Answers (.dcmp m) s fun t => t = { s with wb := t.wb } ∧ mget? t.wb (l2Key die line) = none ∧
      ∀ k, k ≠ l2Key die line → mget? t.wb k = mget? s.wb k) ∧
    (dmsgDie s m = die → NoWaiter s line →
      let none_ (t : State) (w : Bool) : Prop := mget? t.asks (askKey die line w) = none
      (m.grant ≠ .s → m.data = some d → Answers (.ddata m) s fun t =>
        getL2 t die line = some { st := if m.grant = .e then .e else .m, wts := m.wts, rts := m.rts, data := d, poison := m.poison
                                  lastGrant := m.lastGrant, got := s.cohSeq + 1, used := s.now } ∧
        none_ t false ∧ none_ t true ∧ memKept t) ∧
      (m.grant = .s → asked → getL2 s die line = none → m.data = some d → Answers (.ddata m) s fun t =>
        getL2 t die line = some { st := .s, wts := m.wts, rts := m.rts, data := d, poison := m.poison
                                  lastGrant := m.lastGrant, got := s.cohSeq + 1, used := s.now } ∧ none_ t false ∧ memKept t) ∧
      (m.grant = .s → asked → getL2 s die line = some x → x.st = .s → m.data = none → Answers (.ddata m) s fun t =>
        getL2 t die line = some { st := .s, wts := m.wts, rts := m.rts, data := x.data, poison := m.poison
                                  lastGrant := m.lastGrant, got := s.cohSeq + 1, used := s.now } ∧ memKept t)) ∧
    (h.turn = none → h.held = [] → Stands (.leaseWaitEnd line) s) ∧
    (∀ e, h.turn = some e → h.fwd = none → f.awaitEps = [] → f.awaitHosts = [] → f.evicting = false → Answers (.leaseWaitEnd line) s fun t =>
      t = { s with pending := s.pending ++ [⟨s.now, e⟩] }) ∧
    (let hit (p : Piece) : Bool := (lanes.getLsbD p.lane || decide (p.lane = 32)) && decide (p.va.toNat / 128 = addr.toNat / 128)
     getAcc s r = some a → (∃ p ∈ a.pieces, p.isOpen = true ∧ hit p = false) → Answers (.itemFailReturn r lanes cause addr) s fun t =>
      getAcc t r = some { a with pieces := a.pieces.map fun p => if p.isOpen = true ∧ hit p = true then { p with failed := some cause } else p } ∧
      t = { s with ctxs := t.ctxs })

/-- Hosts (03 R91 to R93; 04 R109, R121; 05 R122 to R130). A port serves loads and stores of the lines of its extents, and a host that
reads a line holds it; a back-invalidation brings it back; a host that fails leaves poison where it held modified lines. An extent
is granted when it overlaps none and lies in range, and is free again once the host holds no line of it. A ticket written into a
command window is checked in the order of R128 and enqueued.
It rests on readings of the model: notes/assumptions 18, 87, 88, 89, 90, 91 and 92. -/
def Obligations.Hosts : Prop :=
  ∀ (s : State) (port width rate hoff line win off : Nat) (own cxl : Bool) (data d : List Byte) (v : Dword) (e : Extent),
    let serves : Prop := (mgetD s.ports port {}).up = true ∧ (mgetD s.ports port {}).cxl = true
    let bit := hostBit port
    let found : Prop := findExt s port hoff = some e
    let l := extLine s e hoff
    let f := getFilt s l
    let h := getHome s l
    let f' (t : State) : FiltEntry := getFilt t l
    let memKept (t : State) : Prop := t.mem = s.mem ∧ t.poison = s.poison
    let firewallOff : Prop := ctlField s 0x0248 0 1 = 0
    let read : Instr := .hostMemRead port hoff own
    let write : Instr := .hostMemWrite port hoff data
    let poisoned (i : Instr) : Prop := Answers i s fun t => ∃ b, t = { s with free := t.free, out := s.out ++ [.hostData port hoff b true] }
    let fails (i : Instr) : Prop := Answers i s fun t => t = { s with out := s.out ++ [.hostError port hoff] }
    let free : Prop := LineFree s l ∧ (h.st = .i ∨ h.st = .s) ∧ s.errs = []
    let alone : Prop := f.host &&& ~~~ bit = 0 ∧ f.vec = 0 ∧ mget? s.reps (l / 64) = none ∧ h.lastGrant = 0
    let has (t : State) (p k : Nat) : Prop := (getFilt t k).host &&& hostBit p ≠ 0
    let at_ := hoff % 128
    let bytes := data.take (128 - at_)
    let stored (t : State) : Prop := memLine t l = patchB (memLine s l) at_ bytes ∧ ∀ y, y / 128 ≠ l → memByte t y = memByte s y
    let fl := getFilt s line
    let failed (s t : State) : Prop := (∀ k, ¬ has t port k) ∧ ctlField t 0x0250 port 1 = 1 ∧ CtlKept s t [0x0230, 0x0250] ∧ t.mem = s.mem ∧
      t.hostWait = s.hostWait.filter (fun w => decide (w.1 ≠ port)) ∧ (∀ p ∈ t.pending, hostReq port p.ev = none) ∧
      ∀ k, mgetD t.poison k false = (mgetD s.poison k false || ((getFilt s k).hown && decide ((getFilt s k).host &&& bit ≠ 0)))
    let p := ctlField s 0x0600 5 1
    let i := ctlField s 0x0600 0 5
    let x := getExt s p i
    let hits (y : Extent) : Prop := y.state ≠ 0 ∧
      ((x.base.toNat < y.base.toNat + y.bytes ∧ y.base.toNat < x.base.toNat + x.bytes) ∨
       (x.hoff.toNat < y.hoff.toNat + y.bytes ∧ y.hoff.toNat < x.hoff.toNat + x.bytes))
    let overlaps : Prop := ∃ y ∈ s.extents, y.1 ≠ 32 * p + i ∧ hits y.2
    let out : Prop := x.size = 0 ∨ 65536 < x.size.toNat ∨ 2 ^ 39 < x.base.toNat + x.size.toNat * 2 ^ 23 ∨
      2 ^ 39 < x.hoff.toNat + x.size.toNat * 2 ^ 23
    let sets (t : State) (y : Extent) : Prop := getExt t p i = y ∧ ∀ a b, 32 * a + b ≠ 32 * p + i → getExt t a b = getExt s a b
    let w := getWin s port win
    let r := bindReg port win
    let enq : Instr := .cwEnq port win off data
    let up : Prop := port < 2 ∧ win < 64 ∧ (mgetD s.ports port {}).up = true
    let q := ctlField s r 42 6
    let code : Nat :=
      if ctlField s r 0 1 = 0 then 1 else if off ≠ 0 ∨ data.length ≠ 64 then 2 else if tkPinned data = true then 3
      else if tkClass data ≠ ctlField s r 36 6 then 4 else if ctlField s r 34 2 < tkPri data then 5
      else if tkShapeBad data = true then 6 else if qFull s q = true then 7 else 0
    (port < 2 → width ∈ [16, 8, 4] → rate ∈ [64, 32] → Answers (.hostLinkUp port width rate cxl) s fun t =>
      t = { s with ports := t.ports, free := s.free + 2 } ∧
      mgetD t.ports port {} = { up := true, width := width, rate := rate, cxl := cxl, ideOut := some (Config.ideKey s.free)
                                ideIn := some (Config.ideKey (s.free + 1)) } ∧ ∀ k, k ≠ port → mget? t.ports k = mget? s.ports k) ∧
    (2 ≤ port ∨ width ∉ [16, 8, 4] ∨ rate ∉ [64, 32] → Stands (.hostLinkUp port width rate cxl) s) ∧
    (¬ serves → Stands read s ∧ Stands write s) ∧
    (serves → findExt s port hoff = none → poisoned read ∧ Stands write s) ∧
    (serves → found →
      (e.state = 2 → h.turn ≠ some (.hostMemRead port hoff own) → fails read) ∧
      (e.state = 2 → h.turn ≠ some (.hostMemWrite port hoff data) → fails write) ∧
      (e.state = 1 → own = true → e.canWrite = false → poisoned read) ∧
      (e.state = 1 → e.canWrite = false → Stands write s) ∧
      (e.state = 1 → own = false → free → (mget? s.filt l).isSome = true → Answers read s fun t =>
        Out.hostData port hoff (memLine s l) (mgetD s.poison l false) ∈ t.out ∧ (f' t).host = f.host ||| bit ∧ (f' t).hown = false ∧
        (f' t).st = .s ∧ memKept t) ∧
      (e.state = 1 → own = true → e.canWrite = true → firewallOff → free → alone → (mget? s.filt l).isSome = true → Answers read s fun t =>
        Out.hostData port hoff (memLine s l) (mgetD s.poison l false) ∈ t.out ∧ (f' t).host = f.host ||| bit ∧ (f' t).hown = true ∧
        (f' t).st = .m ∧ memKept t ∧ ∀ y ∈ t.l1, y.1 / 320 ≠ l) ∧
      (e.state = 1 → e.canWrite = true → firewallOff → f.hown = true → has s port l → h.turn ≠ some (.hostMemWrite port hoff data) →
        let still : Prop := ownLine s l = true ∧ mgetD s.recal (l / 2 ^ 29 % 8) false = true
        (¬ still → Answers write s fun t => stored t ∧ t.filt = s.filt) ∧
        (still → Answers write s fun t => t = { s with pending := s.pending ++ [⟨s.now + 1, .hostMemWrite port hoff data⟩] })) ∧
      (e.state = 1 → e.canWrite = true → firewallOff → free → alone → Answers write s fun t => stored t ∧ ∀ y ∈ t.l1, y.1 / 320 ≠ l)) ∧
    (port ∉ fl.awaitHosts → Stands (.hostBinvAck port line (some d)) s ∧ Stands (.hostBinvAck port line none) s ∧
      Stands (.hostBinvTimeout port line) s) ∧
    (port ∈ fl.awaitHosts → fl.evicting = false →
      (Answers (.hostBinvAck port line none) s fun t => ¬ has t port line ∧ port ∉ (getFilt t line).awaitHosts ∧ memKept t) ∧
      (d.length = 128 → Answers (.hostBinvAck port line (some d)) s fun t => ¬ has t port line ∧ memLine t line = d ∧
        mgetD t.poison line false = false)) ∧
    ((∃ u ∈ s.pending, u.ev = .hostBinvTimeout port line) → Stands (.hostBinvTimeout port line) s) ∧
    (port < 2 → port ∈ fl.awaitHosts → (∀ u ∈ s.pending, u.ev ≠ .hostBinvTimeout port line) →
      Answers (.hostBinvTimeout port line) s fun t => failed s t ∧ t.ports = s.ports) ∧
    ((mgetD s.ports port {}).up = false → Stands (.hostLinkDown port) s) ∧
    (port < 2 → (mgetD s.ports port {}).up = true → Answers (.hostLinkDown port) s fun t => failed s t ∧ (mgetD t.ports port {}).up = false) ∧
    (x.state ≠ 0 → Answers .extGrant s fun t => t = { s with extents := t.extents } ∧ sets t { x with result := 3 }) ∧
    (x.state = 0 → overlaps → Answers .extGrant s fun t => t = { s with extents := t.extents } ∧ sets t { x with result := 1 }) ∧
    (x.state = 0 → ¬ overlaps → out → Answers .extGrant s fun t => t = { s with extents := t.extents } ∧ sets t { x with result := 2 }) ∧
    (x.state = 0 → ¬ overlaps → ¬ out → Answers .extGrant s fun t => t = { logIn s t with extents := t.extents } ∧ Logged s t 7 ∧
      sets t { x with state := 1, result := 0, canWrite := x.write }) ∧
    (x.state ≠ 1 → Answers .extRevoke s fun t => t = { s with extents := t.extents } ∧ sets t { x with result := 3 }) ∧
    (x.state = 1 → Answers .extRevoke s fun t => sets t { x with state := 2, result := 0 } ∧ Logged s t 7 ∧
      Due s t 1 (.extRevokeComplete p i) ∧ memKept t ∧
      ∀ k, ownEp s = k / 2 ^ 38 % 128 → x.base.toNat ≤ 128 * (k % 2 ^ 38) → 128 * (k % 2 ^ 38) < x.base.toNat + x.bytes → has s p k →
        p ∉ (getFilt s k).awaitHosts → Out.hostBInv p k ∈ t.out ∧ p ∈ (getFilt t k).awaitHosts) ∧
    (x.state ≠ 2 → Stands (.extRevokeComplete p i) s) ∧
    (x.state = 2 → extHeld s p x = [] → extAsked s p x = false → Answers (.extRevokeComplete p i) s fun t =>
      t = { s with extents := t.extents } ∧ sets t { x with state := 0 }) ∧
    (x.state = 2 → extHeld s p x ≠ [] ∨ extAsked s p x = true → Answers (.extRevokeComplete p i) s fun t =>
      Due s t 1 (.extRevokeComplete p i) ∧ t.extents = s.extents) ∧
    (¬ up → Stands enq s) ∧
    (up → 0x40 ≤ off →
      (off = 0x40 → data.length = 4 → Answers enq s fun t => t = { s with windows := t.windows } ∧
        getWin t port win = { w with refused := fieldB data 1 1, err := fieldB data 0 1 % 16 }) ∧
      (off ≠ 0x40 ∨ data.length ≠ 4 → Stands enq s)) ∧
    (up → off < 0x40 → code ≠ 0 → Answers enq s fun t => t = { s with windows := t.windows } ∧
      getWin t port win = { w with err := code, refused := min 0xFF (w.refused + 1) } ∧
      ∀ k, k ≠ 64 * port + win → mget? t.windows k = mget? s.windows k) ∧
    (up → off < 0x40 → code = 0 → Answers enq s fun t =>
      Queued s t q data (ctlField s r 48 16) 1 (some (64 * port + win, w.binding)) ∧ t.windows = s.windows) ∧
    (2 ≤ port ∨ 64 ≤ win → Stands (.cwBindWrite port win v) s) ∧
    (port < 2 → win < 64 → Answers (.cwBindWrite port win v) s fun t =>
      t = { s with ctl := t.ctl, windows := t.windows } ∧ CtlKept s t [r] ∧
      ctlField t r 0 1 = v.toNat % 2 ∧ ctlField t r 34 30 = v.toNat / 2 ^ 34 ∧
      getWin t port win = if ctlField s r 0 1 = 1 ∧ v.getLsbD 0 = false then { w with done := 0, binding := w.binding + 1 } else w)

/-! ## Scheduling and upkeep -/

/-- The distributor (06 R149 to R157, R162 to R165, R171 to R173). Of the queues that it may serve, the one of the highest priority
whose turn it is launches its next gang, on the window of cores with the fewest crews; a head that cannot be read or is invalid
stops its queue. A gang that no core can take for 2 µs falls back. A span that is over is counted once, and its record is
decremented as one atomic. It rests on readings of the model: notes/assumptions 98, 99, 101 and 104. -/
def Obligations.Dispatch : Prop :=
  ∀ (s z u : State) (q p id g : Nat) (w : List (Nat × Seat)) (qs : List Nat) (sp : Span) (tk : List Byte) (asid src : Nat)
    (rest : List (List Byte × Nat × Nat)) (got : Got) (d : List Byte),
    let tick := headTicket s q
    let pa := qEntryPa s q (qHead s q)
    let queue := getQueue s q
    let go : Instr := .dispatchDecision
    let readable : Prop := s.errs = [] ∧ ∀ k, k < 64 → queueOpen s k = true → (getQueue s k).head = none → headPoisoned s k = false
    let turn : Prop := readable ∧ p < 4 ∧ (∀ k, p < k → k < 4 → queuesAt s k = []) ∧ queuesAt s p = q :: qs
    let spanId := queue.head.getD s.nextSpan
    let before : Nat := (mget? s.spans spanId).elim 0 Span.launched
    let whole : Nat := (mget? s.spans spanId).elim (tkSpan tick) Span.total
    let starts (t : State) (c : Nat) (r : Room) : Prop :=
      let ls := if tkLskb tick = 0 then 0 else r.ls
      getFerry t c r.slot =
        { span := spanId, index := before, code := tkCode tick, frame := BitVec.ofNat 64 (tkFrame tick), crews := tkCrews tick
          regs := tkRegs tick, lsBase := ls, lsLen := 1024 * tkLskb tick, accTiles := r.acc, acc := tkAcc tick
          stride := tkStride tick, gangPos := 0, gangSize := 1, pri := tkPri tick, pinned := tkPinned tick
          crewSlots := r.crews, rows := r.rows } ∧
      r.crews.length = tkCrews tick ∧ r.rows.length = tkCrews tick * (tkRegs tick + 1) ∧ r.acc.length = tkAcc tick ∧
      (∀ k ∈ r.acc, getTile t c k = {}) ∧
      ∀ e ∈ r.crews.zipIdx,
        let x := getUnit t c e.1
        x.live = true ∧ x.exited = false ∧ x.ferry = r.slot ∧ x.num = e.2 ∧ x.s0 = { occ := true, off := 0, mask := 0xFFFFFFFF } ∧
        x.s1 = {} ∧ x.mode = 0x1000 ∧ x.v = [] ∧ x.q = [] ∧ x.stack = [] ∧ rdG x 0 = BitVec.ofNat 32 (tkFrame tick) ∧
        rdG x 1 = BitVec.ofNat 32 (tkFrame tick / 2 ^ 32) ∧ rdG x 2 = BitVec.ofNat 32 before ∧ rdG x 3 = BitVec.ofNat 32 ls ∧
        rdG x 4 = 256
    let launches (t : State) : Prop :=
      (∃ y, mget? t.spans spanId = some y ∧ y.launched = before + w.length ∧ y.total = whole ∧ ∀ e ∈ w, e.1 ∈ y.cores) ∧
      mget? t.rr p = some q ∧ t.mem = s.mem ∧
      (whole ≤ before + w.length → (getQueue t q).head = none ∧ ctlField t (qReg q 0xC) 0 16 = (qHead s q + 1) % qSize s q) ∧
      (before + w.length < whole → (getQueue t q).head = some spanId ∧ t.ctl = s.ctl ∧ (getQueue t q).since = s.now ∧
        Due s t 3600 (.gangFallbackTimer q))
    let served : Prop := turn ∧ headError s q = none ∧ chooseWindow s tick (gangSize s q) = some w
    let err (i : Instr) (code addr : Nat) : Prop := Answers i s fun t => t = { s with ctl := t.ctl, out := t.out } ∧ QueueErr s t q code addr
    let open_ : Prop := mget? s.spans id = some sp ∧ sp.abandoned = false ∧ sp.exited = sp.total
    let done : Instr := .spanComplete id
    let va := tkParent sp.ticket
    let joins : Prop := open_ ∧ va ≠ 0 ∧ spanVisible s sp = (true, z)
    let c := fieldB d 0 4
    let cont := fieldB d 8 8
    let found : Option (Option Nat) × State := spanPa z sp va 16 { r := true, w := true }
    let reads (at_ : Nat) : Prop := joins ∧ found.1 = some (some at_) ∧ engineGet found.2 0 none sp.asks at_ 16 = got
    let readsRecord (at_ : Nat) : Prop := reads at_ ∧ got.refused = none ∧ got.data = some (d, false)
    let again (y : State) : State := { y with pending := y.pending ++ [⟨y.now + 1, .spanComplete id⟩] }
    let isOver := spanOver z id sp
    let bad : Prop := tk.length ≠ 64 ∨ cont % 64 ≠ 0 ∨ tkInvalid tk = true ∨ tkCheck tk (tkClass sp.ticket) (tkPri sp.ticket) ≠ 0
    let next := continueWith z sp cont tk
    ((∀ k, k < 64 → queueOpen s k = false) → Stands go s) ∧
    (q < 64 → queueOpen s q = true → queue.head = none → headPoisoned s q = true →
      s.errs = [] →
      (∀ k, k < q → ¬ (queueOpen s k = true ∧ (getQueue s k).head = none ∧ headPoisoned s k = true)) → err go 1 pa) ∧
    (turn → queue.head = none →
      (tkInvalid tick = true → err go 2 pa) ∧ (tkInvalid tick = false → astValid s (tkAsid tick) = false → err go 3 pa)) ∧
    (served → (∀ e ∈ w, ∀ c, e.2 ≠ .release c) → Answers go s fun t => launches t ∧
      (∀ core c r, w = [(core, .join c r)] → starts t c r) ∧
      (∀ core b c cs r, w = [(core, .alloc b)] → freeSlots s = c :: cs → roomIn {} tick = some r → starts t c r ∧
        (getCtx t c).live = true ∧ (getCtx t c).place = .bank core b ∧ (getCtx t c).home = core ∧ (getCtx t c).asid = tkAsid tick ∧
        (getCtx t c).cls = tkClass tick)) ∧
    (∀ core c, served → w = [(core, .release c)] → Answers go s fun t => (getCtx t c).releasing = true ∧ (getCtx t c).halos = [] ∧
      t.spans = s.spans ∧ t.ctl = s.ctl ∧ ∃ b, Due s t 1 (.ctxReleaseDone core (ctxBank (getCtx s c)) b)) ∧
    (∀ c, readable → p < 4 → (∀ k, k ≠ p → k < 4 → queuesAt s k = []) → queuesAt s p = q :: qs → serveFirst s (q :: qs) = none →
      (∀ k, k < 320 → seatOn s tick k = none) → victimLeaves s q = false → hasSlot s = true → (roomIn {} tick).isSome = true →
      victim s tick = some c → Answers go s fun t => t = { s with ctxs := t.ctxs, queues := t.queues, pending := t.pending } ∧
        Due s t 1 (.streamOut c) ∧ (getCtx t c).leaving = true ∧ (getQueue t q).victim = some c) ∧
    (chooseWindow s tk g = some w → ∃ core n, core < 320 ∧ (g = 2 → core % 2 = 0) ∧ (3 ≤ g → core % 4 = 0) ∧ core % 80 + g ≤ 80 ∧
      windowSeats s tk core g = some (w, n) ∧
      ∀ k w' m, k < 320 → (g = 2 → k % 2 = 0) → (3 ≤ g → k % 4 = 0) → k % 80 + g ≤ 80 → windowSeats s tk k g = some (w', m) →
        (w'.filter fun e => e.2.needsSlot).length ≤ (freeSlots s).length → n < m ∨ (n = m ∧ core ≤ k)) ∧
    (qLen s q ≠ 0 → queue.since + 3600 ≤ s.now → Answers (.gangFallbackTimer q) s fun t =>
      t = { s with queues := t.queues } ∧ getQueue t q = { queue with fallback := true }) ∧
    (qLen s q = 0 ∨ s.now < queue.since + 3600 → Stands (.gangFallbackTimer q) s) ∧
    (mget? s.spans id = none → Stands done s) ∧
    (mget? s.spans id = some sp → sp.abandoned = true ∨ sp.exited ≠ sp.total → Stands done s) ∧
    (open_ → oldStoresOver s = false → exec done s = .next (again s)) ∧
    (open_ → spanVisible s sp = (false, z) → exec done s = .next (again z)) ∧
    (open_ → spanVisible s sp = (true, z) → va = 0 → exec done s = .next (spanOver z id sp)) ∧
    (joins → found.1 = some none → exec done s = .next (spanOver (qError found.2 sp.queue 8 va) id sp)) ∧
    (joins → found.1 = none → exec done s = .next (again { found.2 with spans := mset found.2.spans id sp })) ∧
    (∀ at_, reads at_ → got.refused ≠ none ∨ (∃ d, got.data = some (d, true)) →
      exec done s = .next (spanOver (qError got.st sp.queue 8 va) id sp)) ∧
    (∀ at_, readsRecord at_ →
      (c = 0 → exec done s = .next (spanOver (qError got.st sp.queue 4 va) id sp)) ∧
      (2 ≤ c ∨ (c = 1 ∧ cont = 0) → enginePut got.st 0 none (.span id) at_ (leBytes 4 (c - 1)) = (.done, u) →
        exec done s = .next (spanOver u id sp)) ∧
      (∀ v y, c = 1 → cont ≠ 0 → contRead got.st { sp with asks := got.asks } cont = (some tk, v, y) →
        enginePut v 0 none (.span id) at_ (leBytes 4 0) = (.done, u) → exec done s = .next (spanOver (continueWith u sp cont tk) id sp))) ∧
    (mget? isOver.spans id = none ∧ (∀ k, k ≠ id → mget? isOver.spans k = mget? z.spans k) ∧ isOver.mem = z.mem ∧ isOver.ctl = z.ctl ∧
      (∀ a ∈ sp.standing, Due z isOver 0 (.hbarArrival { a with kind := .discard })) ∧
      (sp.window = none ∨ va ≠ 0 → isOver.windows = z.windows ∧ isOver.out = z.out) ∧
      ∀ k b, sp.window = some (k, b) → va = 0 → (mgetD z.windows k {}).binding = b → ctlField z (0x0C00 + 8 * k) 0 1 = 1 →
        (mgetD isOver.windows k {}).done = (mgetD z.windows k {}).done + 1 ∧
        isOver.out = z.out ++ (if tkNotify sp.ticket = true ∧ (mgetD z.ports (k / 64) {}).up = true
          then [.msix (k / 64) (ctlField z (0x0C00 + 8 * k) 23 11)] else [])) ∧
    (bad → QueueErr z next sp.queue 5 va ∧ next.queues = z.queues) ∧
    (¬ bad → qFull z sp.queue = false → (getQueue z sp.queue).conts = [] → Queued z next sp.queue tk sp.asid 3 none) ∧
    (¬ bad → qFull z sp.queue = true → (getQueue next sp.queue).conts = (getQueue z sp.queue).conts ++ [(tk, sp.asid, 3)] ∧
      Due z next 1800 (.continuationRetry sp.queue) ∧ next.ctl = z.ctl ∧ next.mem = z.mem) ∧
    (queue.conts = [] → Stands (.continuationRetry q) s) ∧
    (queue.conts = (tk, asid, src) :: rest →
      (qFull s q = true → Answers (.continuationRetry q) s fun t =>
        t = { s with pending := s.pending ++ [⟨s.now + 1800, .continuationRetry q⟩] }) ∧
      (qFull s q = false → Answers (.continuationRetry q) s fun t => Queued s t q tk asid src none ∧ (getQueue t q).conts = rest))

/-- Contexts on a core (05 R144; 06 R153, R160, R161, R166 to R171). The active context changes at a switch point only: to the best of those
that wait, which has the highest priority and has waited longest. A context streams out, and in again at a free bank; the
supervisor submits and skips tickets, and releases an empty or halted context, whose storage is then zero.
It rests on readings of the model: notes/assumptions 105, 106, 107, 108 and 114. -/
def Obligations.ContextsAndQueues : Prop :=
  ∀ (s : State) (core c b q pa cls bank : Nat) (cs : List Nat) (ok : Bool) (v : Word),
    let x := getCtx s c
    let active (t : State) : Option Nat := (getCore t core).active
    let point : Prop := atSwitchPoint s core = true
    let waiting := waitingCtxs s core
    let higher := readyWaiting s core fun y => decide (activePri s core < ctxPri y)
    let anyReady := readyWaiting s core fun _ => true
    let long := readyWaiting s core fun y => decide (ctxPri y = activePri s core) && decide (y.since + 18000 ≤ s.now)
    let entered (t : State) (k : Nat) : Prop := active t = some k ∧ (getCore t core).idleSince = none ∧ (getCtx t k).preempted = false ∧
      (getCtx t k).lastUsed = s.now ∧ t = { s with ctxs := t.ctxs, cores := t.cores, pending := t.pending } ∧
      (∀ o, active s = some o → o ≠ k → getCtx t o = { getCtx s o with since := s.now, lastUsed := s.now }) ∧
      (∀ o, o ≠ core → getCore t o = getCore s o) ∧ (∀ o j, o ≠ k → getUnit t o j = getUnit s o j) ∧
      ∀ j, getUnit t k j = mapSlots (getUnit s k j) fun y => match y.hold with
        | .mint _ => { y with hold := .none, waited := false, stage := 0 }
        | _ => y
    let sw : Instr := .contextSwitch core
    let at_ : Prop := x.place = .bank core b ∧ x.live = true ∧ x.releasing = false
    let out : Instr := .streamOut c
    let a := pa / 64 % 2 ^ 46 * 64
    let tk := hwRead s a 64
    let refuse : Prop := tkShapeBad tk = true ∨ (lineNow s (a / 128)).2 = true ∨ qFull s q = true
    let k := v.toNat / 4 % 512
    let n := v.toNat % 4
    let go : Instr := .ctxRelGo v
    let no : Prop := Answers go s fun t => CtlOnly s t [0x0A00] ∧ ctlField t 0x0A00 28 3 = 1
    let fit (y : Ctx) : Prop := isResident y = true ∧ y.releasing = false ∧ (y.ferries = [] ∨ y.halted = true)
    let lo := ctlGet s 0x2210 + 2 ^ 20 * c
    let rel : Instr := .ctxReleaseDone core bank ok
    let held : Prop := bankCtx s core bank = some c ∧ x.releasing = true
    let z := flushCore s core
    let limit := 1024 * ctlField s (0x2000 + 8 * cls) 0 24
    let used := mgetD s.charge cls 0
    let unlimited : Prop := ctlField s (0x2000 + 8 * cls) 0 24 = 0xFFFFFF
    (¬ point → Stands sw s) ∧
    (point → mustLeave s core = true → (∀ k, bestCtx s waiting = some k → Answers sw s fun t => entered t k) ∧
      (bestCtx s waiting = none → (active s = none → Stands sw s) ∧
        (∀ o, active s = some o → Answers sw s fun t => active t = none ∧ getCtx t o = { getCtx s o with since := s.now, lastUsed := s.now }))) ∧
    (point → mustLeave s core = false → (staysPinned s core = true ∨ higher = [] → Stands sw s) ∧
      (staysPinned s core = false → ∀ k, bestCtx s higher = some k → Answers sw s fun t => entered t k)) ∧
    (idleDue s core = false ∨ ¬ point → Stands (.activeIdleTimeout core) s) ∧
    (idleDue s core = true → point → ∀ k, bestCtx s anyReady = some k → Answers (.activeIdleTimeout core) s fun t => entered t k) ∧
    (staysPinned s core = true ∨ ¬ point ∨ long = [] → Stands (.residentWaitTimeout core) s) ∧
    (staysPinned s core = false → point → ∀ k, bestCtx s long = some k → Answers (.residentWaitTimeout core) s fun t => entered t k) ∧
    (∀ k, bestCtx s cs = some k → k ∈ cs ∧ ∀ o ∈ cs, ctxPri (getCtx s o) < ctxPri (getCtx s k) ∨
      (ctxPri (getCtx s o) = ctxPri (getCtx s k) ∧ (getCtx s k).since ≤ (getCtx s o).since)) ∧
    (at_ → active s = some c → point → Answers out s fun t => active t = bestCtx s waiting ∧ Due s t 1 (.streamOut c) ∧ (getCtx t c).leaving = true) ∧
    (at_ → (active s = some c ∧ ¬ point) ∨ (active s ≠ some c ∧ (streaming s core = true ∨ streamReady s c core = false)) →
      Answers out s fun t => t = { s with ctxs := t.ctxs, pending := s.pending ++ [⟨s.now + 1, .streamOut c⟩] } ∧ getCtx t c = { x with leaving := true }) ∧
    (at_ → active s ≠ some c → streaming s core = false → streamReady s c core = true → Answers out s fun t =>
      t = { s with ctxs := t.ctxs, pending := s.pending ++ [⟨s.now + 1, .streamComplete c⟩] } ∧
      getCtx t c = { x with leaving := true, place := .streamOut core b }) ∧
    (x.place = .streamIn core b → Answers out s fun t => t = { s with pending := s.pending ++ [⟨s.now + 1, .streamOut c⟩] }) ∧
    (x.place = .saved ∨ x.place = .streamOut core b ∨ (x.place = .bank core b ∧ (x.live = false ∨ x.releasing = true)) → Stands out s) ∧
    (mayStreamIn s c core = true → freeBank s core = some b → Answers (.streamIn c core) s fun t =>
      t = { s with ctxs := t.ctxs, pending := s.pending ++ [⟨s.now + 1, .streamComplete c⟩] } ∧
      getCtx t c = { x with place := .streamIn core b, home := core, leaving := false }) ∧
    (mayStreamIn s c core = false ∨ freeBank s core = none → Stands (.streamIn c core) s) ∧
    (x.place = .streamOut core b → Answers (.streamComplete c) s fun t => t = { s with ctxs := t.ctxs } ∧ (getCtx t c).place = .saved ∧
      (getCtx t c).leaving = false ∧ (getCtx t c).since = s.now ∧
      getCtx t c = { x with place := .saved, leaving := false, since := s.now, units := (getCtx t c).units } ∧
      ∀ u, getUnit t c u = { getUnit s c u with lp := [] }) ∧
    (x.place = .streamIn core b → Answers (.streamComplete c) s fun t => t = { s with ctxs := t.ctxs } ∧
      getCtx t c = { x with place := .bank core b, since := s.now }) ∧
    (x.place = .saved ∨ x.place = .bank core b → Stands (.streamComplete c) s) ∧
    (refuse → Answers (.qSubmit q pa) s fun t => t = { s with ctl := t.ctl, out := t.out } ∧ QueueErr s t q 7 a) ∧
    (¬ refuse → Answers (.qSubmit q pa) s fun t => Queued s t q tk (ctlField s (qReg q 0x18) 0 16) 0 none) ∧
    (qOn s q = true ∨ qLen s q = 0 → Stands (.qSkip q) s) ∧
    (qOn s q = false → qLen s q ≠ 0 → Answers (.qSkip q) s fun t => CtlKept s t [qReg q 0xC] ∧
      ctlField t (qReg q 0xC) 0 16 = (qHead s q + 1) % qSize s q ∧ ctlField t (qReg q 0xC) 16 16 = ctlField s (qReg q 0xC) 16 16 ∧ (getQueue t q).head = none ∧
      t = { s with ctl := t.ctl, queues := t.queues, pending := t.pending }) ∧
    (s.relReg ≠ none ∨ n = 3 → Stands go s) ∧
    (s.relReg = none → n ≠ 3 → bankCtx s k n = none → no) ∧
    (∀ y, s.relReg = none → n ≠ 3 → bankCtx s k n = some y → (¬ fit (getCtx s y) → no) ∧
      (fit (getCtx s y) → Answers go s fun t => t.relReg = some y ∧ (getCtx t y).releasing = true ∧ (getCtx t y).halos = [] ∧
        ctlField t 0x0A00 28 3 = 0 ∧ ctlField t 0x0A00 0 11 = v.toNat % 2048 ∧ (∃ o, Due s t 1 (.ctxReleaseDone k n o)) ∧ t.mem = s.mem ∧
        (∀ e ∈ (getCtx s y).ferries, ∀ sp, mget? s.spans e.2.span = some sp →
          (∃ sp', mget? t.spans e.2.span = some sp' ∧ sp'.abandoned = true) ∧ (sp.abandoned = false → Out.queueIrq sp.queue 6 ∈ t.out)) ∧
        ∀ e, (getEntry s (getCtx s y).home e).ctx = y → (getEntry t (getCtx s y).home e).state ≠ .live)) ∧
    ((∀ y, bankCtx s core bank = some y → (getCtx s y).releasing = false) → Stands rel s) ∧
    (held → releaseReady s c core = false → Answers rel s fun t => t = { s with pending := s.pending ++ [⟨s.now + 1, .ctxReleaseDone core bank ok⟩] }) ∧
    (held → releaseReady s c core = true → dirtyLines z core ≠ [] → exec rel s =
      .next { z with pending := z.pending ++ [⟨z.now + 1, .ctxReleaseDone core bank ok⟩] }) ∧
    (held → releaseReady s c core = true → dirtyLines z core = [] → Answers rel s fun t =>
      (getCtx t c).live = false ∧ (∀ o, o ≠ c → getCtx t o = getCtx z o) ∧
      (∀ y, lo ≤ y → y < lo + 2 ^ 20 → memByte t y = 0) ∧
      (ok = true ∨ fltOn z (dieOf core) = false → ∀ y, y < lo ∨ lo + 2 ^ 20 ≤ y → memByte t y = memByte z y) ∧
      (∀ e ∈ t.l1, e.2.ctx ≠ c) ∧ (∀ e ∈ (getCore t x.home).landing, e.2.ctx ≠ c) ∧ (active z = some c → active t = none) ∧
      Logged z t (if ok = true then 3 else 4) ∧ t.withheld = (if ok = true then z.withheld else addOnce z.withheld (4 * core + bank)) ∧
      (z.relReg = some c → t.relReg = none ∧ ctlField t 0x0A00 30 1 = 1 ∧ (ok = false → ctlField t 0x0A00 29 1 = 1)) ∧
      (z.relReg ≠ some c → t.relReg = z.relReg)) ∧
    (Answers .schedPeriodBoundary s fun t => t = { s with charge := t.charge, ctxs := t.ctxs, pending := t.pending } ∧
      Due s t (1800 * max 10 (min 1000 (ctlField s 0x2200 0 16))) .schedPeriodBoundary ∧
      (cls < 64 → mgetD t.charge cls 0 = if unlimited then 0 else used - limit) ∧
      (x.cls = cls → (getCtx t c).preempted =
        (x.preempted || (x.live && decide (¬ unlimited ∧ limit ≤ used) && !ctxPinned x)) ∧ (getCtx t c).units = x.units))

/-- Translations, replicas, clocks, leases and fused quads (04 R97 to R99, R105, R110 to R112; 07 R205; 09 R240, R246, R247, R255). A walk
fills the core's TLB; a sweep drops what it covers at once and is over when the accesses in flight are. Armed pages are copied and
become valid unless a write came first; a collapse ends the replica. Clocks more than 2^40 behind are raised.
It rests on readings of the model: notes/assumptions 109, 110, 111 and 121. -/
def Obligations.Upkeep : Prop :=
  ∀ (s : State) (core ctx id idx page die q : Nat) (va : Dword) (v : Word) (x : Xlat) (k : Collapse) (w : Sweep) (ws : List Sweep),
    let z : State := { s with free := s.free + 1 }
    let asks_ : Option Hint := (getCtx s ctx).hints.find? fun h => decide (h.lanes.head?.map Prod.snd = some va)
    let walk_ := walkVia z (dieOf core) (getCtx s ctx).asid (getCtx s ctx).cls va (needOf ((Config.freeDword s.free).toNat % 4))
    let sound : Prop := s.errs = []
    let scope := v.toNat / 2 ^ 18 % 4
    let size := v.toNat / 2 ^ 16 % 4
    let target := v.toNat % 2 ^ 16
    let hit := sweepHits scope size target (ctlGet s 0x2400)
    let reg (t : State) (off : Nat) (lo : Nat) : Nat := ctlField t off lo 1
    let arm := v.toNat % 4096
    let entry (n : Nat) : Nat := ctlGet s 0x2420 + 64 * n
    let first := hwNat s (entry arm) 8 / 2 ^ 13 % 2 ^ 39
    let later_ (t : State) (d : Nat) (e : Ev) : Prop := t = { s with pending := s.pending ++ [⟨s.now + d, e⟩] }
    let high := s.cores.foldl (fun m e => stampMax m e.2.lc) 0
    let old := max 1 (ctlField s 0x0300 0 6)
    let fuse := 0x0330 + 4 * die
    let bit (t : State) (n : Nat) : Bool := (ctlD t fuse).getLsbD n
    let changes (n : Nat) : Prop := bit s n ≠ v.getLsbD n
    let n64 := v.toNat % 64
    (asks_ = none → sound →
      (walk_ = .ok x → Answers (.walkComplete core ctx va) s fun t =>
        t = { z with cores := t.cores, walkCache := t.walkCache, walkAsks := t.walkAsks } ∧ (getCore t core).tlb.head? = some x ∧
        (∀ y ∈ (getCore t core).tlb, y = x ∨ y ∈ (getCore s core).tlb) ∧ (getCore t core).tlb.length ≤ 4096) ∧
      (∀ c n, walk_ = .bad c n → Answers (.walkComplete core ctx va) s fun t => t = { z with walkAsks := t.walkAsks }) ∧
      (∀ l, walk_ = .waits l → Answers (.walkComplete core ctx va) s fun t => Due s t 1 (.walkComplete core ctx va) ∧ t.mem = s.mem)) ∧
    (∀ h, asks_ = some h → exec (.walkComplete core ctx va) s =
      .next (runHints (modCtx s ctx fun x => { x with hints := x.hints.erase h }) ctx h.unit h.size h.resid
        (h.lanes.map fun l => { lane := l.1, ea := l.2 }))) ∧
    (Answers (.xlatInvGo v) s fun t => CtlKept s t [0x2408] ∧ ctlField t 0x2408 0 20 = v.toNat % 2 ^ 20 ∧ reg t 0x2408 31 = 1 ∧
      t.mem = s.mem ∧ (reg s 0x2408 31 = 1 → t = { s with ctl := t.ctl }) ∧
      (reg s 0x2408 31 = 0 → Due s t 1 (.sweepComplete s.nextSweep) ∧
        (∀ n, ∀ y ∈ (getCore t n).tlb, hit y = false) ∧
        (∀ y ∈ t.walkCache, sweepTable scope size target (ctlGet s 0x2400) y = false) ∧
        ∀ c u l y, mget? (getUnit t c u).lp l = some y → sweepLane scope size target (ctlGet s 0x2400) y = false)) ∧
    ((∀ y ∈ s.sweeps, y.id ≠ id) → Stands (.sweepComplete id) s) ∧
    (s.sweeps = w :: ws → w.id = id → sweepOver s w = true → Answers (.sweepComplete id) s fun t =>
      t = { s with sweeps := ws, ctl := t.ctl } ∧ (w.reg = true → reg t 0x2408 31 = 0) ∧ (w.reg = false → t.ctl = s.ctl)) ∧
    (s.sweeps.find? (fun y => decide (y.id = id)) = some w → sweepFirst s w = false ∨ sweepOver s w = false →
      Answers (.sweepComplete id) s fun t => later_ t 1 (.sweepComplete id)) ∧
    (reg s 0x2428 31 = 1 → Stands (.repArmGo v) s) ∧
    (reg s 0x2428 31 = 0 → Answers (.repArmGo v) s fun t => reg t 0x2428 31 = 1 ∧ reg t 0x2428 29 = 0 ∧ CtlKept s t [0x2428] ∧
      t.arming = some (arm, false) ∧ Due s t 1 (.replicaArmDone arm) ∧ mget? t.reps first = some arm ∧
      (∀ p, mget? t.reps p = some arm → p = first ∨ (first % 1024 = 0 ∧ first ≤ p ∧ p < first + 1024)) ∧ t.mem = s.mem) ∧
    ((∀ b, s.arming ≠ some (idx, b)) → Stands (.replicaArmDone idx) s) ∧
    (s.arming = some (idx, true) → Answers (.replicaArmDone idx) s fun t => t = { s with ctl := t.ctl, reps := t.reps, arming := none } ∧
      CtlKept s t [0x2428] ∧ reg t 0x2428 31 = 0 ∧ reg t 0x2428 29 = 1 ∧ ∀ p, mget? t.reps p ≠ some idx) ∧
    (s.arming = some (idx, false) → sound → (∀ p ∈ repPages s idx, ∀ l ∈ pageLines p, homeHas s l = true) →
      Answers (.replicaArmDone idx) s fun t => t.arming = none ∧ CtlKept s t [0x2428] ∧ reg t 0x2428 31 = 0 ∧ t.reps = s.reps ∧
        (s.home = [] → hwNat t (entry idx + 0x16) 2 = 1)) ∧
    ((∀ y ∈ s.collapses, y.page ≠ page ∨ y.swept = true) → Stands (.replicaCollapseDone page) s) ∧
    (s.collapses.find? (fun y => decide (y.page = page) && !y.swept) = some k →
      (collapseSwept s k.idx = false → Answers (.replicaCollapseDone page) s fun t => later_ t 1 (.replicaCollapseDone page)) ∧
      (collapseSwept s k.idx = true → (∀ r ∈ s.repQueue, r ≠ k.idx ∧ homeDie (64 * repPage s r) ≠ homeDie (64 * page)) →
        Answers (.replicaCollapseDone page) s fun t => CtlKept s t [0x0308, 0x0310, 0x0314] ∧
        (repWaits s k.idx = [] → (∀ p, mget? t.reps p ≠ some k.idx) ∧ ∀ y ∈ t.collapses, y.idx ≠ k.idx) ∧
        (repWaits s k.idx ≠ [] → t.reps = s.reps ∧ ∀ y ∈ t.collapses, y.idx = k.idx → y.swept = true) ∧
        ctlField t 0x0308 0 31 = min (2 ^ 31 - 1) (ctlField s 0x0308 0 31 + 1) ∧
        reg t 0x0308 31 = (if ∀ y ∈ t.collapses, y.swept = true then 0 else 1) ∧ ctlGet t 0x0310 = 8192 * page % 2 ^ 32 ∧
        ctlGet t 0x0314 = 8192 * page / 2 ^ 32 % 2 ^ 20 ∧ (s.home = [] → hwNat t (entry k.idx + 0x16) 2 = 2))) ∧
    (Answers (.logicalClockTick core) s fun t => t = { s with cores := t.cores } ∧
      getCore t core = { getCore s core with lc := clk s core + 1 } ∧ ∀ n, n ≠ core → getCore t n = getCore s n) ∧
    (Answers .clockSync s fun t => Due s t 4096 .clockSync ∧ t.mem = s.mem ∧ t.ctl = s.ctl ∧ t.ctxs = s.ctxs ∧
      (core < 320 → clk t core =
        if (high - clk s core).toNat < 2 ^ 47 ∧ 2 ^ 40 < (high - clk s core).toNat then high - 2 ^ 40 else clk s core) ∧
      (∀ e ∈ t.l2, e ∈ s.l2 ∨ ∃ o ∈ s.l2, o.1 = e.1 ∧ o.2.st = e.2.st ∧ o.2.data = e.2.data ∧ o.2.st ≠ .s) ∧
      (∀ e ∈ t.l2, e.2.st = .s → farBehind (lowClock t (e.1 % 4)) e.2.rts = false) ∧
      ∀ m, m < 8 → mgetD t.mts m 0 = keepUp (lowClock t (m / 2)) (mgetD s.mts m 0)) ∧
    (max 1 n64 = old → Answers (.cohCfgWrite v) s fun t => CtlOnly s t [0x0300] ∧ ctlField t 0x0300 0 6 = n64) ∧
    (max 1 n64 ≠ old → Answers (.cohCfgWrite v) s fun t => CtlKept s t [0x0300] ∧ ctlField t 0x0300 0 6 = n64 ∧
      t = { s with ctl := t.ctl, oldLease := some (max old (s.oldLease.getD 0)), pending := t.pending } ∧
      Due s t (64 * old) .leaseTransitionEnd) ∧
    ((∃ y ∈ s.pending, y.ev = .leaseTransitionEnd) → Stands .leaseTransitionEnd s) ∧
    ((∀ y ∈ s.pending, y.ev ≠ .leaseTransitionEnd) → exec .leaseTransitionEnd s = .next { s with oldLease := none }) ∧
    (4 ≤ die → Stands (.quadFuseWrite die v) s) ∧
    (die < 4 → Answers (.quadFuseWrite die v) s fun t => t = { s with ctl := t.ctl, l1 := t.l1 } ∧ CtlKept s t [fuse] ∧
      (q < 20 → bit t q = (if quadUsed s die q = true then bit s q else v.getLsbD q)) ∧
      (q < 20 → changes q → quadUsed s die q = false → ∀ e ∈ t.l1, inQuad die q (e.1 % 320) = false) ∧
      ((∃ n, n < 20 ∧ changes n ∧ quadUsed s die n = true) → bit t 31 = true) ∧
      ((∀ n, n < 20 → changes n → quadUsed s die n = false) → bit t 31 = (bit s 31 && !v.getLsbD 31)))

/-- Taking an exception (13 R321 to R325, R327, R329, R330, R332, R336). A fault of a crew goes to its handler once the crew's
accesses have completed: the $trap registers take the record, the other slot is suspended, and the slot goes to the handler's
offset with its mask. One that only the supervisor takes is recorded in the die's ring, and its slot is held, or its context
halts; one in a handler goes to the supervisor. The supervisor retries, reflects, halts and resumes.
It rests on readings of the model: notes/assumptions 56, 112 and 113. -/
def Obligations.FaultsTaken : Prop :=
  ∀ (s : State) (c u core bank die : Nat) (f : PendingFault) (o : Word) (r : List Byte) (rs : List (List Byte)),
    let x := getCtx s c
    let t0 := getUnit s c u
    let raised := raiseFault s c u f
    let calm : Prop := t0.flight = [] ∧ (t0.chainLeft = 0 ∨ t0.chainSlot = f.slot) ∧ t0.entering = []
    let stays := t0.late.filter fun g =>
      !(g.record.skid.getLsbD 12 && decide ((slotOf t0 f.slot).mask &&& g.record.lanes ≠ 0) && decide (f.age < t0.issued))
    let handler (z : Ctx) (t1 : Thread) : Prop := handlerOff z (getFerry s c t1.ferry) = some o
    let inHandler : Prop := t0.inh = true ∧ t0.inhSlot = f.slot
    let entered (t : State) (t1 : Thread) (g : PendingFault) : Prop :=
      getUnit t c u = { putSlot t1 g.slot { slotOf t1 g.slot with off := o, hold := .none, waited := false, stage := 0 } with
        trap := g.record, inh := true, inhSlot := g.slot, chain := 0, chainLeft := 0 }
    let others (t : State) : Prop := (∀ k, k ≠ u → getUnit t c k = getUnit s c k) ∧ (∀ k, k ≠ c → getCtx t k = getCtx s k)
    let d := dieOf (ctxCore x)
    let on : Prop := fltOn s d = true
    let stands (t : State) (h : Hold) : Prop := slotOf (getUnit t c u) f.slot = { slotOf t0 f.slot with off := f.record.off, hold := h }
    let record (t : State) (dd : Nat) (b : List Byte) : Prop :=
      let ptr := 0x260C + 0x20 * dd
      let size := 2 ^ max 6 (min 12 (ctlField s (0x2608 + 0x20 * dd) 16 5))
      let tail := ctlField s ptr 16 16
      if (tail + 1) % size = ctlField s ptr 0 16 % size then
        mgetD t.ringRetry dd [] = mgetD s.ringRetry dd [] ++ [b] ∧ Due s t 1800 (.faultRingRetry dd) ∧ t.ctl = s.ctl
      else CtlKept s t [ptr] ∧ ctlField t ptr 16 16 = (tail + 1) % size ∧ Out.faultIrq dd ∈ t.out ∧
        (s.home = [] → b.length = 64 → hwRead t (ctlGet s (0x2600 + 0x20 * dd) + 64 * (tail % size)) 64 = b)
    let halts (g : PendingFault) : Prop := stands raised .none ∧ (getCtx raised c).halted = true ∧
      (on → record raised d (recordBytes s c u g true)) ∧ (¬ on → raised.ctl = s.ctl ∧ raised.out = s.out)
    let bad (i : Instr) (b : Nat) : Prop := Answers i s fun t => CtlOnly s t [0x2680] ∧ ctlField t 0x2680 30 1 = b
    let ctx := bankCtx s core bank
    let holds (k : Nat) : Bool := !(getUnit s k u).helds.isEmpty
    let heldBy (g : PendingFault) (gs : List PendingFault) : Prop := namedCtx s core bank holds = some c ∧ t0.helds = g :: gs
    let none_ : Prop := namedCtx s core bank holds = none
    let any : Option Nat := namedCtx s core bank fun _ => true
    let still : Option Nat := namedCtx s core bank fun k => (getCtx s k).halted
    let flag (t : State) : Prop := CtlKept s t [0x2680] ∧ ctlField t 0x2680 30 1 = 0
    let tail := ctlField s (0x260C + 0x20 * die) 16 16
    let size := 2 ^ max 6 (min 12 (ctlField s (0x2608 + 0x20 * die) 16 5))
    let retry : Instr := .faultRingRetry die
    let full : Prop := (tail + 1) % size = ctlField s (0x260C + 0x20 * die) 0 16 % size
    (calm → u < 64 → t0.inh = false → f.sup = false → x.tvec ≠ 0 → handler x t0 →
      entered raised { t0 with late := stays } f ∧ others raised ∧ raised = { s with ctxs := raised.ctxs } ∧
      getCtx raised c = { x with units := (getCtx raised c).units }) ∧
    (∀ tv : Dword, ∀ fe : Ferry, tv.toNat = fe.code + o.toNat → o.toNat % 4 = 0 → o.toNat + 4 ≤ fe.stride → fe.stride ≤ 2 ^ 32 →
      handlerOff { x with tvec := tv } fe = some o) ∧
    (t0.flight ≠ [] → t0.entering = [] → Due s raised 1 (.trapEntry c u) ∧ (getUnit raised c u).entering = [f] ∧
      slotOf (getUnit raised c u) f.slot = { slotOf t0 f.slot with hold := .entering } ∧ (getUnit raised c u).trap = t0.trap ∧
      (getUnit raised c u).inh = t0.inh ∧ others raised) ∧
    (calm → u < 64 → ¬ inHandler → f.sup = true → f.held = true → on → stands raised .supervised ∧
      (getUnit raised c u).helds = t0.helds ++ [f] ∧ (getCtx raised c).halted = x.halted ∧ record raised d (recordBytes s c u f false)) ∧
    (calm → u < 64 → ¬ inHandler → f.sup = true → f.held = false ∨ ¬ on → halts f) ∧
    (calm → u < 64 → t0.inh = true → ¬ inHandler → f.sup = false →
      (t0.pendTrap = none → (getUnit raised c u).pendTrap = some f ∧ (getUnit raised c u).late = stays) ∧
      (∀ g, t0.pendTrap = some g → (getUnit raised c u).pendTrap = some g ∧ (getUnit raised c u).late = stays ++ [f]) ∧
      slotOf (getUnit raised c u) f.slot = { slotOf t0 f.slot with hold := .entering } ∧
      (getUnit raised c u).trap = t0.trap ∧ others raised) ∧
    (calm → u < 64 → t0.inh = false → f.sup = false → x.tvec = 0 → halts { f with nohnd := true, held := false }) ∧
    (calm → u < 64 → inHandler → f.held = false → f.cause ≠ .bkpt → halts { f with esc := true, held := false }) ∧
    (calm → 64 ≤ u → (f.held = false ∨ u < 68) → f.cause ≠ .bkpt → halts { f with held := false }) ∧
    (t0.entering = [] ∨ (x.halted = true ∧ ∀ g ∈ t0.entering, g.sup = false) → Stands (.trapEntry c u) s) ∧
    (x.halted = true → (∃ g ∈ t0.entering, g.sup = true) → t0.flight ≠ [] → Answers (.trapEntry c u) s fun t =>
      t = { s with pending := s.pending ++ [⟨s.now + 1, .trapEntry c u⟩] }) ∧
    (x.halted = true → t0.entering = [f] → f.sup = true → f.held = false → t0.flight = [] → Answers (.trapEntry c u) s fun t =>
      (getUnit t c u).entering = [] ∧ (getCtx t c).halted = true ∧ others t ∧
      (on → record t d (recordBytes s c u f true)) ∧ (¬ on → t.ctl = s.ctl ∧ t.out = s.out)) ∧
    (t0.entering = [f] → x.halted = false → t0.flight = [] → t0.chainLeft = 0 → ctxIssues s c = true → u < 64 → t0.inh = false →
      f.sup = false → x.tvec ≠ 0 → handler x t0 → Answers (.trapEntry c u) s fun t => entered t { t0 with entering := [] } f ∧ others t ∧
        t = { s with ctxs := t.ctxs }) ∧
    (t0.entering ≠ [] → x.halted = false → t0.flight ≠ [] ∨ t0.chainLeft ≠ 0 ∨ ctxIssues s c = false → Answers (.trapEntry c u) s fun t =>
      t = { s with pending := s.pending ++ [⟨s.now + 1, .trapEntry c u⟩] }) ∧
    (none_ → bad (.fltRetry core bank u) 1 ∧ bad (.fltReflect core bank u) 1) ∧
    (∀ ok : Nat → Bool, (ctx = some c → ok c = true → namedCtx s core bank ok = some c) ∧
      (ctx = none ∨ (ctx = some c ∧ ok c = false) → (∀ e ∈ s.ctxs, e.2.place ≠ .saved ∨ e.2.home ≠ core ∨ e.2.bank ≠ bank ∨ ok e.1 = false) →
        namedCtx s core bank ok = none)) ∧
    (any = none → bad (.fltHalt core bank) 1) ∧ (still = none → bad (.fltUnhalt core bank) 1) ∧
    (∀ gs, heldBy f gs → Answers (.fltRetry core bank u) s fun t => flag t ∧ others t ∧ t = { s with ctl := t.ctl, ctxs := t.ctxs } ∧
      (getUnit t c u).helds = gs ∧
      slotOf (getUnit t c u) f.slot = { slotOf t0 f.slot with off := f.record.off, hold := .none, waited := false, stage := 0 } ∧
      (getUnit t c u).bkptPass = if f.cause = .bkpt then some f.record.off else t0.bkptPass) ∧
    (∀ gs, heldBy f gs → u < 64 → t0.inh = false → x.tvec ≠ 0 → t0.chainLeft = 0 → handler x t0 → Answers (.fltReflect core bank u) s fun t =>
      flag t ∧ others t ∧ entered t { t0 with helds := gs } f) ∧
    (∀ gs, heldBy f gs → 64 ≤ u ∨ t0.inh = true ∨ x.tvec = 0 → Answers (.fltReflect core bank u) s fun t =>
      flag t ∧ getCtx t c = { x with halted := true }) ∧
    (∀ gs, heldBy f gs → u < 64 → t0.inh = false → x.tvec ≠ 0 → t0.chainLeft ≠ 0 → Answers (.fltReflect core bank u) s fun t =>
      flag t ∧ t.ctxs = s.ctxs ∧ Due s t 1 (.fltReflect core bank u)) ∧
    (any = some c → Answers (.fltHalt core bank) s fun t => flag t ∧ getCtx t c = { x with halted := true } ∧
      ∀ k, k ≠ c → getCtx t k = getCtx s k) ∧
    (still = some c → Answers (.fltUnhalt core bank) s fun t => flag t ∧ (getCtx t c).halted = false ∧
      (∀ k, k ∈ unitKeys s c → getUnit t c k = { getUnit s c k with chain := 0, chainLeft := 0 } ∧
        ((getUnit s c k).entering ≠ [] → Due s t 1 (.trapEntry c k))) ∧ ∀ k, k ≠ c → getCtx t k = getCtx s k) ∧
    (mgetD s.ringRetry die [] = [] → Stands retry s) ∧
    (mgetD s.ringRetry die [] = r :: rs →
      (fltOn s die = false → Answers retry s fun t => t = { s with ringRetry := t.ringRetry } ∧ mgetD t.ringRetry die [] = []) ∧
      (fltOn s die = true → full → Answers retry s fun t => t = { s with pending := s.pending ++ [⟨s.now + 1800, .faultRingRetry die⟩] }) ∧
      (fltOn s die = true → ¬ full → Answers retry s fun t => record t die r ∧ mgetD t.ringRetry die [] = rs ∧
        (rs ≠ [] → Due s t 1800 (.faultRingRetry die))))

/-- Waits, barriers that complete later, halo pushes and landing events (04 R118; 07 R192 to R196; 11 R283, R286 to R288, R293, R294;
17 R395; 19 R454, R455). An arrival is recorded once what it waits for is over; a hierarchical instance completes when enough
ferries have arrived. A landing store tells its storer how it went; a request that fails does so at the next issue of its slot; a
name whose time is over is reclaimed, and the bound register holds the status.
It rests on readings of the model: notes/assumptions 2, 45 and 103. -/
def Obligations.WaitsAndLanding : Prop :=
  ∀ (s z : State) (c u id core entry lane n : Nat) (b on : Bool) (ids ps : List Nat) (rp : Option Word) (a : HArrival) (m : LandMsg)
    (r : AccRef) (acc : Access) (p : Piece) (res : Option Cause) (cause : Cause) (addr : Dword) (nonce : Word) (q : LreqMsg) (got : Got)
    (d : List Byte) (push : Push) (i j : Nat),
    let t0 := getUnit s c u
    let x := slotOf t0 b
    let f := t0.ferry
    let record : Instr := .arrivalRecord c u b
    let bar := getBar s c f n
    let found : BarInst := bar.inst.getD { num := bar.opened + 1, expected := expectedAt s c f n, arrived := [] }
    let inst : BarInst := { found with
      arrived := addOnce found.arrived u, plain := found.plain || (isCrew u && decide (rp = none))
      repack := match rp with | some o => some o | none => found.repack
      slots := if isCrew u = true then found.slots ++ [(u, x.barRec, x.barAge)] else found.slots }
    let alone : Prop := x.occ = true ∧ t0.stack = [] ∧ ((slotOf t0 (!b)).occ = true → waitsRecord (slotOf t0 (!b)) = false)
    let quietBar (k : Nat) : Prop := ∀ i, (getBar s c f k).inst = some i → instDone s c i = false
    let arriving : Prop := alone ∧ x.hold = .arriving n ids ps rp on ∧ n < 16 ∧ ∀ k, k < 16 → k ≠ n → quietBar k
    let isOver : Prop := (∀ y ∈ t0.flight, y.id ∈ ids → y.done = true) ∧ ∀ k ∈ ps, ∀ y ∈ (getCtx s c).pushes, y.id ≠ k
    let joins : Prop := rp = none ∧ ∃ i, bar.inst = some i ∧ u ∈ i.arrived
    let ready : Prop := joins ∨ (isOver ∧ t0.cox.cmds = [] ∧ t0.cox.sent = [])
    let harriving : Prop := alone ∧ x.hold = .harriving a ids ps ∧ u < 64 ∧ ∀ k, k < 16 → quietBar k
    let made : Bool := (getFerry s c f).hmade.any (sameKey a)
    let first : HArrival := ((getFerry s c f).hcrews.find? fun y => sameKey y.1 a).elim a Prod.fst
    let kind : ArriveAs := match rp with | some o => .repack o | none => .plain
    let waits (e : Ev) (t : State) : Prop := t = { s with pending := s.pending ++ [⟨s.now + 1, e⟩] }
    let missing : Prop := ∃ k ∈ ferryUnits s c f, isCrew k = true ∧ goesOn s c k = true ∧ k ≠ u ∧
      ∀ e ∈ (getFerry s c f).hcrews, ¬ (sameKey e.1 a = true ∧ e.2 = k)
    let away : Prop := (a.level = .cell ∨ a.level = .domain) ∧ a.home ≠ ownEp s ∧ a.ep = ownEp s
    let old := s.hbars.find? fun h => sameKey h.key a
    let new : HInst := match old with
      | none => { key := a, count := max 1 a.count, arrived := [a] }
      | some h => if h.arrived.any (sameFerry a) = true then h else { h with arrived := h.arrived ++ [a] }
    let counted := new.arrived ++ s.hstand.filter fun h => sameKey h new.key && !(new.arrived.any (sameFerry h))
    let clock := hClock (ownCell s) counted
    let told := counted.filter (fun h => decide (h.kind = .now)) ++ s.hwait.filter fun h => sameKey h a
    let goes (y : HArrival) (o k : Nat) (b' : Bool) (t : State) : Prop := (slotOf (getUnit s o k) b').occ = true →
      ∀ h, (slotOf (getUnit s o k) b').hold = .hbar h → sameKey h y = true →
        slotOf (getUnit t o k) b' = passSlot (slotOf (getUnit s o k) b')
    let others := s.hstand.filter fun h => !(sameKey h a && sameFerry h a)
    let arrive : Instr := .hbarArrival a
    let land := landAt s m
    let store : Instr := .landingStore m
    let outcome : Instr := .landingOutcome r lane res
    let left : Prop := ∃ y ∈ acc.pieces, y.isOpen = true ∧ y.lane ≠ lane
    let lanes : Mask := if lane = 32 then acc.mask else laneBit lane
    let marked (g : Piece → Piece) : Access := { acc with pieces := acc.pieces.map fun y => if y.lane = lane then g y else y }
    let line := q.pa / 128
    let here : Prop := line / 2 ^ 38 % 128 = ownEp s ∧ line % 2 ^ 38 < 2 ^ 32
    let read : Instr := .lreqRead q
    let stamp := (linesOf q.pa q.size).foldl (fun t l => stampMax t (homeVersion got.st l).2.2) 0
    let msg : LandMsg := { name := q.name, data := d, width := nmWidth q.name, cls := q.cls, clock := some stamp, origin := q.origin }
    let e := getEntry s core entry
    let reclaimed (reason : Word) (i : Instr) : Prop := Answers i s fun t =>
      getEntry t core entry = { e with state := .reclaimed, ended := s.now + 1 } ∧ (∀ k o, k ≠ core ∨ o ≠ entry → getEntry t k o = getEntry s k o) ∧
      t = { s with cores := t.cores, ctxs := t.ctxs } ∧
      let y := getUnit t e.ctx e.unit
      (e.width = 0 → e.reg < 0x7F → e.lane < 32 → rdV y e.reg e.lane = 0x18000000 + reason * 0x1000000 ∧
        (mgetD y.vrcl e.reg 0).getLsbD e.lane = true ∧ (mgetD y.vpend e.reg 0).getLsbD e.lane = false) ∧
      (e.width = 2 → 0xC0 ≤ e.reg → rdG y (e.reg - 0xC0) = 0x18000000 + reason * 0x1000000 ∧ mgetD y.grcl (e.reg - 0xC0) false = true ∧
        mgetD y.gpend (e.reg - 0xC0) false = false) ∧
      (e.width = 4 → e.reg < 0x7F → ∀ l, l < 32 → rdV y e.reg l = 0x18000000 + reason * 0x1000000 ∧
        (mgetD y.vrcl e.reg 0).getLsbD l = true)
    let dead : Instr := .nameDeadline core entry nonce
    let lost : Instr := .nameReclaimCellLost core entry
    let full : Instr := .lnFullTimeout c u b
    let h := haloOf push.halo.desc
    let pushing : Prop := (getCtx s c).pushes.find? (fun y => decide (y.id = id)) = some push ∧ s.stopped = false
    let write : Instr := .haloPushWrite c id
    let owner (y : State) (k : Nat) : Option (Nat × Halo) := frameOwner y (getCtx s c) h.base (h.owners.getD k 0xFFFF)
    let lands (y : State) (i j : Nat) (d : List Byte) (t : State) : Prop :=
      ∀ k o hk, k < h.tiles → k ≠ push.halo.tile → h.inFrame k i j = true → owner y k = some (o, hk) →
        (∀ k', k' ≠ k → ∀ g, owner y k' ≠ some (o, g)) → lsRead (getCtx t o) ((haloOf hk.desc).frameOff k i j) d.length = d
    (arriving → quietBar n → ¬ ready → Answers record s fun t => waits (.arrivalRecord c u b) t) ∧
    (arriving → quietBar n → ready → arriveBad s c u n kind = true → t0.entering = [] → exec record s = .next (alignLate s c u b)) ∧
    (arriving → ready → arriveBad s c u n kind = false → coxFails s c u = false → instDone s c inst = false →
      Answers record s fun t => getBar t c f n = { opened := inst.num, inst := some inst } ∧
        slotOf (getUnit t c u) b = (if on = true then passSlot x else { x with hold := .barrier n inst.num }) ∧
        mgetD (getUnit t c u).barAt n 0 = inst.num ∧ (∀ k, k ≠ u → getUnit t c k = getUnit s c k) ∧ t = { s with ctxs := t.ctxs }) ∧
    (arriving → ready → arriveBad s c u n kind = false → coxFails s c u = false → instDone s c inst = true → inst.repack = none →
      inst.failed = false → u ∈ ferryUnits s c f → Answers record s fun t => getBar t c f n = { opened := inst.num, inst := none } ∧
        slotOf (getUnit t c u) b = passSlot x ∧ ∀ k ∈ ferryUnits s c f, k ≠ u → ∀ b', (slotOf (getUnit s c k) b').occ = true →
          (slotOf (getUnit s c k) b').hold = .barrier n inst.num → slotOf (getUnit t c k) b' = passSlot (slotOf (getUnit s c k) b')) ∧
    (harriving → (made = false → ¬ isOver → Answers record s fun t => waits (.arrivalRecord c u b) t) ∧
      (made = true → Answers record s fun t => slotOf (getUnit t c u) b = { x with hold := .hbar a } ∧
        getFerry t c f = getFerry s c f ∧ t = { s with ctxs := t.ctxs }) ∧
      (made = false → isOver → missing → Answers record s fun t => slotOf (getUnit t c u) b = { x with hold := .hbar a } ∧
        (getFerry t c f).hcrews = (getFerry s c f).hcrews ++ [(a, u)] ∧ t = { s with ctxs := t.ctxs }) ∧
      (made = false → isOver → ¬ missing → Answers record s fun t => slotOf (getUnit t c u) b = { x with hold := .hbar a } ∧
        Due s t 0 (.hbarArrival { first with clock := clk s first.core }) ∧
        (first.kind = .now → first.ctx = c → first.ferry = f → (getFerry t c f).hmade.any (sameKey a) = true))) ∧
    (away → sessLive s a.home = true → Answers arrive s fun t => AtPort t a.home (.harrive a) ∧ t.ctxs = s.ctxs ∧
      t.hsent = if a.kind = .now ∨ a.kind = .waiter then s.hsent ++ [a] else s.hsent) ∧
    (¬ away → a.kind = .discard → exec arrive s = .next { s with hstand := others }) ∧
    (¬ away → a.kind = .waiter →
      exec arrive s = .next { s with hwait := (s.hwait.filter fun h => !(sameKey h a && sameEngine h a)) ++ [a] }) ∧
    (¬ away → a.kind = .standing → old = none → exec arrive s = .next { s with hstand := others ++ [a] }) ∧
    (¬ away → a.kind = .now → counted.length < new.count → Answers arrive s fun t =>
      t = { s with hbars := t.hbars } ∧ t.hbars.find? (fun h => sameKey h.key a) = some new) ∧
    (¬ away → a.kind = .now → new.count ≤ counted.length → Answers arrive s fun t =>
      (∀ h ∈ t.hbars, sameKey h.key a = false) ∧ (∀ h ∈ t.hwait, sameKey h a = false) ∧ t.mem = s.mem ∧
      (∀ y ∈ told, y.ep ≠ ownEp s → sessLive s y.ep = true →
        AtPort t y.ep (.hdone { y with home := ownEp s, clock := clock.getD 0 })) ∧
      (∀ y ∈ told, y.ep = ownEp s → y.kind = .now → (∀ k, clock = some k → clk t y.core = stampMax (clk s y.core) k) ∧
        ((getFerry s y.ctx y.ferry).span = y.span → (getFerry s y.ctx y.ferry).index = y.index →
          ∀ k ∈ ferryUnits s y.ctx y.ferry, isCrew k = true → ∀ b', goes y y.ctx k b' t)) ∧
      ∀ y ∈ told, y.ep = ownEp s → y.kind = .waiter → ∀ b', goes y y.ctx y.ferry b' t) ∧
    (Answers (.sleepExpiry c u b) s fun t => t = { s with ctxs := t.ctxs } ∧ ∀ b',
      let y := slotOf t0 b'
      let ends : Prop := y.occ = true ∧ ∃ k, y.hold = .sleep k ∧ k ≤ s.now
      (ends → slotOf (getUnit t c u) b' = passSlot y) ∧ (¬ ends → slotOf (getUnit t c u) b' = y)) ∧
    ((∀ y ∈ (getCtx s c).pushes, y.id ≠ id) → Stands write s) ∧
    (pushing → push.todo = [] → push.read = [(i, j, d)] → Map.sorted s.ctxs = true → Answers write s fun t =>
      lands s i j d t ∧ (∀ y ∈ (getCtx t c).pushes, y.id ≠ id) ∧ ∀ y, memByte t y = memByte s y) ∧
    (pushing → push.todo = [(i, j)] → push.read = [] → ∀ asks,
      (readElem s c push.asks (h.va i j) h.esz = (.waits, asks, z) → (getCtx z c).pushes = (getCtx s c).pushes → Answers write s fun t =>
        ⟨z.now + 1, .haloPushWrite c id⟩ ∈ t.pending ∧ ∃ y ∈ (getCtx t c).pushes, y.id = id ∧ y.todo = [(i, j)]) ∧
      (readElem s c push.asks (h.va i j) h.esz = (.got d, asks, z) → Map.sorted z.ctxs = true → (getCtx z c).pushes = (getCtx s c).pushes →
        Answers write s fun t => lands z i j d t ∧ ∀ y ∈ (getCtx t c).pushes, y.id ≠ id) ∧
      (∀ cs k, readElem s c push.asks (h.va i j) h.esz = (.bad cs k, asks, z) → Answers write s fun t => (getCtx t c).halted = true ∧
        ∀ y ∈ (getCtx t c).pushes, y.id ≠ id)) ∧
    (∀ r' l', m.origin = .unit r' l' → Answers store s fun t =>
      t = { land.1 with pending := land.1.pending ++ [⟨land.1.now, .landingOutcome r' l' land.2⟩] }) ∧
    (∀ ep tid, m.origin = .peer ep tid → sessLive land.1 ep = true → Answers store s fun t => AtPort t ep (.landResult tid land.2) ∧ t.ctxs = land.1.ctxs) ∧
    (∀ o k w cs, m.origin = .engine o k w → land.2 = some cs → Answers store s fun t => (getCtx t o).halted = true) ∧
    (getAcc s r = none → Stands outcome s) ∧
    (getAcc s r = some acc → acc.lands = [] → left → acc.pieces.find? (fun y => decide (y.lane = lane) && y.isOpen) = some p →
      (res = none → Answers outcome s fun t => getAcc t r = some (marked fun y => { y with done := true }) ∧ t = { s with ctxs := t.ctxs }) ∧
      (res = some cause → acc.kind ≠ .lreq → Answers outcome s fun t => t = { s with ctxs := t.ctxs } ∧
        getAcc t r = some (marked fun y => if y.isOpen = true then { y with failed := some cause } else y))) ∧
    (getAcc s r = some acc → acc.kind = .lreq → acc.pieces.find? (fun y => decide (y.lane = lane) && y.isOpen) = some p → res = some cause →
      exec outcome s = .next (post s 0 (.lreqDeferredFault r lane cause p.va))) ∧
    (getAcc s r = some acc → acc.kind = .lreq → (getUnit s r.ctx r.unit).late = [] → Answers (.lreqDeferredFault r lane cause addr) s fun t =>
      t = { s with ctxs := t.ctxs } ∧ ∃ g : PendingFault, (getUnit t r.ctx r.unit).late = [g] ∧ g.cause = cause ∧ g.record.off = acc.off ∧
        g.record.lanes = lanes ∧ g.record.mask = acc.mask ∧ g.record.addr = addr ∧ g.record.word = acc.word ∧ g.record.skid = 0x1000 ∧
        g.slot = acc.slot) ∧
    (getAcc s r = none → Stands (.lreqDeferredFault r lane cause addr) s) ∧
    (line / 2 ^ 38 % 128 ≠ ownEp s → Stands read s) ∧
    (line / 2 ^ 38 % 128 = ownEp s → 2 ^ 32 ≤ line % 2 ^ 38 → exec read s = .next (landHeard s q.origin q.name (some .page))) ∧
    (here → engineGet s (80 * homeDie line) none [] q.pa q.size = got →
      (got.data = none → got.refused = none → exec read s = .next (post got.st 1 (.lreqRead q))) ∧
      (got.data = none → got.refused = some cause → exec read s = .next (landHeard got.st q.origin q.name (some cause))) ∧
      (got.data = some (d, true) → exec read s = .next (landHeard got.st q.origin q.name (some .poison))) ∧
      (got.data = some (d, false) → nmEp q.name = ownEp got.st → exec read s = .next (post got.st 0 (.landingStore msg))) ∧
      (got.data = some (d, false) → nmEp q.name ≠ ownEp got.st → sessLive got.st (nmEp q.name) = true → Answers read s fun t =>
        AtPort t (nmEp q.name) (.land { msg with
          origin := .peer (ownEp got.st) got.st.nextTxn, clock := if sameCell got.st (nmEp q.name) = true then some stamp else none }) ∧
        mget? t.landTxns got.st.nextTxn = some (q.name, q.origin))) ∧
    (e.nonce ≠ nonce ∨ s.now < e.deadline ∨ e.state ≠ .live → Stands dead s) ∧
    (e.nonce = nonce → e.deadline ≤ s.now → e.state = .live → reclaimed 1 dead) ∧
    (e.expected.any (epLost s) = false ∨ e.state ≠ .live → Stands lost s) ∧
    (e.expected.any (epLost s) = true → e.state = .live → reclaimed 4 lost) ∧
    (x.occ = false ∨ s.now < x.since + 1800 ∨ (∀ k, x.hold ≠ .mint k) ∨ (getCore s (getCtx s c).home).active ≠ some c → Stands full s) ∧
    (∀ k, x.occ = true → x.since + 1800 ≤ s.now → x.hold = .mint k → (getCore s (getCtx s c).home).active = some c → exec full s = .next (raiseFault s c u
      { record := { x.barRec with cause := 17, off := x.off }, cause := .lnFull, sup := false, held := false, slot := b, age := x.barAge }))

/-- The engines (09 R259; 12 R299, R306 to R319; 20 R462 to R467). A copy issues its segments in order, each reads its source and then
writes its destination, and the copy delivers how it ended; a publish switches the window and sweeps. The matrix engine runs the
oldest command of the active context, one K group at a time; a drain is checked, written and reported; a mill reads its rows and
delivers y, and then its status. It rests on readings of the model: notes/assumptions 20, 22, 39, 63 and 66. -/
def Obligations.Engines : Prop :=
  ∀ (s z : State) (c u id n core stk wid xcode : Nat) (k : Copy) (g : Seg) (b : PartBad) (p : Publ) (m : CoxCmd) (j : MillJob)
    (js : List MillJob) (d sc : List Byte) (w : List (List Byte)) (va : Dword),
    let t0 := getUnit s c u
    let x := getCtx s c
    let copy (t : State) : Option Copy := getCopy t c u id
    let mine : Prop := copy s = some k
    let issue : Instr := .copySegmentIssue c u id
    let done : Instr := .copySegmentDone c u id n
    let seg (f : Seg → Seg) : Copy := { k with segs := k.segs.map fun y => if y.first = g.first then f y else y }
    let failed (t : State) : Prop := ∃ y, copy t = some y ∧ y.stopped = true ∧ ∀ x ∈ y.segs, x.first = g.first → x.failed = some (b.code, b.va)
    let ready : Prop := mine ∧ k.stopped = false ∧ k.segs.find? (fun y => !y.issued) = some g
    let goes : Prop := idsDone t0 k.waits = true ∧ copiesGo s c = true ∧ (k.segs.filter Seg.isOpen).length < 64
    let ss := sideParts c u k false (cutRuns 0 (k.srcRuns (g.len + 1) g.first g.len)) s
    let ds := sideParts c u k true (cutRuns 0 [(g.dst0, g.len * k.esz)]) ss.2
    let sideBad : Option PartBad := ss.1.2.orElse fun _ => ds.1.2
    let running : Prop := mine ∧ s.stopped = false ∧ k.segs.find? (fun y => decide (y.first = n) && y.isOpen) = some g
    let tells (t : State) (name : Dword) (st second : Word) : Prop := nmEp name = ownEp s → ∃ y : LandMsg, Due s t 0 (.landingStore y) ∧
      y.name = name ∧ y.width = nmWidth name ∧ y.data = leBytes 4 st.toNat ++ (if widthPair (nmWidth name) = true then leBytes 4 second.toNat else [])
    let errFree (o n : Nat) : Prop := ∀ e ∈ x.lsErr, 4 * e.1 + 4 ≤ o ∨ o + n ≤ 4 * e.1
    let count : Word := BitVec.ofNat 32 (k.segs.map Seg.wrote).sum
    let ended : Instr := .copyComplete c u id
    let slot := suspSlot t0
    let publ : Instr := .publComplete wid
    let publs : Prop := s.publs.find? (fun y => decide (y.wid = wid)) = some p
    let gone (t : State) : Prop := ∀ y ∈ t.publs, y.wid ≠ wid
    let flags (t : State) : Nat := fieldB (winEntry t wid) 0x1C 1
    let again (e : Ev) (t : State) : Prop := t = { s with pending := s.pending ++ [⟨s.now + 1, e⟩] }
    let look : Instr := .coxCommandIssue core
    let engine (t : State) : Option (Nat × Nat) := (getCore t core).engine
    let active (t : State) : Option Nat := (getCore t core).active
    let head : Prop := t0.cox.cmds.head? = some m
    let isMma : Prop := m.op = 0xB9 ∨ m.op = 0xBA
    let isOver (t : State) : Prop := engine t = none ∧ (getUnit t c u).cox.cmds = restCmds s.now t0.cox.cmds
    let halts (t : State) : Prop := isOver t ∧ (getCtx t c).halted = true
    let tile := getTile s c m.tile
    let k0 := fbG m.fmt * m.grp
    let xr := getCtx (readSide (readSide s c m.fmt false m.a.toNat) c m.fmt true m.b.toNat) c
    let xl := getCtx (readLs s c m.a.toNat (4096 * accSize m.b.toNat)) c
    let clean : Prop := groupPoison xr m.fmt false m.a.toNat k0 (fbG m.fmt) m.marked = none ∧
      groupPoison xr m.fmt true m.b.toNat k0 (fbG m.fmt) (fun _ _ => false) = none
    let group (t : State) : Prop :=
      (m.allMarked k0 (fbG m.fmt) = false → clean → getTile t c m.tile = (groupTile xr m tile).1 ∧
        (getUnit t c u).cox.flags = t0.cox.flags ||| (groupTile xr m tile).2) ∧
      (m.allMarked k0 (fbG m.fmt) = true → x.tiles = (getCtx t c).tiles ∧ (getUnit t c u).cox.flags = t0.cox.flags) ∧
      (m.allMarked k0 (fbG m.fmt) = true ∨ clean → engine t = some (c, u) ∧
        (∃ y, (getUnit t c u).cox.cmds.head? = some y ∧ y.grp = m.grp + 1 ∧ y.op = m.op ∧ y.tile = m.tile) ∧
        Due s t (groupCycles m) (if m.grp + 1 < 4 then .coxCommandIssue core else .mmaComplete core)) ∧
      (m.allMarked k0 (fbG m.fmt) = false → ¬ clean → halts t)
    let drain : Instr := .drainComplete core
    let mma : Instr := .mmaComplete core
    let at_ : Prop := engine s = some (c, u)
    let judged := judge s core u (getFerry s c (u - 64)) m tile
    let jobs (t : State) : List MillJob := mgetD t.mills stk []
    let still (t : State) : Prop := ∀ o, o ≠ stk → mget? t.mills o = mget? s.mills o
    let first : Prop := jobs s = j :: js ∧ (∀ y ∈ jobs s, y.phase < 2) ∧ j.phase = 0 ∧ j.due ≤ s.now ∧ mgetD s.recal stk false = false ∧
      s.stopped = false
    (copy s = none → Stands issue s ∧ Stands done s ∧ Stands ended s) ∧
    (mine → k.stopped = true ∨ (∀ y ∈ k.segs, y.issued = true) → Stands issue s) ∧
    (ready → ¬ goes → Answers (.copySegmentIssue c u id) s fun t => again (.copySegmentIssue c u id) t) ∧
    (ready → goes → sideBad = none → Answers (.copySegmentIssue c u id) s fun t =>
      copy t = some (seg fun y => { y with issued := true, src := ss.1.1, dst := ds.1.1 }) ∧
      Due s t 1 (.copySegmentDone c u id g.first) ∧ Due s t 1 (.copySegmentIssue c u id)) ∧
    (ready → goes → k.sls = true → k.dls = true → Answers (.copySegmentIssue c u id) s fun t => sideBad = none ∧
      copy t = some (seg fun y => { y with issued := true, src := ss.1.1, dst := ds.1.1 }) ∧
      Due s t 1 (.copySegmentDone c u id g.first) ∧ Due s t 1 (.copySegmentIssue c u id)) ∧
    (ready → goes → sideBad = some b → b.walks = true → exec (.copySegmentIssue c u id) s = .next (post ds.2 1 (.copySegmentIssue c u id))) ∧
    (ready → goes → sideBad = some b → b.walks = false → b.lost = false → Answers (.copySegmentIssue c u id) s fun t => failed t) ∧
    (mine → s.stopped = true → Stands done s) ∧
    (running → g.data = none →
      (∀ y, readParts c k g.src s g.asks = (.got d, y, z) → Answers (.copySegmentDone c u id n) s fun t =>
        copy t = some (seg fun y => { y with data := some d, asks := [], deadline := 0 }) ∧ Due s t 0 (.copySegmentDone c u id n) ∧
        t.mem = z.mem) ∧
      (∀ y, readParts c k g.src s g.asks = (.bad b, y, z) → b.lost = false → Answers (.copySegmentDone c u id n) s fun t => failed t) ∧
      (∀ y, readParts c k g.src s g.asks = (.waits, y, z) → g.deadline = 0 ∨ z.now < g.deadline →
        Answers (.copySegmentDone c u id n) s fun t => ⟨z.now + 1, .copySegmentDone c u id n⟩ ∈ t.pending) ∧
      (∀ y o, g.src = [y] → y.spot = .bank o → 0 < y.len → errFree o y.len → (∀ i, i < y.len → lsPois x (o + i) = false) →
        Answers (.copySegmentDone c u id n) s fun t =>
          copy t = some (seg fun q => { q with data := some (lsRead x o y.len), asks := [], deadline := 0 }) ∧
          Due s t 0 (.copySegmentDone c u id n) ∧ t.mem = s.mem)) ∧
    (running → g.data = some d →
      (writeParts c u k g d g.dst s = ([], none, z) → Answers (.copySegmentDone c u id n) s fun t => t.mem = z.mem ∧ t.l2 = z.l2 ∧
        ∃ y, copy t = some y ∧ ∀ o ∈ y.segs, o.first = n → o.done = true ∧ o.wrote = o.len) ∧
      (∀ y ys, writeParts c u k g d g.dst s = (y :: ys, some b, z) → b.lost = false →
        Answers (.copySegmentDone c u id n) s fun t => failed t) ∧
      (∀ y ys, writeParts c u k g d g.dst s = (y :: ys, none, z) → g.deadline = 0 ∨ z.now < g.deadline →
        Answers (.copySegmentDone c u id n) s fun t => ⟨z.now + 1, .copySegmentDone c u id n⟩ ∈ t.pending) ∧
      (∀ y o, g.dst = [y] → y.spot = .bank o → y.pos = 0 → d.length = y.len → (∀ i, i < y.len → laterWrote k n (y.va.toNat + i) = false) →
        Answers (.copySegmentDone c u id n) s fun t => lsRead (getCtx t c) o y.len = d ∧ t.mem = s.mem ∧
          ∃ q, copy t = some q ∧ ∀ o ∈ q.segs, o.first = n → o.done = true ∧ o.wrote = o.len)) ∧
    (∀ y : Part, ∀ o, y.spot = .bank o → d.length = y.len →
      (0 < y.len → errFree o y.len → (∀ i, i < y.len → lsPois x (o + i) = false) → ∀ asks,
        (readPart s c k asks y).1 = .got (lsRead x o y.len)) ∧
      (errFree o y.len → (∃ i, i < y.len ∧ lsPois x (o + i) = true) → ∀ asks,
        (readPart s c k asks y).1 = .bad { code := 4, va := y.va }) ∧
      ((∀ i, i < y.len → laterWrote k n (y.va.toNat + i) = false) → (writePart s c u k n y d).1 = .done ∧
        lsRead (getCtx (writePart s c u k n y d).2 c) o y.len = d)) ∧
    (mine → k.over = false → Stands ended s) ∧
    (mine → k.over = true → k.discarded = false → k.lead = none → Answers (.copyComplete c u id) s fun t => copy t = none ∧
      (getUnit t c u).susp = t0.susp ∧ (k.name ≠ 0 → tells t k.name 0 count) ∧ (k.name = 0 → t.pending = s.pending)) ∧
    (∀ code addr, mine → k.over = true → k.discarded = false → k.lead = some (code, addr) → Answers (.copyComplete c u id) s fun t => copy t = none ∧
      (∀ i, slot = some i → mget? (getUnit t c u).susp i = some (suspend k)) ∧ (slot = none → (getUnit t c u).susp = t0.susp) ∧
      (k.name ≠ 0 → tells t k.name (BitVec.ofNat 32 (0x20000000 + code % 256 * 2 ^ 16 + slot.elim 0 fun i => i * 2 ^ 14 + 2 ^ 13)) count) ∧
      (k.name = 0 → k.lost = false → (getCtx t c).halted = true) ∧
      ∀ i ∈ k.wins, winFlag (winEntry s i) 2 = true → publHolds s c u id i = false → i ∈ t.winFaulted) ∧
    (mine → k.over = true → k.discarded = true → Answers (.copyComplete c u id) s fun t => copy t = none ∧ (getUnit t c u).susp = t0.susp ∧
      (k.name ≠ 0 → tells t k.name 0x20080000 count) ∧ (k.name = 0 → (getCtx t c).halted = true)) ∧
    ((∀ y ∈ s.publs, y.wid ≠ wid) → Stands publ s) ∧
    (publs → (p.switched = true ∧ publSweeps s wid = true) ∨ (p.switched = false ∧ p.waits ≠ []) → Answers (.publComplete wid) s fun t => again (.publComplete wid) t) ∧
    (publs → p.switched = false → p.waits = [] → p.failed = true → Answers (.publComplete wid) s fun t => gone t ∧ wid ∈ t.winFaulted ∧ t.mem = s.mem ∧
      tells t p.name 0x20000004 0) ∧
    (publs → p.switched = false → p.waits = [] → p.failed = false → Answers (.publComplete wid) s fun t => Due s t 1 (.publComplete wid) ∧
      (∃ y ∈ t.sweeps, y.scope = 3 ∧ y.target = wid) ∧ (∀ y ∈ t.publs, y.wid = wid → y.switched = true) ∧
      let at' := stampMax (clk s (ctxCore (getCtx s p.ctx))) (mgetD s.winTime wid 0) + 1
      clk t (ctxCore (getCtx s p.ctx)) = stampMax (clk s (ctxCore (getCtx s p.ctx))) at' ∧
      (s.home = [] → fieldB (winEntry t wid) 0x10 6 = at'.toNat ∧ (flags t).testBit 0 = (flags s).testBit 0 ∧
        (flags t).testBit 1 = !(flags s).testBit 1 ∧ (flags t).testBit 2 = false ∧ (flags t).testBit 3 = true)) ∧
    (publs → p.switched = true → publSweeps s wid = false → Answers (.publComplete wid) s fun t => gone t ∧ tells t p.name 0 0 ∧
      (s.home = [] → (flags t).testBit 3 = false)) ∧
    (engine s = none → (active s = none ∨ (∃ o, active s = some o ∧ ((getCtx s o).halted = true ∨ readyCmds s o = []))) → Stands look s) ∧
    (s.stopped = true → Stands look s) ∧
    (engine s = none → active s = some c → x.halted = false → oldestCmd (readyCmds s c) = some (u, m) → head → s.stopped = false →
      (isMma → s.throttle ≠ 0 → exec look s = .next (wakeEngine s core 1)) ∧
      (isMma → m.grp < 4 → s.throttle = 0 → Answers (.coxCommandIssue core) s fun t => group t) ∧
      (m.op = 0xBD ∨ m.op = 0xBE → Answers (.coxCommandIssue core) s fun t =>
        engine t = some (c, u) ∧ Due s t 16 (.drainComplete core) ∧ t.ctxs = s.ctxs) ∧
      (m.op = 0xBC → (∀ i, i < 1024 * accSize m.b.toNat → lsPois xl (m.a.toNat + 4 * i) = false) → m.endKeep = false →
        Answers (.coxCommandIssue core) s fun t => isOver t ∧ getTile t c m.tile = loadedTile xl m) ∧
      (m.op = 0xBC → (∃ i, i < 1024 * accSize m.b.toNat ∧ lsPois xl (m.a.toNat + 4 * i) = true) →
        Answers (.coxCommandIssue core) s fun t => halts t)) ∧
    (∀ l : List (Nat × CoxCmd), oldestCmd l = some (u, m) → (u, m) ∈ l ∧ ∀ y ∈ l, m.age ≤ y.2.age) ∧
    (m.op ≠ 0xBA → m.grp < 4 → groupCycles m = if fbA m.fmt = 10 ∨ fbA m.fmt = 11 then 8 else 4) ∧
    (at_ → head → s.stopped = false → active s ≠ some c → m.grp < 4 → Answers (.coxCommandIssue core) s fun t =>
      t = { s with cores := t.cores, pending := t.pending } ∧ engine t = none ∧ Due s t 1 (.coxCommandIssue core)) ∧
    (at_ → head → s.stopped = false → active s = some c → isMma → m.grp < 4 →
      (s.throttle = 0 → Answers (.coxCommandIssue core) s fun t => group t) ∧
      (s.throttle ≠ 0 → exec look s = .next (wakeEngine s core 1))) ∧
    (at_ → head → (active s = some c ∧ ¬ isMma) ∨ 4 ≤ m.grp → Stands look s) ∧
    (at_ → head → m.grp < 4 → Stands mma s) ∧ (engine s = none → Stands mma s ∧ Stands drain s) ∧
    (at_ → head → 4 ≤ m.grp → m.ti = true → m.tie = true → Answers (.mmaComplete core) s fun t => halts t) ∧
    (at_ → head → 4 ≤ m.grp → m.ti = false ∨ m.tie = false → Answers (.mmaComplete core) s fun t => isOver t ∧ (getCtx t c).halted = x.halted ∧
      (m.endKeep = false → (getCtx t c).tiles = x.tiles)) ∧
    (at_ → head → m.op ≠ 0xBD → m.op ≠ 0xBE → Stands drain s) ∧
    (at_ → head → m.op = 0xBD ∨ m.op = 0xBE → active s ≠ some c → Answers (.drainComplete core) s fun t =>
      t = { s with cores := t.cores, pending := t.pending } ∧ engine t = none ∧ Due s t 1 (.coxCommandIssue core)) ∧
    (at_ → head → m.op = 0xBD ∨ m.op = 0xBE → active s = some c → Answers (.drainComplete core) s fun t => isOver t ∧
      (let es := judged.1.tile.elems.map (drainElem m judged.1.tile.ty)
       lsRead (getCtx t c) (m.a.toNat % 2 ^ 17) (es.flatMap Prod.fst).length = es.flatMap Prod.fst ∧
        (getUnit t c u).cox.flags = es.foldl (fun f e => f ||| e.2) (t0.cox.flags ||| judged.1.fl)) ∧
      (getUnit t c u).cox.failed = (if t0.cox.failed.isNone = true then judged.1.abft else t0.cox.failed) ∧
      (m.name ≠ 0 → tells t m.name (BitVec.ofNat 32 ((if judged.1.bad = true then 0x20000000 else 0) +
        (judged.1.rows * 2 ^ 16 + judged.1.cols * 2 ^ 8 + judged.1.fixed) % 2 ^ 24)) 0)) ∧
    (jobs s = [] → Answers (.millComplete stk) s fun t => still t ∧ jobs t = []) ∧
    ((∀ y ∈ jobs s, y.phase < 2) → s.stopped = true → Answers (.millComplete stk) s fun t => jobs t = jobs s ∧ t.pending = s.pending) ∧
    ((∀ y ∈ jobs s, y.phase < 2) → s.stopped = false → mgetD s.recal stk false = true → Answers (.millComplete stk) s fun t => jobs t = jobs s ∧ Due s t 1 (.millComplete stk)) ∧
    (first → millRead (millsTold s stk) j = (.inl (w, sc), z) → Answers (.millComplete stk) s fun t => still t ∧ jobs t = { j with phase := 1 } :: js ∧
      (nmEp (mlRname j.desc) = ownEp s → ∃ y : LandMsg, Due s t 0 (.landingStore y) ∧ y.name = mlRname j.desc ∧
        y.data = millData j (millY j w sc))) ∧
    (∀ l, first → millRead (millsTold s stk) j = (.inr (.waits l), z) → Answers (.millComplete stk) s fun t => jobs t = jobs z ∧
      ⟨z.now + 1, .millComplete stk⟩ ∈ t.pending) ∧
    (first → millRead (millsTold s stk) j = (.inr (.bad n va xcode), z) → Answers (.millComplete stk) s fun t => still t ∧ jobs t = js ∧
      (mlSname j.desc ≠ 0 → tells t (mlSname j.desc) (BitVec.ofNat 32 (0x20000000 + n % 2 ^ 24)) 0) ∧
      (mlSname j.desc = 0 → (getCtx t j.ctx).halted = true)) ∧
    (jobs s = [j] → j.phase = 2 → Answers (.millComplete stk) s fun t => still t ∧ jobs t = [] ∧ (mlSname j.desc ≠ 0 → tells t (mlSname j.desc) 0 0))

/-! ## Decoding, fetching and stepping -/

/-- What decoding rejects (13 R335; 14 R353, R356): a word fails at the first check that it breaks, takes no effect in any lane, and
is an ILLEGAL with detail 0 for the instruction or 1 for an operand, that names the slot's lanes in the lowest plane that holds the
word, and the address 0. No word stops the machine. The words of R356's table meet the fates it gives them.
It rests on readings of the model: notes/assumptions 30 and 119. -/
def Obligations.IllegalWords : Prop :=
  ∀ (s : State) (w : Word) (i : Instr),
    let lanes := lanesIn (curUnit s) s.cur.lanes s.cur.plane
    let bad (w : Word) (d : Nat) : Prop := Raised (execWord w s) s .illegal d lanes 0
    let ty := bitsN (curUnit s).mode.toNat 11 5
    (∃ t, execWord w s = .next t) ∧
    (decodeWord w = .instr i → execWord w s = exec i s) ∧
    (Fresh s →
      (decodeWord w = .reservedOpcode → bad w 0) ∧
      (decodeWord w = .fixedField → bad w (if opAllowed s (w.toNat / 2 ^ 24) = true then 1 else 0)) ∧
      (decodeWord w = .instr i → opAllowed s (opOf i) = false → bad w 0) ∧
      (decodeWord w = .instr i → opAllowed s (opOf i) = true → operandsOk s i = false → bad w 1) ∧
      (s.cur.unit < 64 → inHandler s = false →
        bad 0x00000000 0 ∧ bad 0xFFFFFFFF 0 ∧ bad 0x2790C0C1 0 ∧ bad 0xB9A1C2C4 0 ∧
        bad 0x28850102 1 ∧ bad 0x28039402 1 ∧ bad 0x28C00102 1 ∧ bad 0x03C00002 1 ∧ bad 0x14801801 1 ∧ bad 0x988084FF 1 ∧
        (ty = 11 → bad 0x62010204 1) ∧ (ty = 10 → wordFault s (.fmul (.v 1) (.v 2) (.v 4)) = none) ∧
        ((curUnit s).chain = 0 → bad 0x60058003 1)))

/-- A step runs the instruction that it decodes (06 R176; 07 R180, R206; 08 R216 to R218). The unit whose turn it is fetches its slot's
offset in each plane that the slot occupies, as an ordinary read of the code region; where the planes hold one word and it decodes to
an instruction, the step is exec of that instruction at that state, once its turn and its chain have begun, and what follows every
step: writes of the hardware's tables that waited go on, copies that nothing waits for any longer end, and crews that have nothing left
to do are noted. Where planes hold words that may not differ, the slot faults and no word has an effect. A unit that has no turn issues
nothing, and time goes on. A step that an event takes is exec of the event. It rests on readings of the model:
notes/assumptions 2, 39, 93, 126, 128 and 133. -/
def Obligations.StepRunsDecoded : Prop :=
  ∀ (s z y : State) (c u k : Nat) (b : Bool) (ws : List (Nat × Word)) (e : Nat × Word) (rest : List Choice) (i : Instr) (ev : Ev) (t : Timed)
    (x : Xlat) (w : Word) (cp : L1Line),
    let s0 : State := { s with agenda := rest }
    let read := readRegs (setCur (tick s0 1) c u b) c u
    let q := read.2
    let off := q.cur.off
    let mask := (slotOf (getUnit q c u) b).mask
    let planes := slotPlanes (getUnit q c u) u mask
    let turn : Prop := ctxIssues s0 c = true ∧ (getUnit s0 c u).live = true ∧ (getUnit s0 c u).exited = false ∧ hasTurn s0 c u = true
    let chosen : Prop := s.agenda = .issue c u :: rest ∧ turn ∧ nextSlot s0 c u = some b
    let issues : Prop := chosen ∧ read.1 ≠ some true
    let ahead : Prop := ((getUnit z c u).chainLeft ≠ 0 ∧ y = z) ∨ ((getUnit z c u).chainLeft = 0 ∧
      fetchAhead c u (slotOf (getUnit z c u) b).mask 3 (anyProduces ws) (z.cur.off + 4) z = (true, y))
    let begun := noteChain (beginTurn y c u) c u b
    let after (a : Ans) : Ans := match a with
      | .next y => .next (afterMove y)
      | a => a
    let fe := getFerry q c (getUnit q c u).ferry
    let cx := getCtx q c
    let core := ctxCore cx
    let va := fetchVa fe k off
    let pa := xlatPa x va
    (issues → fetchPlanes c u off planes q = (ws, none, z) → alignBreak ws = none → ahead → distinctWords ws = [e] → decodeWord e.2 = .instr i →
      step s = after (exec i (setWord begun ws e true))) ∧
    (issues → fetchPlanes c u off planes q = (ws, none, z) → alignBreak ws = none → ahead → distinctWords ws = [e] →
      step s = after (execWord e.2 (setWord begun ws e true))) ∧
    (issues → fetchPlanes c u off planes q = (ws, none, z) → alignBreak ws = some e →
      step s = after (.next (faultNow z { laneFault z .planeAlign 0 (curLanes z e.1) 0 with plane := e.1, word := e.2 }))) ∧
    (chosen → read.1 = some true → step s = after (.next (faultNow q (regsFault q)))) ∧
    (s.agenda = .issue c u :: rest → ¬ turn → step s = after (.next (tick s0 1))) ∧
    (off.toNat < fe.stride → tlbGet q core cx.asid cx.cls va { x := true } = (.ok x, z) → farBad z x va = none →
      pageRefused z (pa / 128) = false → z.errs = [] → cellLine z (pa / 128) = true →
      mget? z.l1 (l1Key (sliceOf z core (pa / 128)) (pa / 128)) = some cp → later (clk z core) cp.rts = false → cp.poison = false →
      w = BitVec.ofNat 32 (fieldB cp.data (pa % 128) 4) → fetchWord q c u k off = (.word w, raiseClock z core cp.wts)) ∧
    (fetchWord q c u k off = (.word w, z) → fetchPlanes c u off [k] q = ([(k, w)], none, z)) ∧
    (alignBreak [(k, w)] = none ∧ distinctWords [(k, w)] = [(k, w)]) ∧
    (anyProduces ws = false → fetchAhead c u mask 3 (anyProduces ws) (off + 4) z = (true, z)) ∧
    (s.agenda = .outside ev :: rest → step s = after (runEv ev s0)) ∧
    (s.agenda = .upset :: rest → step s = after (.next (runUpset s0))) ∧
    (s.agenda = .event k :: rest → s.pending[k]? = some t →
      step s = after (runEv t.ev (advanceTo { s0 with pending := s.pending.eraseIdx k } t.due))) ∧
    (runEv (.spanComplete k) s = exec (.spanComplete k) s ∧ runEv (.trapEntry c u) s = exec (.trapEntry c u) s ∧
      runEv (.copyComplete c u k) s = exec (.copyComplete c u k) s ∧ runEv .packageReset s = exec .packageReset s)

/-- Decoding and encoding agree (14 R338 to R343, R353): the word of a well-formed instruction decodes to it with every operand, and a word that
decodes to an instruction is the word of that instruction, which is well formed. No two words mean the same instruction. -/
def Obligations.DecodeEncode : Prop :=
  (∀ (i : Instr) (w : Word), i.wf = true → encode i = some w → decodeWord w = .instr i) ∧
  ∀ (i : Instr) (w : Word), decodeWord w = .instr i → i.wf = true ∧ encode i = some w

/-- The machine after reset (00 R7; 01 R27 to R30; 02 R36; 03 R59; 05 R133; 06 R153, R160; 11 R281; 13 R325; 14 R349), and words of the spec's own
listings that decode to what they stand for. The control space holds the reset values, the default plan is active, the measurement
registers are zero, no session is live, every mode register selects i32, and memory lists nothing (what an unlisted byte reads as is
the model's choice: notes/assumptions/1.md). It rests on readings of the model: notes/assumptions 5. -/
def Obligations.StartState : Prop :=
  let r := State.reset
  let tuned (m : Map Nat) (plane peer : Nat) : Prop := ∃ t, t < 16 ∧ mget? m (16 * plane + t) = some peer
  let two (d plane : Nat) : Prop := plane = d % 16 ∨ plane = (d + 8) % 16
  (∀ self peer plane, self < 128 → peer < 128 → peer ≠ self → plane < 16 →
    (tuned (Plan.default self).tx plane peer ↔ two ((peer + 128 - self) % 128) plane) ∧
    (tuned (Plan.default self).rx plane peer ↔ two ((self + 128 - peer) % 128) plane)) ∧
  r.planActive = Plan.default 0 ∧ (Plan.default 0).id = 0 ∧ r.planPending = none ∧
  (∀ n, mgetD r.mrs n 0 = 0) ∧ r.sess = [] ∧ r.queues = [] ∧ r.spans = [] ∧ r.ctxs = [] ∧ r.boot = .rom ∧ memoryCanonical r ∧
  ctlGet r 0x0000 = 0xD0090000 ∧ ctlGet r 0x0008 = 0x100 ∧ ctlGet r 0x0010 = 0 ∧ ctlGet r 0x0018 = 0xC80 ∧ ctlGet r 0x0020 = 0 ∧
  (∀ m, m < 8 → ctlGet r (0x0040 + 4 * m) = 0) ∧ ctlGet r 0x0120 = 0 ∧ ctlGet r 0x0124 = 0 ∧
  (∀ n, n < 128 → ctlGet r (0x0400 + 4 * n) = 0) ∧
  (∀ n, n < 64 → ctlGet r (0x1008 + 0x40 * n) = 0x60000 ∧ ctlGet r (0x100C + 0x40 * n) = 0 ∧
    ctlGet r (0x2000 + 8 * n) = 0xFFFFFF ∧ ctlGet r (0x2004 + 8 * n) = 0) ∧
  ctlGet r 0x2200 = 0x32 ∧ ctlGet r 0x2208 = 0 ∧ ctlGet r 0x2210 = 0 ∧ ctlGet r 0x2218 = 0 ∧ ctlGet r 0x2500 = 0x100 ∧
  (∀ d, d < 4 → ctlGet r (0x2448 + 0x20 * d) = 0x80400 ∧ ctlGet r (0x2608 + 0x20 * d) = 0x60000 ∧ ctlGet r (0x260C + 0x20 * d) = 0 ∧
    ctlGet r (0x0330 + 4 * d) = 0 ∧ ctlGet r (0x0340 + 4 * d) = 0) ∧
  (∀ c u, (getUnit r c u).mode = 0x1000 ∧ (∀ n l, rdV (getUnit r c u) n l = 0) ∧ ∀ n, rdG (getUnit r c u) n = 0) ∧
  decodeWord 0xA1D410CA = .instr (.lmintc (.g 20) (.v 16) (.g 10)) ∧
  decodeWord 0x280402C0 = .instr (.add (.v 4) (.v 2) (.g 0)) ∧
  decodeWord 0x3D020203 = .instr (.shli (.v 2) (.v 2) 3) ∧
  decodeWord 0x54898508 = .instr (.cmplti (.p 1) .lane 8) ∧
  decodeWord 0x4A035678 = .instr (.li (.v 3) 0x5678) ∧
  decodeWord 0x2592C784 = .instr (.psetg (.gp 2) (.g 7)) ∧
  decodeWord 0x80070606 = .instr (.fdot4 (.v 7) (.v 6) (.v 6)) ∧
  decodeWord 0x0AFECA84 = .instr (.jmpg (.g 62) (.g 10)) ∧
  decodeTableWord 32 0x5EC68500 = some (.cred (.g 6) .lane 0)

/-- Every step answers a next state, and leaves memory in its canonical form: addresses rise strictly, and no listed byte is one
that an unlisted address reads as. So a run never stops, whatever the machine holds: software that errs faults into its handler, is
held or is halted (13 R324, R329), and no word is ignored (14 R356). -/
def Obligations.StepKeepsMemory : Prop :=
  ∀ s : State, memoryCanonical s → ∃ t, step s = .next t ∧ memoryCanonical t
end

