-- ==== Sys2Proof/Laws/Dispatch.lean ====
section
/-! SUPPORT. One equation for each arm of exec, and for the form of each word, so that no proof unfolds the dispatch. -/

namespace Sys2Proof.Machine

section
variable (s : State)

@[simp] theorem exec_ill (x) : exec (.ill x) s = execIll x s := rfl
@[simp] theorem exec_nop : exec (.nop) s = execNop s := rfl
@[simp] theorem exec_bra (t) : exec (.bra t) s = execBra t s := rfl
@[simp] theorem exec_bany (p) (t) : exec (.bany p t) s = execBany p t s := rfl
@[simp] theorem exec_ball (p) (t) : exec (.ball p t) s = execBall p t s := rfl
@[simp] theorem exec_bnone (p) (t) : exec (.bnone p t) s = execBnone p t s := rfl
@[simp] theorem exec_split (p) (t) : exec (.split p t) s = execSplit p t s := rfl
@[simp] theorem exec_join : exec (.join) s = execJoin s := rfl
@[simp] theorem exec_call (t) : exec (.call t) s = execCall t s := rfl
@[simp] theorem exec_ret (a) : exec (.ret a) s = execRet a s := rfl
@[simp] theorem exec_jmpg (d) (a) : exec (.jmpg d a) s = execJmpg d a s := rfl
@[simp] theorem exec_exit : exec (.exit) s = execExit s := rfl
@[simp] theorem exec_yield : exec (.yield) s = execYield s := rfl
@[simp] theorem exec_bar (n) : exec (.bar n) s = execBar n s := rfl
@[simp] theorem exec_bara (n) : exec (.bara n) s = execBara n s := rfl
@[simp] theorem exec_barw (n) : exec (.barw n) s = execBarw n s := rfl
@[simp] theorem exec_hbar (a) (l) (imm) : exec (.hbar a l imm) s = execHbar a l imm s := rfl
@[simp] theorem exec_sleep (a) : exec (.sleep a) s = execSleep a s := rfl
@[simp] theorem exec_exset (a) : exec (.exset a) s = execExset a s := rfl
@[simp] theorem exec_exget (d) : exec (.exget d) s = execExget d s := rfl
@[simp] theorem exec_modea (imm) : exec (.modea imm) s = execModea imm s := rfl
@[simp] theorem exec_modeb (imm) : exec (.modeb imm) s = execModeb imm s := rfl
@[simp] theorem exec_modeg (d) : exec (.modeg d) s = execModeg d s := rfl
@[simp] theorem exec_waitc (a) (imm) : exec (.waitc a imm) s = execWaitc a imm s := rfl
@[simp] theorem exec_plset (a) : exec (.plset a) s = execPlset a s := rfl
@[simp] theorem exec_plsetp (a) (k) : exec (.plsetp a k) s = execPlsetp a k s := rfl
@[simp] theorem exec_plocc (d) : exec (.plocc d) s = execPlocc d s := rfl
@[simp] theorem exec_repack (n) : exec (.repack n) s = execRepack n s := rfl
@[simp] theorem exec_pand (d) (a) (b) : exec (.pand d a b) s = execPand d a b s := rfl
@[simp] theorem exec_por (d) (a) (b) : exec (.por d a b) s = execPor d a b s := rfl
@[simp] theorem exec_pxor (d) (a) (b) : exec (.pxor d a b) s = execPxor d a b s := rfl
@[simp] theorem exec_pnot (d) (a) : exec (.pnot d a) s = execPnot d a s := rfl
@[simp] theorem exec_pmov (d) (a) : exec (.pmov d a) s = execPmov d a s := rfl
@[simp] theorem exec_psetg (d) (a) : exec (.psetg d a) s = execPsetg d a s := rfl
@[simp] theorem exec_pgetg (d) : exec (.pgetg d) s = execPgetg d s := rfl
@[simp] theorem exec_add (d) (a) (b) : exec (.add d a b) s = execAdd d a b s := rfl
@[simp] theorem exec_addi (d) (a) (imm) : exec (.addi d a imm) s = execAddi d a imm s := rfl
@[simp] theorem exec_subw (d) (a) (b) : exec (.subw d a b) s = execSubw d a b s := rfl
@[simp] theorem exec_mul (d) (a) (b) : exec (.mul d a b) s = execMul d a b s := rfl
@[simp] theorem exec_mulh (d) (a) (b) : exec (.mulh d a b) s = execMulh d a b s := rfl
@[simp] theorem exec_mad (d) (a) (b) : exec (.mad d a b) s = execMad d a b s := rfl
@[simp] theorem exec_div (d) (a) (b) : exec (.div d a b) s = execDiv d a b s := rfl
@[simp] theorem exec_rem (d) (a) (b) : exec (.rem d a b) s = execRem d a b s := rfl
@[simp] theorem exec_minw (d) (a) (b) : exec (.minw d a b) s = execMinw d a b s := rfl
@[simp] theorem exec_maxw (d) (a) (b) : exec (.maxw d a b) s = execMaxw d a b s := rfl
@[simp] theorem exec_abs (d) (a) : exec (.abs d a) s = execAbs d a s := rfl
@[simp] theorem exec_neg (d) (a) : exec (.neg d a) s = execNeg d a s := rfl
@[simp] theorem exec_andw (d) (a) (b) : exec (.andw d a b) s = execAndw d a b s := rfl
@[simp] theorem exec_andi (d) (a) (imm) : exec (.andi d a imm) s = execAndi d a imm s := rfl
@[simp] theorem exec_orw (d) (a) (b) : exec (.orw d a b) s = execOrw d a b s := rfl
@[simp] theorem exec_ori (d) (a) (imm) : exec (.ori d a imm) s = execOri d a imm s := rfl
@[simp] theorem exec_xorw (d) (a) (b) : exec (.xorw d a b) s = execXorw d a b s := rfl
@[simp] theorem exec_xori (d) (a) (imm) : exec (.xori d a imm) s = execXori d a imm s := rfl
@[simp] theorem exec_andn (d) (a) (b) : exec (.andn d a b) s = execAndn d a b s := rfl
@[simp] theorem exec_notw (d) (a) : exec (.notw d a) s = execNotw d a s := rfl
@[simp] theorem exec_shl (d) (a) (b) : exec (.shl d a b) s = execShl d a b s := rfl
@[simp] theorem exec_shli (d) (a) (imm) : exec (.shli d a imm) s = execShli d a imm s := rfl
@[simp] theorem exec_shr (d) (a) (b) : exec (.shr d a b) s = execShr d a b s := rfl
@[simp] theorem exec_shri (d) (a) (imm) : exec (.shri d a imm) s = execShri d a imm s := rfl
@[simp] theorem exec_sra (d) (a) (b) : exec (.sra d a b) s = execSra d a b s := rfl
@[simp] theorem exec_srai (d) (a) (imm) : exec (.srai d a imm) s = execSrai d a imm s := rfl
@[simp] theorem exec_rol (d) (a) (b) : exec (.rol d a b) s = execRol d a b s := rfl
@[simp] theorem exec_clz (d) (a) : exec (.clz d a) s = execClz d a s := rfl
@[simp] theorem exec_popc (d) (a) : exec (.popc d a) s = execPopc d a s := rfl
@[simp] theorem exec_brev (d) (a) : exec (.brev d a) s = execBrev d a s := rfl
@[simp] theorem exec_bfx (d) (a) (b) : exec (.bfx d a b) s = execBfx d a b s := rfl
@[simp] theorem exec_bfi (d) (a) (b) : exec (.bfi d a b) s = execBfi d a b s := rfl
@[simp] theorem exec_sel (d) (a) (b) : exec (.sel d a b) s = execSel d a b s := rfl
@[simp] theorem exec_mov (d) (a) : exec (.mov d a) s = execMov d a s := rfl
@[simp] theorem exec_li (d) (imm) : exec (.li d imm) s = execLi d imm s := rfl
@[simp] theorem exec_lih (d) (imm) : exec (.lih d imm) s = execLih d imm s := rfl
@[simp] theorem exec_lea (d) (a) (b) : exec (.lea d a b) s = execLea d a b s := rfl
@[simp] theorem exec_addc (d) (a) (b) : exec (.addc d a b) s = execAddc d a b s := rfl
@[simp] theorem exec_clamp (d) (a) (b) : exec (.clamp d a b) s = execClamp d a b s := rfl
@[simp] theorem exec_cmpeq (d) (a) (b) : exec (.cmpeq d a b) s = execCmpeq d a b s := rfl
@[simp] theorem exec_cmpne (d) (a) (b) : exec (.cmpne d a b) s = execCmpne d a b s := rfl
@[simp] theorem exec_cmplt (d) (a) (b) : exec (.cmplt d a b) s = execCmplt d a b s := rfl
@[simp] theorem exec_cmple (d) (a) (b) : exec (.cmple d a b) s = execCmple d a b s := rfl
@[simp] theorem exec_cmpeqi (d) (a) (imm) : exec (.cmpeqi d a imm) s = execCmpeqi d a imm s := rfl
@[simp] theorem exec_cmplti (d) (a) (imm) : exec (.cmplti d a imm) s = execCmplti d a imm s := rfl
@[simp] theorem exec_vget (d) (a) (b) : exec (.vget d a b) s = execVget d a b s := rfl
@[simp] theorem exec_vput (d) (a) (b) : exec (.vput d a b) s = execVput d a b s := rfl
@[simp] theorem exec_shfl (d) (a) (b) : exec (.shfl d a b) s = execShfl d a b s := rfl
@[simp] theorem exec_shflx (d) (a) (b) : exec (.shflx d a b) s = execShflx d a b s := rfl
@[simp] theorem exec_shflup (d) (a) (b) : exec (.shflup d a b) s = execShflup d a b s := rfl
@[simp] theorem exec_shfldn (d) (a) (b) : exec (.shfldn d a b) s = execShfldn d a b s := rfl
@[simp] theorem exec_bcast (d) (a) (b) : exec (.bcast d a b) s = execBcast d a b s := rfl
@[simp] theorem exec_vote (d) (a) : exec (.vote d a) s = execVote d a s := rfl
@[simp] theorem exec_cred (d) (a) (o) : exec (.cred d a o) s = execCred d a o s := rfl
@[simp] theorem exec_fadd (d) (a) (b) : exec (.fadd d a b) s = execFadd d a b s := rfl
@[simp] theorem exec_fsub (d) (a) (b) : exec (.fsub d a b) s = execFsub d a b s := rfl
@[simp] theorem exec_fmul (d) (a) (b) : exec (.fmul d a b) s = execFmul d a b s := rfl
@[simp] theorem exec_fma (d) (a) (b) : exec (.fma d a b) s = execFma d a b s := rfl
@[simp] theorem exec_fms (d) (a) (b) : exec (.fms d a b) s = execFms d a b s := rfl
@[simp] theorem exec_fnma (d) (a) (b) : exec (.fnma d a b) s = execFnma d a b s := rfl
@[simp] theorem exec_fmin (d) (a) (b) : exec (.fmin d a b) s = execFmin d a b s := rfl
@[simp] theorem exec_fmax (d) (a) (b) : exec (.fmax d a b) s = execFmax d a b s := rfl
@[simp] theorem exec_fabs (d) (a) : exec (.fabs d a) s = execFabs d a s := rfl
@[simp] theorem exec_fneg (d) (a) : exec (.fneg d a) s = execFneg d a s := rfl
@[simp] theorem exec_fcps (d) (a) (b) : exec (.fcps d a b) s = execFcps d a b s := rfl
@[simp] theorem exec_fcmpeq (d) (a) (b) : exec (.fcmpeq d a b) s = execFcmpeq d a b s := rfl
@[simp] theorem exec_fcmplt (d) (a) (b) : exec (.fcmplt d a b) s = execFcmplt d a b s := rfl
@[simp] theorem exec_fcmple (d) (a) (b) : exec (.fcmple d a b) s = execFcmple d a b s := rfl
@[simp] theorem exec_fcmpun (d) (a) (b) : exec (.fcmpun d a b) s = execFcmpun d a b s := rfl
@[simp] theorem exec_fclass (d) (a) : exec (.fclass d a) s = execFclass d a s := rfl
@[simp] theorem exec_frnd (d) (a) : exec (.frnd d a) s = execFrnd d a s := rfl
@[simp] theorem exec_fscale (d) (a) (b) : exec (.fscale d a b) s = execFscale d a b s := rfl
@[simp] theorem exec_fgete (d) (a) : exec (.fgete d a) s = execFgete d a s := rfl
@[simp] theorem exec_fcvt (d) (a) (t) (r) : exec (.fcvt d a t r) s = execFcvt d a t r s := rfl
@[simp] theorem exec_fcvti (d) (a) (t) (r) : exec (.fcvti d a t r) s = execFcvti d a t r s := rfl
@[simp] theorem exec_icvtf (d) (a) (t) (r) : exec (.icvtf d a t r) s = execIcvtf d a t r s := rfl
@[simp] theorem exec_fdiv (d) (a) (b) : exec (.fdiv d a b) s = execFdiv d a b s := rfl
@[simp] theorem exec_fsqrt (d) (a) : exec (.fsqrt d a) s = execFsqrt d a s := rfl
@[simp] theorem exec_frcp (d) (a) : exec (.frcp d a) s = execFrcp d a s := rfl
@[simp] theorem exec_frsq (d) (a) : exec (.frsq d a) s = execFrsq d a s := rfl
@[simp] theorem exec_fexp2 (d) (a) : exec (.fexp2 d a) s = execFexp2 d a s := rfl
@[simp] theorem exec_flog2 (d) (a) : exec (.flog2 d a) s = execFlog2 d a s := rfl
@[simp] theorem exec_fsin (d) (a) : exec (.fsin d a) s = execFsin d a s := rfl
@[simp] theorem exec_fcos (d) (a) : exec (.fcos d a) s = execFcos d a s := rfl
@[simp] theorem exec_ftanh (d) (a) : exec (.ftanh d a) s = execFtanh d a s := rfl
@[simp] theorem exec_fdot2 (d) (a) (b) : exec (.fdot2 d a b) s = execFdot2 d a b s := rfl
@[simp] theorem exec_fdot4 (d) (a) (b) : exec (.fdot4 d a b) s = execFdot4 d a b s := rfl
@[simp] theorem exec_packn (d) (a) (p) (c) : exec (.packn d a p c) s = execPackn d a p c s := rfl
@[simp] theorem exec_unpkn (d) (a) (p) : exec (.unpkn d a p) s = execUnpkn d a p s := rfl
@[simp] theorem exec_ternp (d) (a) (b) : exec (.ternp d a b) s = execTernp d a b s := rfl
@[simp] theorem exec_ternu (d) (a) (b) : exec (.ternu d a b) s = execTernu d a b s := rfl
@[simp] theorem exec_srseed (d) (a) : exec (.srseed d a) s = execSrseed d a s := rfl
@[simp] theorem exec_fflags (d) (a) : exec (.fflags d a) s = execFflags d a s := rfl
@[simp] theorem exec_ld (d) (a) (o) : exec (.ld d a o) s = execLd d a o s := rfl
@[simp] theorem exec_st (d) (a) (o) : exec (.st d a o) s = execSt d a o s := rfl
@[simp] theorem exec_ldacq (d) (a) (o) : exec (.ldacq d a o) s = execLdacq d a o s := rfl
@[simp] theorem exec_strel (d) (a) (o) : exec (.strel d a o) s = execStrel d a o s := rfl
@[simp] theorem exec_ldl (d) (a) (o) : exec (.ldl d a o) s = execLdl d a o s := rfl
@[simp] theorem exec_stl (d) (a) (o) : exec (.stl d a o) s = execStl d a o s := rfl
@[simp] theorem exec_ldx (d) (a) (o) : exec (.ldx d a o) s = execLdx d a o s := rfl
@[simp] theorem exec_stx (d) (a) (o) : exec (.stx d a o) s = execStx d a o s := rfl
@[simp] theorem exec_atadd (d) (a) (b) : exec (.atadd d a b) s = execAtadd d a b s := rfl
@[simp] theorem exec_atmin (d) (a) (b) : exec (.atmin d a b) s = execAtmin d a b s := rfl
@[simp] theorem exec_atmax (d) (a) (b) : exec (.atmax d a b) s = execAtmax d a b s := rfl
@[simp] theorem exec_atand (d) (a) (b) : exec (.atand d a b) s = execAtand d a b s := rfl
@[simp] theorem exec_ator (d) (a) (b) : exec (.ator d a b) s = execAtor d a b s := rfl
@[simp] theorem exec_atxor (d) (a) (b) : exec (.atxor d a b) s = execAtxor d a b s := rfl
@[simp] theorem exec_atxch (d) (a) (b) : exec (.atxch d a b) s = execAtxch d a b s := rfl
@[simp] theorem exec_atcas (d) (a) (b) : exec (.atcas d a b) s = execAtcas d a b s := rfl
@[simp] theorem exec_fence (m) : exec (.fence m) s = execFence m s := rfl
@[simp] theorem exec_pref (a) (o) : exec (.pref a o) s = execPref a o s := rfl
@[simp] theorem exec_resid (a) (o) : exec (.resid a o) s = execResid a o s := rfl
@[simp] theorem exec_lmint (d) (a) (b) : exec (.lmint d a b) s = execLmint d a b s := rfl
@[simp] theorem exec_lmintc (d) (a) (b) : exec (.lmintc d a b) s = execLmintc d a b s := rfl
@[simp] theorem exec_lmintg (d) (a) (b) : exec (.lmintg d a b) s = execLmintg d a b s := rfl
@[simp] theorem exec_lsto (a) (b) : exec (.lsto a b) s = execLsto a b s := rfl
@[simp] theorem exec_lreq (a) (b) : exec (.lreq a b) s = execLreq a b s := rfl
@[simp] theorem exec_ldrop (a) : exec (.ldrop a) s = execLdrop a s := rfl
@[simp] theorem exec_lstat (d) (a) : exec (.lstat d a) s = execLstat d a s := rfl
@[simp] theorem exec_lwait (a) : exec (.lwait a) s = execLwait a s := rfl
@[simp] theorem exec_cpy (a) (b) : exec (.cpy a b) s = execCpy a b s := rfl
@[simp] theorem exec_cpyt (a) (b) : exec (.cpyt a b) s = execCpyt a b s := rfl
@[simp] theorem exec_shopen (d) (a) : exec (.shopen d a) s = execShopen d a s := rfl
@[simp] theorem exec_publ (a) (b) : exec (.publ a b) s = execPubl a b s := rfl
@[simp] theorem exec_shdisc (d) (a) : exec (.shdisc d a) s = execShdisc d a s := rfl
@[simp] theorem exec_cpyres (a) (b) : exec (.cpyres a b) s = execCpyres a b s := rfl
@[simp] theorem exec_halo (d) (a) : exec (.halo d a) s = execHalo d a s := rfl
@[simp] theorem exec_halop : exec (.halop) s = execHalop s := rfl
@[simp] theorem exec_replh (a) : exec (.replh a) s = execReplh a s := rfl
@[simp] theorem exec_fmtb (a) : exec (.fmtb a) s = execFmtb a s := rfl
@[simp] theorem exec_mma (d) (a) (b) : exec (.mma d a b) s = execMma d a b s := rfl
@[simp] theorem exec_mmas (d) (a) (b) : exec (.mmas d a b) s = execMmas d a b s := rfl
@[simp] theorem exec_acz (d) : exec (.acz d) s = execAcz d s := rfl
@[simp] theorem exec_acld (d) (a) : exec (.acld d a) s = execAcld d a s := rfl
@[simp] theorem exec_acst (d) (a) (b) : exec (.acst d a b) s = execAcst d a b s := rfl
@[simp] theorem exec_accvt (d) (a) (b) : exec (.accvt d a b) s = execAccvt d a b s := rfl
@[simp] theorem exec_acchk (d) (a) : exec (.acchk d a) s = execAcchk d a s := rfl
@[simp] theorem exec_mill (a) : exec (.mill a) s = execMill a s := rfl
@[simp] theorem exec_fork (a) (b) : exec (.fork a b) s = execFork a b s := rfl
@[simp] theorem exec_rdv (n) : exec (.rdv n) s = execRdv n s := rfl
@[simp] theorem exec_spawn (d) (a) : exec (.spawn d a) s = execSpawn d a s := rfl
@[simp] theorem exec_srd (d) (a) : exec (.srd d a) s = execSrd d a s := rfl
@[simp] theorem exec_swr (a) (b) : exec (.swr a b) s = execSwr a b s := rfl
@[simp] theorem exec_trap (imm) : exec (.trap imm) s = execTrap imm s := rfl
@[simp] theorem exec_tret : exec (.tret) s = execTret s := rfl
@[simp] theorem exec_bkpt (imm) : exec (.bkpt imm) s = execBkpt imm s := rfl
@[simp] theorem exec_rdtim (d) : exec (.rdtim d) s = execRdtim d s := rfl
@[simp] theorem exec_rdlc (d) : exec (.rdlc d) s = execRdlc d s := rfl
@[simp] theorem exec_lpinv : exec (.lpinv) s = execLpinv s := rfl
@[simp] theorem exec_scrub (d) (a) : exec (.scrub d a) s = execScrub d a s := rfl
@[simp] theorem exec_finj (d) (a) (b) : exec (.finj d a b) s = execFinj d a b s := rfl
@[simp] theorem exec_powerOn : exec (.powerOn) s = execPowerOn s := rfl
@[simp] theorem exec_packageReset : exec (.packageReset) s = execPackageReset s := rfl
@[simp] theorem exec_bootImageFetched (img) : exec (.bootImageFetched img) s = execBootImageFetched img s := rfl
@[simp] theorem exec_bootFetchRetryTimer : exec (.bootFetchRetryTimer) s = execBootFetchRetryTimer s := rfl
@[simp] theorem exec_firmwareUpdateCheck (img) : exec (.firmwareUpdateCheck img) s = execFirmwareUpdateCheck img s := rfl
@[simp] theorem exec_linkTransferError (link) : exec (.linkTransferError link) s = execLinkTransferError link s := rfl
@[simp] theorem exec_patrolScrubRead (line) (err) : exec (.patrolScrubRead line err) s = execPatrolScrubRead line err s := rfl
@[simp] theorem exec_powerWindow (watts) : exec (.powerWindow watts) s = execPowerWindow watts s := rfl
@[simp] theorem exec_thermalThrottleStart (tmax) : exec (.thermalThrottleStart tmax) s = execThermalThrottleStart tmax s := rfl
@[simp] theorem exec_thermalThrottleStop (tmax) : exec (.thermalThrottleStop tmax) s = execThermalThrottleStop tmax s := rfl
@[simp] theorem exec_thermalTrip (tmax) : exec (.thermalTrip tmax) s = execThermalTrip tmax s := rfl
@[simp] theorem exec_registerWrite (off) (val) : exec (.registerWrite off val) s = execRegisterWrite off val s := rfl
@[simp] theorem exec_fabPlanLoad : exec (.fabPlanLoad) s = execFabPlanLoad s := rfl
@[simp] theorem exec_fabPlanSwitch : exec (.fabPlanSwitch) s = execFabPlanSwitch s := rfl
@[simp] theorem exec_fabTimeLoRead : exec (.fabTimeLoRead) s = execFabTimeLoRead s := rfl
@[simp] theorem exec_planSwitchTime : exec (.planSwitchTime) s = execPlanSwitchTime s := rfl
@[simp] theorem exec_planSwitchRxRetune : exec (.planSwitchRxRetune) s = execPlanSwitchRxRetune s := rfl
@[simp] theorem exec_fabPacketReceive (plane) (chanPeer) (pkt) : exec (.fabPacketReceive plane chanPeer pkt) s = execFabPacketReceive plane chanPeer pkt s := rfl
@[simp] theorem exec_fabPacketTransmit (peer) (stream) : exec (.fabPacketTransmit peer stream) s = execFabPacketTransmit peer stream s := rfl
@[simp] theorem exec_selectiveAck (peer) (stream) (base) (bitmap) : exec (.selectiveAck peer stream base bitmap) s = execSelectiveAck peer stream base bitmap s := rfl
@[simp] theorem exec_ackTimer (peer) (stream) : exec (.ackTimer peer stream) s = execAckTimer peer stream s := rfl
@[simp] theorem exec_replayTimeout (peer) (stream) (pseq) : exec (.replayTimeout peer stream pseq) s = execReplayTimeout peer stream pseq s := rfl
@[simp] theorem exec_channelErrorWindow (peer) (plane) (symbols) (corrected) (uncorrectable) : exec (.channelErrorWindow peer plane symbols corrected uncorrectable) s = execChannelErrorWindow peer plane symbols corrected uncorrectable s := rfl
@[simp] theorem exec_channelNotice (peer) (plane) : exec (.channelNotice peer plane) s = execChannelNotice peer plane s := rfl
@[simp] theorem exec_spdmMessage (peer) (m) : exec (.spdmMessage peer m) s = execSpdmMessage peer m s := rfl
@[simp] theorem exec_spdmGetMeasurements (requester) (nonce) : exec (.spdmGetMeasurements requester nonce) s = execSpdmGetMeasurements requester nonce s := rfl
@[simp] theorem exec_spdmKeyUpdate (peer) : exec (.spdmKeyUpdate peer) s = execSpdmKeyUpdate peer s := rfl
@[simp] theorem exec_spdmBusyRetry (peer) : exec (.spdmBusyRetry peer) s = execSpdmBusyRetry peer s := rfl
@[simp] theorem exec_oldKeySlotRetire (peer) : exec (.oldKeySlotRetire peer) s = execOldKeySlotRetire peer s := rfl
@[simp] theorem exec_retiredTagExpiry (tag) : exec (.retiredTagExpiry tag) s = execRetiredTagExpiry tag s := rfl
@[simp] theorem exec_heartbeatTimer : exec (.heartbeatTimer) s = execHeartbeatTimer s := rfl
@[simp] theorem exec_heartbeat (peer) (time) (cell) (plan) (leaving) (clock) : exec (.heartbeat peer time cell plan leaving clock) s = execHeartbeat peer time cell plan leaving clock s := rfl
@[simp] theorem exec_silenceTimeout (peer) : exec (.silenceTimeout peer) s = execSilenceTimeout peer s := rfl
@[simp] theorem exec_sessionEndNotice (peer) : exec (.sessionEndNotice peer) s = execSessionEndNotice peer s := rfl
@[simp] theorem exec_fabBudgetPeriod : exec (.fabBudgetPeriod) s = execFabBudgetPeriod s := rfl
@[simp] theorem exec_transactionTimeout (r) : exec (.transactionTimeout r) s = execTransactionTimeout r s := rfl
@[simp] theorem exec_rds (m) : exec (.rds m) s = execRds m s := rfl
@[simp] theorem exec_rdown (m) : exec (.rdown m) s = execRdown m s := rfl
@[simp] theorem exec_wrbk (m) : exec (.wrbk m) s = execWrbk m s := rfl
@[simp] theorem exec_data (m) : exec (.data m) s = execData m s := rfl
@[simp] theorem exec_refuse (m) : exec (.refuse m) s = execRefuse m s := rfl
@[simp] theorem exec_cmp (m) : exec (.cmp m) s = execCmp m s := rfl
@[simp] theorem exec_cmpack (m) : exec (.cmpack m) s = execCmpack m s := rfl
@[simp] theorem exec_inv (m) : exec (.inv m) s = execInv m s := rfl
@[simp] theorem exec_fwds (m) : exec (.fwds m) s = execFwds m s := rfl
@[simp] theorem exec_fwdown (m) : exec (.fwdown m) s = execFwdown m s := rfl
@[simp] theorem exec_fwdrec (m) : exec (.fwdrec m) s = execFwdrec m s := rfl
@[simp] theorem exec_binv (m) : exec (.binv m) s = execBinv m s := rfl
@[simp] theorem exec_ack (m) : exec (.ack m) s = execAck m s := rfl
@[simp] theorem exec_binvResendTimer (line) : exec (.binvResendTimer line) s = execBinvResendTimer line s := rfl
@[simp] theorem exec_fwdrecTimeout (line) : exec (.fwdrecTimeout line) s = execFwdrecTimeout line s := rfl
@[simp] theorem exec_cellCfgWrite (val) : exec (.cellCfgWrite val) s = execCellCfgWrite val s := rfl
@[simp] theorem exec_cellLeave : exec (.cellLeave) s = execCellLeave s := rfl
@[simp] theorem exec_sfCfgWrite (val) : exec (.sfCfgWrite val) s = execSfCfgWrite val s := rfl
@[simp] theorem exec_sfRecallGo : exec (.sfRecallGo) s = execSfRecallGo s := rfl
@[simp] theorem exec_fwSync : exec (.fwSync) s = execFwSync s := rfl
@[simp] theorem exec_recoveryEngineStart (cell) : exec (.recoveryEngineStart cell) s = execRecoveryEngineStart cell s := rfl
@[simp] theorem exec_recoverySweepEnd : exec (.recoverySweepEnd) s = execRecoverySweepEnd s := rfl
@[simp] theorem exec_hostMemRead (port) (hoff) (own) : exec (.hostMemRead port hoff own) s = execHostMemRead port hoff own s := rfl
@[simp] theorem exec_hostMemWrite (port) (hoff) (data) : exec (.hostMemWrite port hoff data) s = execHostMemWrite port hoff data s := rfl
@[simp] theorem exec_hostBinvAck (port) (line) (data) : exec (.hostBinvAck port line data) s = execHostBinvAck port line data s := rfl
@[simp] theorem exec_hostBinvTimeout (port) (line) : exec (.hostBinvTimeout port line) s = execHostBinvTimeout port line s := rfl
@[simp] theorem exec_hostLinkDown (port) : exec (.hostLinkDown port) s = execHostLinkDown port s := rfl
@[simp] theorem exec_extGrant : exec (.extGrant) s = execExtGrant s := rfl
@[simp] theorem exec_extRevoke : exec (.extRevoke) s = execExtRevoke s := rfl
@[simp] theorem exec_extRevokeComplete (port) (idx) : exec (.extRevokeComplete port idx) s = execExtRevokeComplete port idx s := rfl
@[simp] theorem exec_cwEnq (port) (win) (off) (data) : exec (.cwEnq port win off data) s = execCwEnq port win off data s := rfl
@[simp] theorem exec_cwBindWrite (port) (win) (val) : exec (.cwBindWrite port win val) s = execCwBindWrite port win val s := rfl
@[simp] theorem exec_rtbExtend (val) : exec (.rtbExtend val) s = execRtbExtend val s := rfl
@[simp] theorem exec_audAppend (core) : exec (.audAppend core) s = execAudAppend core s := rfl
@[simp] theorem exec_audRelease : exec (.audRelease) s = execAudRelease s := rfl
@[simp] theorem exec_audExport : exec (.audExport) s = execAudExport s := rfl
@[simp] theorem exec_audRead : exec (.audRead) s = execAudRead s := rfl
@[simp] theorem exec_ctxRelGo (val) : exec (.ctxRelGo val) s = execCtxRelGo val s := rfl
@[simp] theorem exec_ctxReleaseDone (core) (bank) (scrubOk) : exec (.ctxReleaseDone core bank scrubOk) s = execCtxReleaseDone core bank scrubOk s := rfl
@[simp] theorem exec_drainDie (die) : exec (.drainDie die) s = execDrainDie die s := rfl
@[simp] theorem exec_readmitDie (die) : exec (.readmitDie die) s = execReadmitDie die s := rfl
@[simp] theorem exec_stkDrain (stack) : exec (.stkDrain stack) s = execStkDrain stack s := rfl
@[simp] theorem exec_stkRecalibrate (stack) : exec (.stkRecalibrate stack) s = execStkRecalibrate stack s := rfl
@[simp] theorem exec_stkRecalibrateDone (stack) : exec (.stkRecalibrateDone stack) s = execStkRecalibrateDone stack s := rfl
@[simp] theorem exec_stkResume (stack) : exec (.stkResume stack) s = execStkResume stack s := rfl
@[simp] theorem exec_qSubmit (queue) (pa) : exec (.qSubmit queue pa) s = execQSubmit queue pa s := rfl
@[simp] theorem exec_qSkip (queue) : exec (.qSkip queue) s = execQSkip queue s := rfl
@[simp] theorem exec_xlatInvGo (val) : exec (.xlatInvGo val) s = execXlatInvGo val s := rfl
@[simp] theorem exec_sweepComplete (id) : exec (.sweepComplete id) s = execSweepComplete id s := rfl
@[simp] theorem exec_repArmGo (val) : exec (.repArmGo val) s = execRepArmGo val s := rfl
@[simp] theorem exec_replicaArmDone (idx) : exec (.replicaArmDone idx) s = execReplicaArmDone idx s := rfl
@[simp] theorem exec_replicaCollapseDone (page) : exec (.replicaCollapseDone page) s = execReplicaCollapseDone page s := rfl
@[simp] theorem exec_fltRetry (core) (bank) (unit) : exec (.fltRetry core bank unit) s = execFltRetry core bank unit s := rfl
@[simp] theorem exec_fltReflect (core) (bank) (unit) : exec (.fltReflect core bank unit) s = execFltReflect core bank unit s := rfl
@[simp] theorem exec_fltHalt (core) (bank) : exec (.fltHalt core bank) s = execFltHalt core bank s := rfl
@[simp] theorem exec_fltUnhalt (core) (bank) : exec (.fltUnhalt core bank) s = execFltUnhalt core bank s := rfl
@[simp] theorem exec_quadFuseWrite (die) (val) : exec (.quadFuseWrite die val) s = execQuadFuseWrite die val s := rfl
@[simp] theorem exec_cohCfgWrite (val) : exec (.cohCfgWrite val) s = execCohCfgWrite val s := rfl
@[simp] theorem exec_leaseTransitionEnd : exec (.leaseTransitionEnd) s = execLeaseTransitionEnd s := rfl
@[simp] theorem exec_logicalClockTick (core) : exec (.logicalClockTick core) s = execLogicalClockTick core s := rfl
@[simp] theorem exec_clockSync : exec (.clockSync) s = execClockSync s := rfl
@[simp] theorem exec_dispatchDecision : exec (.dispatchDecision) s = execDispatchDecision s := rfl
@[simp] theorem exec_gangFallbackTimer (queue) : exec (.gangFallbackTimer queue) s = execGangFallbackTimer queue s := rfl
@[simp] theorem exec_spanComplete (span) : exec (.spanComplete span) s = execSpanComplete span s := rfl
@[simp] theorem exec_continuationRetry (queue) : exec (.continuationRetry queue) s = execContinuationRetry queue s := rfl
@[simp] theorem exec_schedPeriodBoundary : exec (.schedPeriodBoundary) s = execSchedPeriodBoundary s := rfl
@[simp] theorem exec_contextSwitch (core) : exec (.contextSwitch core) s = execContextSwitch core s := rfl
@[simp] theorem exec_activeIdleTimeout (core) : exec (.activeIdleTimeout core) s = execActiveIdleTimeout core s := rfl
@[simp] theorem exec_residentWaitTimeout (core) : exec (.residentWaitTimeout core) s = execResidentWaitTimeout core s := rfl
@[simp] theorem exec_streamOut (ctx) : exec (.streamOut ctx) s = execStreamOut ctx s := rfl
@[simp] theorem exec_streamIn (ctx) (core) : exec (.streamIn ctx core) s = execStreamIn ctx core s := rfl
@[simp] theorem exec_streamComplete (ctx) : exec (.streamComplete ctx) s = execStreamComplete ctx s := rfl
@[simp] theorem exec_loadDataReturn (r) : exec (.loadDataReturn r) s = execLoadDataReturn r s := rfl
@[simp] theorem exec_storeComplete (r) : exec (.storeComplete r) s = execStoreComplete r s := rfl
@[simp] theorem exec_itemFailReturn (r) (lanes) (cause) (addr) : exec (.itemFailReturn r lanes cause addr) s = execItemFailReturn r lanes cause addr s := rfl
@[simp] theorem exec_walkComplete (core) (ctx) (va) : exec (.walkComplete core ctx va) s = execWalkComplete core ctx va s := rfl
@[simp] theorem exec_arrivalRecord (ctx) (unit) (slot) : exec (.arrivalRecord ctx unit slot) s = execArrivalRecord ctx unit slot s := rfl
@[simp] theorem exec_hbarArrival (a) : exec (.hbarArrival a) s = execHbarArrival a s := rfl
@[simp] theorem exec_sleepExpiry (ctx) (unit) (slot) : exec (.sleepExpiry ctx unit slot) s = execSleepExpiry ctx unit slot s := rfl
@[simp] theorem exec_haloPushWrite (ctx) (push) : exec (.haloPushWrite ctx push) s = execHaloPushWrite ctx push s := rfl
@[simp] theorem exec_landingStore (m) : exec (.landingStore m) s = execLandingStore m s := rfl
@[simp] theorem exec_landingOutcome (r) (lane) (res) : exec (.landingOutcome r lane res) s = execLandingOutcome r lane res s := rfl
@[simp] theorem exec_lreqDeferredFault (r) (lane) (cause) (addr) : exec (.lreqDeferredFault r lane cause addr) s = execLreqDeferredFault r lane cause addr s := rfl
@[simp] theorem exec_nameDeadline (core) (entry) (nonce) : exec (.nameDeadline core entry nonce) s = execNameDeadline core entry nonce s := rfl
@[simp] theorem exec_nameReclaimCellLost (core) (entry) : exec (.nameReclaimCellLost core entry) s = execNameReclaimCellLost core entry s := rfl
@[simp] theorem exec_lnFullTimeout (ctx) (unit) (slot) : exec (.lnFullTimeout ctx unit slot) s = execLnFullTimeout ctx unit slot s := rfl
@[simp] theorem exec_trapEntry (ctx) (unit) : exec (.trapEntry ctx unit) s = execTrapEntry ctx unit s := rfl
@[simp] theorem exec_faultRingRetry (die) : exec (.faultRingRetry die) s = execFaultRingRetry die s := rfl
@[simp] theorem exec_copySegmentIssue (ctx) (unit) (copy) : exec (.copySegmentIssue ctx unit copy) s = execCopySegmentIssue ctx unit copy s := rfl
@[simp] theorem exec_copySegmentDone (ctx) (unit) (copy) (seg) : exec (.copySegmentDone ctx unit copy seg) s = execCopySegmentDone ctx unit copy seg s := rfl
@[simp] theorem exec_copyComplete (ctx) (unit) (copy) : exec (.copyComplete ctx unit copy) s = execCopyComplete ctx unit copy s := rfl
@[simp] theorem exec_publComplete (wid) : exec (.publComplete wid) s = execPublComplete wid s := rfl
@[simp] theorem exec_coxCommandIssue (core) : exec (.coxCommandIssue core) s = execCoxCommandIssue core s := rfl
@[simp] theorem exec_mmaComplete (core) : exec (.mmaComplete core) s = execMmaComplete core s := rfl
@[simp] theorem exec_drainComplete (core) : exec (.drainComplete core) s = execDrainComplete core s := rfl
@[simp] theorem exec_millComplete (stack) : exec (.millComplete stack) s = execMillComplete stack s := rfl
@[simp] theorem exec_drds (m) : exec (.drds m) s = execDrds m s := rfl
@[simp] theorem exec_drdown (m) : exec (.drdown m) s = execDrdown m s := rfl
@[simp] theorem exec_ddata (m) : exec (.ddata m) s = execDdata m s := rfl
@[simp] theorem exec_dfwds (m) : exec (.dfwds m) s = execDfwds m s := rfl
@[simp] theorem exec_dfwdown (m) : exec (.dfwdown m) s = execDfwdown m s := rfl
@[simp] theorem exec_dack (m) : exec (.dack m) s = execDack m s := rfl
@[simp] theorem exec_drecall (m) : exec (.drecall m) s = execDrecall m s := rfl
@[simp] theorem exec_dwrbk (m) : exec (.dwrbk m) s = execDwrbk m s := rfl
@[simp] theorem exec_dcmp (m) : exec (.dcmp m) s = execDcmp m s := rfl
@[simp] theorem exec_leaseWaitEnd (line) : exec (.leaseWaitEnd line) s = execLeaseWaitEnd line s := rfl
@[simp] theorem exec_planSwitchDone : exec (.planSwitchDone) s = execPlanSwitchDone s := rfl
@[simp] theorem exec_readmissionDone (die) (pass) : exec (.readmissionDone die pass) s = execReadmissionDone die pass s := rfl
@[simp] theorem exec_hostLinkUp (port) (width) (rate) (cxl) : exec (.hostLinkUp port width rate cxl) s = execHostLinkUp port width rate cxl s := rfl
@[simp] theorem exec_coolantInletTemperature (degrees) : exec (.coolantInletTemperature degrees) s = execCoolantInletTemperature degrees s := rfl
@[simp] theorem exec_cellJoinComplete : exec (.cellJoinComplete) s = execCellJoinComplete s := rfl
@[simp] theorem exec_lreqRead (m) : exec (.lreqRead m) s = execLreqRead m s := rfl
@[simp] theorem exec_homeAtomic (m) : exec (.homeAtomic m) s = execHomeAtomic m s := rfl
@[simp] theorem exec_fwSyncDone : exec (.fwSyncDone) s = execFwSyncDone s := rfl
@[simp] theorem exec_bootMeasurementExtend (idx) (digest) : exec (.bootMeasurementExtend idx digest) s = execBootMeasurementExtend idx digest s := rfl

end

/-! ## The forms of the words -/

section
variable (m : Word) (crew : Bool)

@[simp] theorem shape_ill (x0) : shape m crew (.ill x0) = shapeE false [] := rfl
@[simp] theorem shape_nop : shape m crew (.nop) = shapeE true [] := rfl
@[simp] theorem shape_bra (x0) : shape m crew (.bra x0) = shapeE true [] := rfl
@[simp] theorem shape_bany (p) (x1) : shape m crew (.bany p x1) = shapeE (!p.bad) [rdPF p] := rfl
@[simp] theorem shape_ball (p) (x1) : shape m crew (.ball p x1) = shapeE (!p.bad) [rdPF p] := rfl
@[simp] theorem shape_bnone (p) (x1) : shape m crew (.bnone p x1) = shapeE (!p.bad) [rdPF p] := rfl
@[simp] theorem shape_split (p) (x1) : shape m crew (.split p x1) = shapeE (!p.bad) [rdPF p] := rfl
@[simp] theorem shape_join : shape m crew (.join) = shapeE true [] := rfl
@[simp] theorem shape_call (x0) : shape m crew (.call x0) = shapeE true [wrD (.g 63) false] := rfl
@[simp] theorem shape_ret (a) : shape m crew (.ret a) = shapeE a.isG [rdS a false] := rfl
@[simp] theorem shape_jmpg (d) (a) : shape m crew (.jmpg d a) = shapeE (d.isGN && a.isG) [wrD d false, rdS a false] := rfl
@[simp] theorem shape_exit : shape m crew (.exit) = shapeE true [] := rfl
@[simp] theorem shape_yield : shape m crew (.yield) = shapeE true [] := rfl
@[simp] theorem shape_bar (x0) : shape m crew (.bar x0) = shapeE true [] := rfl
@[simp] theorem shape_bara (x0) : shape m crew (.bara x0) = shapeE true [] := rfl
@[simp] theorem shape_barw (x0) : shape m crew (.barw x0) = shapeE true [] := rfl
@[simp] theorem shape_hbar (a) (l) (x2) : shape m crew (.hbar a l x2) = shapeE (a.isG && decide (l.toNat < 6)) [rdS a false] := rfl
@[simp] theorem shape_sleep (a) : shape m crew (.sleep a) = shapeE a.isG [rdS a false] := rfl
@[simp] theorem shape_exset (a) : shape m crew (.exset a) = shapeE a.isG [rdS a false] := rfl
@[simp] theorem shape_exget (d) : shape m crew (.exget d) = ⟨d.isG, [wrD d false], .entry, true⟩ := rfl
@[simp] theorem shape_modea (i) : shape m crew (.modea i) = shapeE (decide (bitsN i.toNat 0 2 = 0) && decide (bitsN i.toNat 11 5 < 28) && decide (bitsN i.toNat 8 3 < 6)) [] := rfl
@[simp] theorem shape_modeb (i) : shape m crew (.modeb i) = shapeE (decide (bitsN i.toNat 0 4 = 0)) [] := rfl
@[simp] theorem shape_modeg (d) : shape m crew (.modeg d) = ⟨d.isG, [wrD d false], .entry, true⟩ := rfl
@[simp] theorem shape_waitc (a) (i) : shape m crew (.waitc a i) = shapeE (a.isG && decide (i.toNat < 5)) [rdS a false] := rfl
@[simp] theorem shape_plset (a) : shape m crew (.plset a) = shapeE true [rdS a false] := rfl
@[simp] theorem shape_plsetp (a) (x1) : shape m crew (.plsetp a x1) = shapeE a.isPred [rdS a false] := rfl
@[simp] theorem shape_plocc (d) : shape m crew (.plocc d) = ⟨d.isG, [wrD d false], .entry, true⟩ := rfl
@[simp] theorem shape_repack (x0) : shape m crew (.repack x0) = shapeE true [] := rfl
@[simp] theorem shape_pand (d) (a) (b) : shape m crew (.pand d a b) = shPred d a b := rfl
@[simp] theorem shape_por (d) (a) (b) : shape m crew (.por d a b) = shPred d a b := rfl
@[simp] theorem shape_pxor (d) (a) (b) : shape m crew (.pxor d a b) = shPred d a b := rfl
@[simp] theorem shape_pnot (d) (a) : shape m crew (.pnot d a) = shPred d a .zero := rfl
@[simp] theorem shape_pmov (d) (a) : shape m crew (.pmov d a) = shPred d a .zero := rfl
@[simp] theorem shape_psetg (d) (a) : shape m crew (.psetg d a) = ⟨d.isGp && a.isG, [wrD d false, rdS a false], .group, true⟩ := rfl
@[simp] theorem shape_pgetg (d) : shape m crew (.pgetg d) = ⟨d.isG, [wrD d false, ⟨0x90, false, true, false⟩, ⟨0x91, false, true, false⟩, ⟨0x92, false, true, false⟩, ⟨0x93, false, true, false⟩], .group, true⟩ := rfl
@[simp] theorem shape_add (d) (a) (b) : shape m crew (.add d a b) = shInt3 m true d a b := rfl
@[simp] theorem shape_addi (d) (a) (x2) : shape m crew (.addi d a x2) = shInt2 m true d a := rfl
@[simp] theorem shape_subw (d) (a) (b) : shape m crew (.subw d a b) = shInt3 m true d a b := rfl
@[simp] theorem shape_mul (d) (a) (b) : shape m crew (.mul d a b) = shInt3 m true d a b := rfl
@[simp] theorem shape_mulh (d) (a) (b) : shape m crew (.mulh d a b) = shInt3 m true d a b := rfl
@[simp] theorem shape_mad (d) (a) (b) : shape m crew (.mad d a b) = shIntD m d a b true := rfl
@[simp] theorem shape_div (d) (a) (b) : shape m crew (.div d a b) = shInt3 m true d a b := rfl
@[simp] theorem shape_rem (d) (a) (b) : shape m crew (.rem d a b) = shInt3 m true d a b := rfl
@[simp] theorem shape_minw (d) (a) (b) : shape m crew (.minw d a b) = shInt3 m true d a b := rfl
@[simp] theorem shape_maxw (d) (a) (b) : shape m crew (.maxw d a b) = shInt3 m true d a b := rfl
@[simp] theorem shape_abs (d) (a) : shape m crew (.abs d a) = shInt2 m true d a := rfl
@[simp] theorem shape_neg (d) (a) : shape m crew (.neg d a) = shInt2 m true d a := rfl
@[simp] theorem shape_andw (d) (a) (b) : shape m crew (.andw d a b) = shInt3 m false d a b := rfl
@[simp] theorem shape_andi (d) (a) (x2) : shape m crew (.andi d a x2) = shInt2 m false d a := rfl
@[simp] theorem shape_orw (d) (a) (b) : shape m crew (.orw d a b) = shInt3 m false d a b := rfl
@[simp] theorem shape_ori (d) (a) (x2) : shape m crew (.ori d a x2) = shInt2 m false d a := rfl
@[simp] theorem shape_xorw (d) (a) (b) : shape m crew (.xorw d a b) = shInt3 m false d a b := rfl
@[simp] theorem shape_xori (d) (a) (x2) : shape m crew (.xori d a x2) = shInt2 m false d a := rfl
@[simp] theorem shape_andn (d) (a) (b) : shape m crew (.andn d a b) = shInt3 m false d a b := rfl
@[simp] theorem shape_notw (d) (a) : shape m crew (.notw d a) = shInt2 m false d a := rfl
@[simp] theorem shape_shl (d) (a) (b) : shape m crew (.shl d a b) = shIntC m d a b := rfl
@[simp] theorem shape_shli (d) (a) (x2) : shape m crew (.shli d a x2) = shInt2 m true d a := rfl
@[simp] theorem shape_shr (d) (a) (b) : shape m crew (.shr d a b) = shIntC m d a b := rfl
@[simp] theorem shape_shri (d) (a) (x2) : shape m crew (.shri d a x2) = shInt2 m true d a := rfl
@[simp] theorem shape_sra (d) (a) (b) : shape m crew (.sra d a b) = shIntC m d a b := rfl
@[simp] theorem shape_srai (d) (a) (x2) : shape m crew (.srai d a x2) = shInt2 m true d a := rfl
@[simp] theorem shape_rol (d) (a) (b) : shape m crew (.rol d a b) = shIntC m d a b := rfl
@[simp] theorem shape_clz (d) (a) : shape m crew (.clz d a) = shInt2 m true d a := rfl
@[simp] theorem shape_popc (d) (a) : shape m crew (.popc d a) = shInt2 m true d a := rfl
@[simp] theorem shape_brev (d) (a) : shape m crew (.brev d a) = shInt2 m true d a := rfl
@[simp] theorem shape_bfx (d) (a) (b) : shape m crew (.bfx d a b) = shIntC m d a b := rfl
@[simp] theorem shape_bfi (d) (a) (b) : shape m crew (.bfi d a b) = shIntD m d a b false := rfl
@[simp] theorem shape_sel (d) (a) (b) : shape m crew (.sel d a b) = shape3 (d.isVGN && b.isPred) (rwD d (isWide (mTy m))) (rdS a (isWide (mTy m))) (rdS b false) (scopeOf d) := rfl
@[simp] theorem shape_mov (d) (a) : shape m crew (.mov d a) = shInt2 m false d a := rfl
@[simp] theorem shape_li (d) (x1) : shape m crew (.li d x1) = ⟨d.isVGN, [wrD d (isWide (mTy m))], scopeOf d, true⟩ := rfl
@[simp] theorem shape_lih (d) (x1) : shape m crew (.lih d x1) = ⟨d.isVGN, [rwD d false], scopeOf d, true⟩ := rfl
@[simp] theorem shape_lea (d) (a) (b) : shape m crew (.lea d a b) = shape3 (d.isVGN && isInt (mTy m)) (wrD d true) (rdS a true) (rdS b (isWide (mTy m))) (scopeOf d) := rfl
@[simp] theorem shape_addc (d) (a) (b) : shape m crew (.addc d a b) = shInt3 m true d a b := rfl
@[simp] theorem shape_clamp (d) (a) (b) : shape m crew (.clamp d a b) = shIntD m d a b true := rfl
@[simp] theorem shape_cmpeq (d) (a) (b) : shape m crew (.cmpeq d a b) = shCmp m d a b := rfl
@[simp] theorem shape_cmpne (d) (a) (b) : shape m crew (.cmpne d a b) = shCmp m d a b := rfl
@[simp] theorem shape_cmplt (d) (a) (b) : shape m crew (.cmplt d a b) = shCmp m d a b := rfl
@[simp] theorem shape_cmple (d) (a) (b) : shape m crew (.cmple d a b) = shCmp m d a b := rfl
@[simp] theorem shape_cmpeqi (d) (a) (x2) : shape m crew (.cmpeqi d a x2) = shCmp m d a .zero := rfl
@[simp] theorem shape_cmplti (d) (a) (x2) : shape m crew (.cmplti d a x2) = shCmp m d a .zero := rfl
@[simp] theorem shape_vget (d) (a) (b) : shape m crew (.vget d a b) = ⟨d.isG && a.isV && b.isG0, [wrD d (isWide (mTy m)), rdS a (isWide (mTy m)), rdS b false], .entry, true⟩ := rfl
@[simp] theorem shape_vput (d) (a) (b) : shape m crew (.vput d a b) = ⟨d.isV && a.isGroup && b.isG0, [wrD d (isWide (mTy m)), rdS a (isWide (mTy m)), rdS b false], .entry, true⟩ := rfl
@[simp] theorem shape_shfl (d) (a) (b) : shape m crew (.shfl d a b) = shShfl m true d a b := rfl
@[simp] theorem shape_shflx (d) (a) (b) : shape m crew (.shflx d a b) = shShfl m true d a b := rfl
@[simp] theorem shape_shflup (d) (a) (b) : shape m crew (.shflup d a b) = shShfl m true d a b := rfl
@[simp] theorem shape_shfldn (d) (a) (b) : shape m crew (.shfldn d a b) = shShfl m true d a b := rfl
@[simp] theorem shape_bcast (d) (a) (b) : shape m crew (.bcast d a b) = shShfl m b.isG0 d a b := rfl
@[simp] theorem shape_vote (d) (a) : shape m crew (.vote d a) = ⟨d.isG && a.isPred, [wrD d false, rdS a false], .entry, true⟩ := rfl
@[simp] theorem shape_cred (d) (a) (o) : shape m crew (.cred d a o) = ⟨d.isG && isInt (mTy m) && decide (o.toNat < 6), [wrD d (isWide (mTy m)), rdS a (isWide (mTy m))], .entry, true⟩ := rfl
@[simp] theorem shape_fadd (d) (a) (b) : shape m crew (.fadd d a b) = shF3 m d a b := rfl
@[simp] theorem shape_fsub (d) (a) (b) : shape m crew (.fsub d a b) = shF3 m d a b := rfl
@[simp] theorem shape_fmul (d) (a) (b) : shape m crew (.fmul d a b) = shF3 m d a b := rfl
@[simp] theorem shape_fma (d) (a) (b) : shape m crew (.fma d a b) = shFD m d a b := rfl
@[simp] theorem shape_fms (d) (a) (b) : shape m crew (.fms d a b) = shFD m d a b := rfl
@[simp] theorem shape_fnma (d) (a) (b) : shape m crew (.fnma d a b) = shFD m d a b := rfl
@[simp] theorem shape_fmin (d) (a) (b) : shape m crew (.fmin d a b) = shF3 m d a b := rfl
@[simp] theorem shape_fmax (d) (a) (b) : shape m crew (.fmax d a b) = shF3 m d a b := rfl
@[simp] theorem shape_fabs (d) (a) : shape m crew (.fabs d a) = shF2 m (isFB (mTy m)) d a := rfl
@[simp] theorem shape_fneg (d) (a) : shape m crew (.fneg d a) = shF2 m (isFB (mTy m)) d a := rfl
@[simp] theorem shape_fcps (d) (a) (b) : shape m crew (.fcps d a b) = shF3 m d a b := rfl
@[simp] theorem shape_fcmpeq (d) (a) (b) : shape m crew (.fcmpeq d a b) = shFC m d a b := rfl
@[simp] theorem shape_fcmplt (d) (a) (b) : shape m crew (.fcmplt d a b) = shFC m d a b := rfl
@[simp] theorem shape_fcmple (d) (a) (b) : shape m crew (.fcmple d a b) = shFC m d a b := rfl
@[simp] theorem shape_fcmpun (d) (a) (b) : shape m crew (.fcmpun d a b) = shFC m d a b := rfl
@[simp] theorem shape_fclass (d) (a) : shape m crew (.fclass d a) = shape2 (d.isVGN && isFB (mTy m)) (wrD d false) (rdS a (isWide (mTy m))) (scopeOf d) := rfl
@[simp] theorem shape_frnd (d) (a) : shape m crew (.frnd d a) = shF2 m (isFB (mTy m)) d a := rfl
@[simp] theorem shape_fscale (d) (a) (b) : shape m crew (.fscale d a b) = shape3 (d.isVGN && isFB (mTy m)) (wrD d (isWide (mTy m))) (rdS a (isWide (mTy m))) (rdS b false) (scopeOf d) := rfl
@[simp] theorem shape_fgete (d) (a) : shape m crew (.fgete d a) = shF2 m (isFB (mTy m)) d a := rfl
@[simp] theorem shape_fcvt (d) (a) (t) (r) : shape m crew (.fcvt d a t r) = shCvt m ((isFB (mTy m) || decide (mTy m = 27)) && (isFB t.toNat || decide (t.toNat = 27))) d a t r := rfl
@[simp] theorem shape_fcvti (d) (a) (t) (r) : shape m crew (.fcvti d a t r) = shCvt m (isFB (mTy m) && isInt t.toNat) d a t r := rfl
@[simp] theorem shape_icvtf (d) (a) (t) (r) : shape m crew (.icvtf d a t r) = shCvt m (isInt (mTy m) && isFB t.toNat) d a t r := rfl
@[simp] theorem shape_fdiv (d) (a) (b) : shape m crew (.fdiv d a b) = shF3 m d a b := rfl
@[simp] theorem shape_fsqrt (d) (a) : shape m crew (.fsqrt d a) = shF2 m (isFB (mTy m)) d a := rfl
@[simp] theorem shape_frcp (d) (a) : shape m crew (.frcp d a) = shF2 m (isIeee (mTy m)) d a := rfl
@[simp] theorem shape_frsq (d) (a) : shape m crew (.frsq d a) = shF2 m (isIeee (mTy m)) d a := rfl
@[simp] theorem shape_fexp2 (d) (a) : shape m crew (.fexp2 d a) = shF2 m (isIeee (mTy m) && decide (mTy m ≠ 11)) d a := rfl
@[simp] theorem shape_flog2 (d) (a) : shape m crew (.flog2 d a) = shF2 m (isIeee (mTy m) && decide (mTy m ≠ 11)) d a := rfl
@[simp] theorem shape_fsin (d) (a) : shape m crew (.fsin d a) = shF2 m (isIeee (mTy m) && decide (mTy m ≠ 11)) d a := rfl
@[simp] theorem shape_fcos (d) (a) : shape m crew (.fcos d a) = shF2 m (isIeee (mTy m) && decide (mTy m ≠ 11)) d a := rfl
@[simp] theorem shape_ftanh (d) (a) : shape m crew (.ftanh d a) = shF2 m (isIeee (mTy m) && decide (mTy m ≠ 11)) d a := rfl
@[simp] theorem shape_fdot2 (d) (a) (b) : shape m crew (.fdot2 d a b) = shape3 (d.isVGN && (decide (mTy m = 8) || decide (mTy m = 9))) (rwD d false) (rdS a false) (rdS b false) (scopeOf d) := rfl
@[simp] theorem shape_fdot4 (d) (a) (b) : shape m crew (.fdot4 d a b) = shape3 (d.isVGN && isB8 (mTy m)) (rwD d false) (rdS a false) (rdS b false) (scopeOf d) := rfl
@[simp] theorem shape_packn (d) (a) (p) (c) : shape m crew (.packn d a p c) = shape2 (d.isVGN && packTy (mTy m) && packPos (mTy m) p.toNat && decide (c.toNat < 6)) (rwD d false) (rdS a false) (scopeOf d) := rfl
@[simp] theorem shape_unpkn (d) (a) (p) : shape m crew (.unpkn d a p) = shape2 (d.isVGN && packTy (mTy m) && packPos (mTy m) p.toNat) (wrD d false) (rdS a false) (scopeOf d) := rfl
@[simp] theorem shape_ternp (d) (a) (b) : shape m crew (.ternp d a b) = shape3 (d.isVGN && (isInt (mTy m) || isFB (mTy m))) (rwD d false) (rdS a (isWide (mTy m))) (rdS b false) (scopeOf d) := rfl
@[simp] theorem shape_ternu (d) (a) (b) : shape m crew (.ternu d a b) = shape3 (d.isVGN && (isInt (mTy m) || isFB (mTy m))) (wrD d (isWide (mTy m))) (rdS a false) (rdS b false) (scopeOf d) := rfl
@[simp] theorem shape_srseed (d) (a) : shape m crew (.srseed d a) = shape2 d.isVGN (wrD d false) (rdS a false) (scopeOf d) := rfl
@[simp] theorem shape_fflags (d) (a) : shape m crew (.fflags d a) = ⟨d.isG && a.isG0, [wrD d false, rdS a false], .group, true⟩ := rfl
@[simp] theorem shape_ld (d) (a) (x2) : shape m crew (.ld d a x2) = shLoad m d a true := rfl
@[simp] theorem shape_st (d) (a) (x2) : shape m crew (.st d a x2) = shStore m d a true := rfl
@[simp] theorem shape_ldacq (d) (a) (x2) : shape m crew (.ldacq d a x2) = shLoad m d a true := rfl
@[simp] theorem shape_strel (d) (a) (x2) : shape m crew (.strel d a x2) = shStore m d a true := rfl
@[simp] theorem shape_ldl (d) (a) (x2) : shape m crew (.ldl d a x2) = shLoad m d a false := rfl
@[simp] theorem shape_stl (d) (a) (x2) : shape m crew (.stl d a x2) = shStore m d a false := rfl
@[simp] theorem shape_ldx (d) (a) (x2) : shape m crew (.ldx d a x2) = shLoad m d a true := rfl
@[simp] theorem shape_stx (d) (a) (x2) : shape m crew (.stx d a x2) = shStore m d a true := rfl
@[simp] theorem shape_atadd (d) (a) (b) : shape m crew (.atadd d a b) = shAtomic m true false d a b := rfl
@[simp] theorem shape_atmin (d) (a) (b) : shape m crew (.atmin d a b) = shAtomic m false false d a b := rfl
@[simp] theorem shape_atmax (d) (a) (b) : shape m crew (.atmax d a b) = shAtomic m false false d a b := rfl
@[simp] theorem shape_atand (d) (a) (b) : shape m crew (.atand d a b) = shAtomic m false false d a b := rfl
@[simp] theorem shape_ator (d) (a) (b) : shape m crew (.ator d a b) = shAtomic m false false d a b := rfl
@[simp] theorem shape_atxor (d) (a) (b) : shape m crew (.atxor d a b) = shAtomic m false false d a b := rfl
@[simp] theorem shape_atxch (d) (a) (b) : shape m crew (.atxch d a b) = shAtomic m true false d a b := rfl
@[simp] theorem shape_atcas (d) (a) (b) : shape m crew (.atcas d a b) = shAtomic m true true d a b := rfl
@[simp] theorem shape_fence (x0) : shape m crew (.fence x0) = shapeE true [] := rfl
@[simp] theorem shape_pref (a) (x1) : shape m crew (.pref a x1) = ⟨a.isVG, [rdS a true], .lane, false⟩ := rfl
@[simp] theorem shape_resid (a) (x1) : shape m crew (.resid a x1) = ⟨a.isVG, [rdS a true], .lane, false⟩ := rfl
@[simp] theorem shape_lmint (d) (a) (b) : shape m crew (.lmint d a b) = shapeE (d.isV && a.isV && b.isG) [wrD d true, rdS b false] := rfl
@[simp] theorem shape_lmintc (d) (a) (b) : shape m crew (.lmintc d a b) = shapeE (d.isG && a.isV && b.isG) [wrD d true, rdS b false] := rfl
@[simp] theorem shape_lmintg (d) (a) (b) : shape m crew (.lmintg d a b) = shapeE (d.isG && a.isG && b.isG) [wrD d true, rdS b false] := rfl
@[simp] theorem shape_lsto (a) (b) : shape m crew (.lsto a b) = shapeE (a.isVG && !b.isQ && (crew || (a.isG && b.isGroup))) [rdS a true, rdS b (isWide (mTy m))] := rfl
@[simp] theorem shape_lreq (a) (b) : shape m crew (.lreq a b) = shapeE ((a.isV && b.isV) || (a.isG && b.isG)) [rdS a true, rdS b true] := rfl
@[simp] theorem shape_ldrop (a) : shape m crew (.ldrop a) = shapeE a.isVG [rdS a true] := rfl
@[simp] theorem shape_lstat (d) (a) : shape m crew (.lstat d a) = ⟨d.isG && a.isVG, [wrD d false, ⟨a.code.toNat, false, false, false⟩], .entry, true⟩ := rfl
@[simp] theorem shape_lwait (a) : shape m crew (.lwait a) = shapeE a.isVG [⟨a.code.toNat, false, false, false⟩] := rfl
@[simp] theorem shape_cpy (a) (b) : shape m crew (.cpy a b) = shG .none true a b true true := rfl
@[simp] theorem shape_cpyt (a) (b) : shape m crew (.cpyt a b) = shG .none true a b false true := rfl
@[simp] theorem shape_shopen (d) (a) : shape m crew (.shopen d a) = shG d d.isG a a false false := rfl
@[simp] theorem shape_publ (a) (b) : shape m crew (.publ a b) = shG .none true a b false true := rfl
@[simp] theorem shape_shdisc (d) (a) : shape m crew (.shdisc d a) = shG d d.isG a a false false := rfl
@[simp] theorem shape_cpyres (a) (b) : shape m crew (.cpyres a b) = shG .none true a b false true := rfl
@[simp] theorem shape_halo (d) (a) : shape m crew (.halo d a) = shG d d.isG a a false false := rfl
@[simp] theorem shape_halop : shape m crew (.halop) = shapeE true [] := rfl
@[simp] theorem shape_replh (a) : shape m crew (.replh a) = shG .none true a a true false := rfl
@[simp] theorem shape_fmtb (a) : shape m crew (.fmtb a) = shG .none true a a false false := rfl
@[simp] theorem shape_mma (d) (a) (b) : shape m crew (.mma d a b) = shapeE (d.isAcc && a.isG && b.isG) [rdS a false, rdS b false] := rfl
@[simp] theorem shape_mmas (d) (a) (b) : shape m crew (.mmas d a b) = shapeE (d.isAcc && a.isG && b.isG) [rdS a true, rdS b false] := rfl
@[simp] theorem shape_acz (d) : shape m crew (.acz d) = shapeE d.isAcc [] := rfl
@[simp] theorem shape_acld (d) (a) : shape m crew (.acld d a) = shapeE (d.isAcc && a.isG) [rdS a false] := rfl
@[simp] theorem shape_acst (d) (a) (b) : shape m crew (.acst d a b) = shapeE (d.isAcc && a.isG && b.isG) [rdS a false, rdS b true] := rfl
@[simp] theorem shape_accvt (d) (a) (b) : shape m crew (.accvt d a b) = shapeE (d.isAcc && a.isG && b.isG) [rdS a false, rdS b true] := rfl
@[simp] theorem shape_acchk (d) (a) : shape m crew (.acchk d a) = shapeE (d.isG && a.isG) [wrD d false, rdS a false] := rfl
@[simp] theorem shape_mill (a) : shape m crew (.mill a) = shapeE a.isG [rdS a false] := rfl
@[simp] theorem shape_fork (a) (b) : shape m crew (.fork a b) = shapeE (a.isG0 && b.isG0 && !(decide (a = .zero) && decide (b = .zero))) [rdS a false, rdS b false] := rfl
@[simp] theorem shape_rdv (x0) : shape m crew (.rdv x0) = shapeE true [] := rfl
@[simp] theorem shape_spawn (d) (a) : shape m crew (.spawn d a) = shapeE (d.isG && a.isG) [wrD d false, rdS a true] := rfl
@[simp] theorem shape_srd (d) (a) : shape m crew (.srd d a) = ⟨d.isG && specialReg a.toNat && (crew || !trapReg a.toNat), [wrD d ((isWide (mTy m)) || wideReg a.toNat)], .entry, true⟩ := rfl
@[simp] theorem shape_swr (a) (b) : shape m crew (.swr a b) = shapeE (a.isG && specialReg b.toNat && (crew || !trapReg b.toNat)) [rdS a (wideReg b.toNat)] := rfl
@[simp] theorem shape_trap (x0) : shape m crew (.trap x0) = shapeE true [] := rfl
@[simp] theorem shape_tret : shape m crew (.tret) = shapeE true [] := rfl
@[simp] theorem shape_bkpt (x0) : shape m crew (.bkpt x0) = shapeE true [] := rfl
@[simp] theorem shape_rdtim (d) : shape m crew (.rdtim d) = ⟨d.isG, [wrD d true], .entry, true⟩ := rfl
@[simp] theorem shape_rdlc (d) : shape m crew (.rdlc d) = ⟨d.isG, [wrD d true], .entry, true⟩ := rfl
@[simp] theorem shape_lpinv : shape m crew (.lpinv) = shapeE true [] := rfl
@[simp] theorem shape_scrub (d) (a) : shape m crew (.scrub d a) = shapeE (d.isG && a.isG) [wrD d false, rdS a true] := rfl
@[simp] theorem shape_finj (d) (a) (b) : shape m crew (.finj d a b) = shapeE (d.isAcc && a.isG && b.isG) [rdS a false, rdS b false] := rfl

end

end Sys2Proof.Machine
end

