-- ==== Sys2Proof/Laws/Maps.lean ====
section
/-! SUPPORT. Laws of sparse maps: reads after writes, rising keys, maps that never list their default, and the canonical
form of memory. -/

namespace Sys2Proof.Machine

/-! ## Reads after writes -/

@[simp] theorem mget?_mset_same {V : Type} (m : Map V) (q : Nat) (x : V) : mget? (mset m q x) q = some x := by
  induction m with
  | nil => simp [mset, mget?]
  | cons e t ih =>
    obtain ⟨k, v⟩ := e
    by_cases h : k = q
    · simp [mset, mget?, h]
    · by_cases h2 : q < k <;> simp [mset, mget?, h, h2, ih]

theorem mget?_mset_other {V : Type} (m : Map V) {q r : Nat} (x : V) (h : r ≠ q) : mget? (mset m q x) r = mget? m r := by
  induction m with
  | nil => simp [mset, mget?, h.symm]
  | cons e t ih =>
    obtain ⟨k, v⟩ := e
    by_cases hk : k = q
    · subst hk; simp [mset, mget?, h.symm]
    · by_cases h2 : q < k <;> simp [mset, mget?, hk, h2, ih, h.symm]

theorem mget?_mset {V : Type} (m : Map V) (q r : Nat) (x : V) :
    mget? (mset m q x) r = if r = q then some x else mget? m r := by
  split
  · next h => subst h; exact mget?_mset_same m _ x
  · next h => exact mget?_mset_other m x h

theorem mget?_mdel {V : Type} (m : Map V) (q r : Nat) :
    mget? (mdel m q) r = if r = q then none else mget? m r := by
  induction m with
  | nil => simp [mdel, mget?]
  | cons e t ih =>
    obtain ⟨k, v⟩ := e
    simp only [mdel] at ih
    by_cases hk : k = q
    · subst hk
      by_cases hr : r = k
      · subst hr; simp_all [mdel]
      · simp_all [mdel, mget?, Ne.symm hr]
    · by_cases hr : k = r
      · subst hr; simp [mdel, mget?, hk]
      · simp_all [mdel, mget?]

theorem mgetD_mset {V : Type} (m : Map V) (q r : Nat) (x d : V) :
    mgetD (mset m q x) r d = if r = q then x else mgetD m r d := by
  unfold mgetD; rw [mget?_mset]; split <;> rfl

theorem mgetD_mput {V : Type} [DecidableEq V] (m : Map V) (q r : Nat) (x d : V) :
    mgetD (mput m d q x) r d = if r = q then x else mgetD m r d := by
  unfold mput
  split
  · next h => subst h; unfold mgetD; rw [mget?_mdel]; split <;> rfl
  · exact mgetD_mset m q r x d

@[simp] theorem mgetD_mput_same {V : Type} [DecidableEq V] (m : Map V) (q : Nat) (x d : V) :
    mgetD (mput m d q x) q d = x := by rw [mgetD_mput]; simp

theorem mgetD_mput_other {V : Type} [DecidableEq V] (m : Map V) {q r : Nat} (x d : V) (h : r ≠ q) :
    mgetD (mput m d q x) r d = mgetD m r d := by rw [mgetD_mput]; simp [h]

/-! ## Rising keys and the default -/

theorem Map.sorted_iff {V : Type} (m : Map V) : Map.sorted m = true ↔ (m.map Prod.fst).Pairwise (· < ·) := by
  simp [Map.sorted]

theorem mem_mset_fst {V : Type} {m : Map V} {q : Nat} {x : V} {k : Nat} (h : k ∈ (mset m q x).map Prod.fst) :
    k = q ∨ k ∈ m.map Prod.fst := by
  induction m with
  | nil => simpa [mset] using h
  | cons e t ih =>
    obtain ⟨a, v⟩ := e
    simp only [mset] at h
    split at h
    · simp only [List.map_cons, List.mem_cons] at h ⊢
      rcases h with h | h
      · exact .inl h
      · exact .inr (.inr h)
    · split at h
      · simpa using h
      · simp only [List.map_cons, List.mem_cons] at h ⊢
        rcases h with h | h
        · exact .inr (.inl h)
        · exact (ih h).imp id .inr

theorem sorted_mset {V : Type} {m : Map V} (q : Nat) (x : V) (h : Map.sorted m = true) :
    Map.sorted (mset m q x) = true := by
  rw [Map.sorted_iff] at *
  induction m with
  | nil => simp [mset]
  | cons e t ih =>
    obtain ⟨k, v⟩ := e
    rw [List.map_cons, List.pairwise_cons] at h
    simp only [mset]
    split
    · next hk => subst hk; simpa using h
    · split
      · next hk hq =>
        rw [List.map_cons, List.pairwise_cons]
        refine ⟨fun y hy => ?_, by simpa using h⟩
        simp only [List.map_cons, List.mem_cons] at hy
        rcases hy with hy | hy
        · exact hy ▸ hq
        · exact Nat.lt_trans hq (h.1 y hy)
      · next hk hq =>
        rw [List.map_cons, List.pairwise_cons]
        refine ⟨fun y hy => ?_, ih h.2⟩
        rcases mem_mset_fst hy with hy | hy
        · subst hy; dsimp only; omega
        · exact h.1 y hy

theorem sorted_filter {V : Type} {m : Map V} (f : Nat × V → Bool) (h : Map.sorted m = true) :
    Map.sorted (m.filter f) = true := by
  rw [Map.sorted_iff] at *
  exact List.Pairwise.sublist (List.filter_sublist.map _) h

theorem sorted_mdel {V : Type} {m : Map V} (q : Nat) (h : Map.sorted m = true) : Map.sorted (mdel m q) = true :=
  sorted_filter _ h

theorem sorted_mput {V : Type} [DecidableEq V] {m : Map V} (d : V) (q : Nat) (x : V) (h : Map.sorted m = true) :
    Map.sorted (mput m d q x) = true := by
  unfold mput; split
  · exact sorted_mdel q h
  · exact sorted_mset q x h

theorem mem_mset {V : Type} {m : Map V} {q : Nat} {x : V} {e : Nat × V} (h : e ∈ mset m q x) : e = (q, x) ∨ e ∈ m := by
  induction m with
  | nil => simpa [mset] using h
  | cons a t ih =>
    obtain ⟨k, v⟩ := a
    simp only [mset] at h
    split at h
    · rcases List.mem_cons.mp h with h | h
      · exact .inl h
      · exact .inr (List.mem_cons_of_mem _ h)
    · split at h
      · rcases List.mem_cons.mp h with h | h
        · exact .inl h
        · exact .inr h
      · rcases List.mem_cons.mp h with h | h
        · exact .inr (h ▸ List.mem_cons_self)
        · exact (ih h).imp id (List.mem_cons_of_mem _)

theorem mput_no_default {V : Type} [DecidableEq V] {m : Map V} {d : V} {q : Nat} {x : V}
    (h : ∀ e ∈ m, e.2 ≠ d) : ∀ e ∈ mput m d q x, e.2 ≠ d := by
  intro e he
  unfold mput at he
  split at he
  · exact h e ((List.mem_filter.mp he).1)
  · next hx =>
    rcases mem_mset he with rfl | he
    · exact hx
    · exact h e he

/-! ## Memory keeps its canonical form -/

theorem memory_wf_iff (m : List Host.Cell) :
    Memory.wf m = true ↔ Map.sorted m = true ∧ ∀ c ∈ m, c.2 ≠ 0 := by
  simp [Memory.wf, List.all_eq_true]

/-- A write of a byte keeps the form. -/
theorem memory_wf_memSet {m : List Host.Cell} (a : Nat) (b : Byte) (h : Memory.wf m = true) :
    Memory.wf (memSet m a b) = true := by
  rw [memory_wf_iff] at *
  exact ⟨sorted_mput (0 : Byte) a b h.1, mput_no_default h.2⟩

/-- A write of bytes keeps the form. -/
theorem memory_wf_memSets {m : List Host.Cell} (a : Nat) (d : List Byte) (h : Memory.wf m = true) :
    Memory.wf (memSets m a d) = true := by
  induction d generalizing m a with
  | nil => exact h
  | cons b t ih => exact ih (a + 1) (memory_wf_memSet a b h)

/-- What a byte reads as after a write of another. -/
theorem memSet_read (m : List Host.Cell) (a b : Nat) (x : Byte) :
    mgetD (memSet m a x) b 0 = if b = a then x else mgetD m b 0 := mgetD_mput m a b x 0

/-- What a byte reads as after a write of bytes. -/
theorem memSets_read (m : List Host.Cell) (a : Nat) (d : List Byte) (b : Nat) :
    mgetD (memSets m a d) b 0 = if a ≤ b ∧ b < a + d.length then d.getD (b - a) 0 else mgetD m b 0 := by
  induction d generalizing m a with
  | nil => rw [if_neg (by simp only [List.length_nil]; omega)]; rfl
  | cons x t ih =>
    rw [memSets, ih, memSet_read]
    by_cases h : b = a
    · subst h
      have h1 : ¬ (b + 1 ≤ b ∧ b < b + 1 + t.length) := by omega
      have h2 : b ≤ b ∧ b < b + (x :: t).length := by simp only [List.length_cons]; omega
      rw [if_neg h1, if_pos rfl, if_pos h2]; simp
    · by_cases h1 : a + 1 ≤ b ∧ b < a + 1 + t.length
      · have h2 : a ≤ b ∧ b < a + (x :: t).length := by simp only [List.length_cons]; omega
        have h3 : b - a = (b - (a + 1)) + 1 := by omega
        rw [if_pos h1, if_pos h2, h3]; simp
      · have h2 : ¬ (a ≤ b ∧ b < a + (x :: t).length) := by simp only [List.length_cons]; omega
        rw [if_neg h1, if_neg h, if_neg h2]

end Sys2Proof.Machine
end

