-- ==== Sys2Proof/Laws/Memory.lean ====
section
/-! SUPPORT. Every operation that writes memory keeps its canonical form, memory after reset has it, and what the engines
read and write where no die owns a line. -/

namespace Sys2Proof.Machine

/-! ## The canonical form -/

theorem memory_wf_reset : Memory.wf State.reset.mem = true := rfl

/-- A write of the engines within one line. -/
theorem memory_wf_hwWriteLine {s : State} (pa : Nat) (d : List Byte) (h : Memory.wf s.mem = true) :
    Memory.wf (hwWriteLine s pa d).mem = true := by
  simp only [hwWriteLine]
  split
  · exact h
  · split
    · exact h
    · exact memory_wf_memSets pa d h

/-- A write of the engines. -/
theorem memory_wf_hwWrite {s : State} (pa : Nat) (d : List Byte) (h : Memory.wf s.mem = true) :
    Memory.wf (hwWrite s pa d).mem = true := by
  simp only [hwWrite]
  generalize cutLines (d.length + 1) pa d = l
  induction l generalizing s with
  | nil => exact h
  | cons e t ih => exact ih (memory_wf_hwWriteLine e.1 e.2 h)

/-- A write of a whole line. -/
theorem memory_wf_setMem {s : State} (line : Nat) (d : List Byte) (b : Bool) (h : Memory.wf s.mem = true) :
    Memory.wf (setMem s line d b).mem = true := memory_wf_memSets _ d h

/-- The zeroing of a context's save slot. -/
theorem memory_wf_zeroSlot {s : State} (c : Nat) (h : Memory.wf s.mem = true) : Memory.wf (zeroSlot s c).mem = true := by
  rw [memory_wf_iff] at *
  exact ⟨sorted_filter _ h.1, fun e he => h.2 e (List.mem_filter.mp he).1⟩

/-! ## What the engines read -/

/-- With no line at its home in another state than invalid, the newest data of a line is memory's. -/
theorem lineNow_plain {s : State} (h : s.home = []) (line : Nat) : lineNow s line = (memLine s line, mgetD s.poison line false) := by
  simp [lineNow, ownerL2, h, mget?]

/-- Then, with no write of the engines' own waiting, the engines read memory. -/
theorem hwRead_plain {s : State} (h : s.home = []) (hp : s.hwPend = []) (pa n : Nat) :
    hwRead s pa n = (List.range n).map fun i => memByte s (pa + i) := by
  simp only [hwRead, lineNow_plain h, hwOver, hp, List.foldl_nil]
  refine List.map_congr_left fun i _ => ?_
  have h1 : (pa + i) % 128 < 128 := Nat.mod_lt _ (by decide)
  have h2 : 128 * ((pa + i) / 128) + (pa + i) % 128 = pa + i := Nat.div_add_mod _ _
  rw [memLine, List.getD_eq_getElem?_getD, List.getElem?_map, List.getElem?_range h1]
  simp [h2]

end Sys2Proof.Machine
end

