-- ==== Sys2Proof/Laws/State.lean ====
section
/-! SUPPORT. Laws of the state: what each update leaves unchanged, field by field, and reads after writes of contexts,
units, slots and registers. -/

namespace Sys2Proof.Machine

/-! ## modCur -/

@[simp] theorem modCur_now (s : State) (f : Cur → Cur) : (modCur s f).now = s.now := rfl
@[simp] theorem modCur_resetAt (s : State) (f : Cur → Cur) : (modCur s f).resetAt = s.resetAt := rfl
@[simp] theorem modCur_free (s : State) (f : Cur → Cur) : (modCur s f).free = s.free := rfl
@[simp] theorem modCur_agenda (s : State) (f : Cur → Cur) : (modCur s f).agenda = s.agenda := rfl
@[simp] theorem modCur_pending (s : State) (f : Cur → Cur) : (modCur s f).pending = s.pending := rfl
@[simp] theorem modCur_out (s : State) (f : Cur → Cur) : (modCur s f).out = s.out := rfl
@[simp] theorem modCur_stopped (s : State) (f : Cur → Cur) : (modCur s f).stopped = s.stopped := rfl
@[simp] theorem modCur_ctl (s : State) (f : Cur → Cur) : (modCur s f).ctl = s.ctl := rfl
@[simp] theorem modCur_timeLatch (s : State) (f : Cur → Cur) : (modCur s f).timeLatch = s.timeLatch := rfl
@[simp] theorem modCur_errs (s : State) (f : Cur → Cur) : (modCur s f).errs = s.errs := rfl
@[simp] theorem modCur_throttle (s : State) (f : Cur → Cur) : (modCur s f).throttle = s.throttle := rfl
@[simp] theorem modCur_mem (s : State) (f : Cur → Cur) : (modCur s f).mem = s.mem := rfl
@[simp] theorem modCur_poison (s : State) (f : Cur → Cur) : (modCur s f).poison = s.poison := rfl
@[simp] theorem modCur_home (s : State) (f : Cur → Cur) : (modCur s f).home = s.home := rfl
@[simp] theorem modCur_l2 (s : State) (f : Cur → Cur) : (modCur s f).l2 = s.l2 := rfl
@[simp] theorem modCur_wb (s : State) (f : Cur → Cur) : (modCur s f).wb = s.wb := rfl
@[simp] theorem modCur_l1 (s : State) (f : Cur → Cur) : (modCur s f).l1 = s.l1 := rfl
@[simp] theorem modCur_mts (s : State) (f : Cur → Cur) : (modCur s f).mts = s.mts := rfl
@[simp] theorem modCur_filt (s : State) (f : Cur → Cur) : (modCur s f).filt = s.filt := rfl
@[simp] theorem modCur_cohSeq (s : State) (f : Cur → Cur) : (modCur s f).cohSeq = s.cohSeq := rfl
@[simp] theorem modCur_asks (s : State) (f : Cur → Cur) : (modCur s f).asks = s.asks := rfl
@[simp] theorem modCur_writers (s : State) (f : Cur → Cur) : (modCur s f).writers = s.writers := rfl
@[simp] theorem modCur_hwPend (s : State) (f : Cur → Cur) : (modCur s f).hwPend = s.hwPend := rfl
@[simp] theorem modCur_refusals (s : State) (f : Cur → Cur) : (modCur s f).refusals = s.refusals := rfl
@[simp] theorem modCur_fwCache (s : State) (f : Cur → Cur) : (modCur s f).fwCache = s.fwCache := rfl
@[simp] theorem modCur_sweepCells (s : State) (f : Cur → Cur) : (modCur s f).sweepCells = s.sweepCells := rfl
@[simp] theorem modCur_queuedCells (s : State) (f : Cur → Cur) : (modCur s f).queuedCells = s.queuedCells := rfl
@[simp] theorem modCur_recallPage (s : State) (f : Cur → Cur) : (modCur s f).recallPage = s.recallPage := rfl
@[simp] theorem modCur_collapses (s : State) (f : Cur → Cur) : (modCur s f).collapses = s.collapses := rfl
@[simp] theorem modCur_repHeld (s : State) (f : Cur → Cur) : (modCur s f).repHeld = s.repHeld := rfl
@[simp] theorem modCur_repQueue (s : State) (f : Cur → Cur) : (modCur s f).repQueue = s.repQueue := rfl
@[simp] theorem modCur_setWait (s : State) (f : Cur → Cur) : (modCur s f).setWait = s.setWait := rfl
@[simp] theorem modCur_sfBusy (s : State) (f : Cur → Cur) : (modCur s f).sfBusy = s.sfBusy := rfl
@[simp] theorem modCur_reps (s : State) (f : Cur → Cur) : (modCur s f).reps = s.reps := rfl
@[simp] theorem modCur_arming (s : State) (f : Cur → Cur) : (modCur s f).arming = s.arming := rfl
@[simp] theorem modCur_oldLease (s : State) (f : Cur → Cur) : (modCur s f).oldLease = s.oldLease := rfl
@[simp] theorem modCur_planActive (s : State) (f : Cur → Cur) : (modCur s f).planActive = s.planActive := rfl
@[simp] theorem modCur_planPending (s : State) (f : Cur → Cur) : (modCur s f).planPending = s.planPending := rfl
@[simp] theorem modCur_armed (s : State) (f : Cur → Cur) : (modCur s f).armed = s.armed := rfl
@[simp] theorem modCur_switching (s : State) (f : Cur → Cur) : (modCur s f).switching = s.switching := rfl
@[simp] theorem modCur_rxMoved (s : State) (f : Cur → Cur) : (modCur s f).rxMoved = s.rxMoved := rfl
@[simp] theorem modCur_sess (s : State) (f : Cur → Cur) : (modCur s f).sess = s.sess := rfl
@[simp] theorem modCur_chanQ (s : State) (f : Cur → Cur) : (modCur s f).chanQ = s.chanQ := rfl
@[simp] theorem modCur_spdmSeq (s : State) (f : Cur → Cur) : (modCur s f).spdmSeq = s.spdmSeq := rfl
@[simp] theorem modCur_budgetAt (s : State) (f : Cur → Cur) : (modCur s f).budgetAt = s.budgetAt := rfl
@[simp] theorem modCur_peerCell (s : State) (f : Cur → Cur) : (modCur s f).peerCell = s.peerCell := rfl
@[simp] theorem modCur_departed (s : State) (f : Cur → Cur) : (modCur s f).departed = s.departed := rfl
@[simp] theorem modCur_tags (s : State) (f : Cur → Cur) : (modCur s f).tags = s.tags := rfl
@[simp] theorem modCur_setups (s : State) (f : Cur → Cur) : (modCur s f).setups = s.setups := rfl
@[simp] theorem modCur_removed (s : State) (f : Cur → Cur) : (modCur s f).removed = s.removed := rfl
@[simp] theorem modCur_removedRx (s : State) (f : Cur → Cur) : (modCur s f).removedRx = s.removedRx := rfl
@[simp] theorem modCur_fabAdj (s : State) (f : Cur → Cur) : (modCur s f).fabAdj = s.fabAdj := rfl
@[simp] theorem modCur_txns (s : State) (f : Cur → Cur) : (modCur s f).txns = s.txns := rfl
@[simp] theorem modCur_landTxns (s : State) (f : Cur → Cur) : (modCur s f).landTxns = s.landTxns := rfl
@[simp] theorem modCur_nextTxn (s : State) (f : Cur → Cur) : (modCur s f).nextTxn = s.nextTxn := rfl
@[simp] theorem modCur_ports (s : State) (f : Cur → Cur) : (modCur s f).ports = s.ports := rfl
@[simp] theorem modCur_extents (s : State) (f : Cur → Cur) : (modCur s f).extents = s.extents := rfl
@[simp] theorem modCur_windows (s : State) (f : Cur → Cur) : (modCur s f).windows = s.windows := rfl
@[simp] theorem modCur_hostWait (s : State) (f : Cur → Cur) : (modCur s f).hostWait = s.hostWait := rfl
@[simp] theorem modCur_boot (s : State) (f : Cur → Cur) : (modCur s f).boot = s.boot := rfl
@[simp] theorem modCur_supRunning (s : State) (f : Cur → Cur) : (modCur s f).supRunning = s.supRunning := rfl
@[simp] theorem modCur_supEntry (s : State) (f : Cur → Cur) : (modCur s f).supEntry = s.supEntry := rfl
@[simp] theorem modCur_image (s : State) (f : Cur → Cur) : (modCur s f).image = s.image := rfl
@[simp] theorem modCur_update (s : State) (f : Cur → Cur) : (modCur s f).update = s.update := rfl
@[simp] theorem modCur_supOld (s : State) (f : Cur → Cur) : (modCur s f).supOld = s.supOld := rfl
@[simp] theorem modCur_mrs (s : State) (f : Cur → Cur) : (modCur s f).mrs = s.mrs := rfl
@[simp] theorem modCur_audit (s : State) (f : Cur → Cur) : (modCur s f).audit = s.audit := rfl
@[simp] theorem modCur_auditNext (s : State) (f : Cur → Cur) : (modCur s f).auditNext = s.auditNext := rfl
@[simp] theorem modCur_auditReleased (s : State) (f : Cur → Cur) : (modCur s f).auditReleased = s.auditReleased := rfl
@[simp] theorem modCur_auditExported (s : State) (f : Cur → Cur) : (modCur s f).auditExported = s.auditExported := rfl
@[simp] theorem modCur_auditDropped (s : State) (f : Cur → Cur) : (modCur s f).auditDropped = s.auditDropped := rfl
@[simp] theorem modCur_auditLost (s : State) (f : Cur → Cur) : (modCur s f).auditLost = s.auditLost := rfl
@[simp] theorem modCur_audIn (s : State) (f : Cur → Cur) : (modCur s f).audIn = s.audIn := rfl
@[simp] theorem modCur_audNonce (s : State) (f : Cur → Cur) : (modCur s f).audNonce = s.audNonce := rfl
@[simp] theorem modCur_extData (s : State) (f : Cur → Cur) : (modCur s f).extData = s.extData := rfl
@[simp] theorem modCur_inletHot (s : State) (f : Cur → Cur) : (modCur s f).inletHot = s.inletHot := rfl
@[simp] theorem modCur_linkRuns (s : State) (f : Cur → Cur) : (modCur s f).linkRuns = s.linkRuns := rfl
@[simp] theorem modCur_fences (s : State) (f : Cur → Cur) : (modCur s f).fences = s.fences := rfl
@[simp] theorem modCur_stkQuiet (s : State) (f : Cur → Cur) : (modCur s f).stkQuiet = s.stkQuiet := rfl
@[simp] theorem modCur_recal (s : State) (f : Cur → Cur) : (modCur s f).recal = s.recal := rfl
@[simp] theorem modCur_withheld (s : State) (f : Cur → Cur) : (modCur s f).withheld = s.withheld := rfl
@[simp] theorem modCur_relReg (s : State) (f : Cur → Cur) : (modCur s f).relReg = s.relReg := rfl
@[simp] theorem modCur_queues (s : State) (f : Cur → Cur) : (modCur s f).queues = s.queues := rfl
@[simp] theorem modCur_spans (s : State) (f : Cur → Cur) : (modCur s f).spans = s.spans := rfl
@[simp] theorem modCur_nextSpan (s : State) (f : Cur → Cur) : (modCur s f).nextSpan = s.nextSpan := rfl
@[simp] theorem modCur_rr (s : State) (f : Cur → Cur) : (modCur s f).rr = s.rr := rfl
@[simp] theorem modCur_charge (s : State) (f : Cur → Cur) : (modCur s f).charge = s.charge := rfl
@[simp] theorem modCur_cores (s : State) (f : Cur → Cur) : (modCur s f).cores = s.cores := rfl
@[simp] theorem modCur_ctxs (s : State) (f : Cur → Cur) : (modCur s f).ctxs = s.ctxs := rfl
@[simp] theorem modCur_mills (s : State) (f : Cur → Cur) : (modCur s f).mills = s.mills := rfl
@[simp] theorem modCur_hbars (s : State) (f : Cur → Cur) : (modCur s f).hbars = s.hbars := rfl
@[simp] theorem modCur_hstand (s : State) (f : Cur → Cur) : (modCur s f).hstand = s.hstand := rfl
@[simp] theorem modCur_hwait (s : State) (f : Cur → Cur) : (modCur s f).hwait = s.hwait := rfl
@[simp] theorem modCur_hsent (s : State) (f : Cur → Cur) : (modCur s f).hsent = s.hsent := rfl
@[simp] theorem modCur_walkCache (s : State) (f : Cur → Cur) : (modCur s f).walkCache = s.walkCache := rfl
@[simp] theorem modCur_walkAsks (s : State) (f : Cur → Cur) : (modCur s f).walkAsks = s.walkAsks := rfl
@[simp] theorem modCur_sweeps (s : State) (f : Cur → Cur) : (modCur s f).sweeps = s.sweeps := rfl
@[simp] theorem modCur_nextSweep (s : State) (f : Cur → Cur) : (modCur s f).nextSweep = s.nextSweep := rfl
@[simp] theorem modCur_publs (s : State) (f : Cur → Cur) : (modCur s f).publs = s.publs := rfl
@[simp] theorem modCur_winFaulted (s : State) (f : Cur → Cur) : (modCur s f).winFaulted = s.winFaulted := rfl
@[simp] theorem modCur_winTime (s : State) (f : Cur → Cur) : (modCur s f).winTime = s.winTime := rfl
@[simp] theorem modCur_ringRetry (s : State) (f : Cur → Cur) : (modCur s f).ringRetry = s.ringRetry := rfl

/-! ## putCtx -/

@[simp] theorem putCtx_now (s : State) (c : Nat) (x : Ctx) : (putCtx s c x).now = s.now := rfl
@[simp] theorem putCtx_resetAt (s : State) (c : Nat) (x : Ctx) : (putCtx s c x).resetAt = s.resetAt := rfl
@[simp] theorem putCtx_free (s : State) (c : Nat) (x : Ctx) : (putCtx s c x).free = s.free := rfl
@[simp] theorem putCtx_agenda (s : State) (c : Nat) (x : Ctx) : (putCtx s c x).agenda = s.agenda := rfl
@[simp] theorem putCtx_pending (s : State) (c : Nat) (x : Ctx) : (putCtx s c x).pending = s.pending := rfl
@[simp] theorem putCtx_out (s : State) (c : Nat) (x : Ctx) : (putCtx s c x).out = s.out := rfl
@[simp] theorem putCtx_stopped (s : State) (c : Nat) (x : Ctx) : (putCtx s c x).stopped = s.stopped := rfl
@[simp] theorem putCtx_cur (s : State) (c : Nat) (x : Ctx) : (putCtx s c x).cur = s.cur := rfl
@[simp] theorem putCtx_ctl (s : State) (c : Nat) (x : Ctx) : (putCtx s c x).ctl = s.ctl := rfl
@[simp] theorem putCtx_timeLatch (s : State) (c : Nat) (x : Ctx) : (putCtx s c x).timeLatch = s.timeLatch := rfl
@[simp] theorem putCtx_errs (s : State) (c : Nat) (x : Ctx) : (putCtx s c x).errs = s.errs := rfl
@[simp] theorem putCtx_throttle (s : State) (c : Nat) (x : Ctx) : (putCtx s c x).throttle = s.throttle := rfl
@[simp] theorem putCtx_mem (s : State) (c : Nat) (x : Ctx) : (putCtx s c x).mem = s.mem := rfl
@[simp] theorem putCtx_poison (s : State) (c : Nat) (x : Ctx) : (putCtx s c x).poison = s.poison := rfl
@[simp] theorem putCtx_home (s : State) (c : Nat) (x : Ctx) : (putCtx s c x).home = s.home := rfl
@[simp] theorem putCtx_l2 (s : State) (c : Nat) (x : Ctx) : (putCtx s c x).l2 = s.l2 := rfl
@[simp] theorem putCtx_wb (s : State) (c : Nat) (x : Ctx) : (putCtx s c x).wb = s.wb := rfl
@[simp] theorem putCtx_l1 (s : State) (c : Nat) (x : Ctx) : (putCtx s c x).l1 = s.l1 := rfl
@[simp] theorem putCtx_mts (s : State) (c : Nat) (x : Ctx) : (putCtx s c x).mts = s.mts := rfl
@[simp] theorem putCtx_filt (s : State) (c : Nat) (x : Ctx) : (putCtx s c x).filt = s.filt := rfl
@[simp] theorem putCtx_cohSeq (s : State) (c : Nat) (x : Ctx) : (putCtx s c x).cohSeq = s.cohSeq := rfl
@[simp] theorem putCtx_asks (s : State) (c : Nat) (x : Ctx) : (putCtx s c x).asks = s.asks := rfl
@[simp] theorem putCtx_writers (s : State) (c : Nat) (x : Ctx) : (putCtx s c x).writers = s.writers := rfl
@[simp] theorem putCtx_hwPend (s : State) (c : Nat) (x : Ctx) : (putCtx s c x).hwPend = s.hwPend := rfl
@[simp] theorem putCtx_refusals (s : State) (c : Nat) (x : Ctx) : (putCtx s c x).refusals = s.refusals := rfl
@[simp] theorem putCtx_fwCache (s : State) (c : Nat) (x : Ctx) : (putCtx s c x).fwCache = s.fwCache := rfl
@[simp] theorem putCtx_sweepCells (s : State) (c : Nat) (x : Ctx) : (putCtx s c x).sweepCells = s.sweepCells := rfl
@[simp] theorem putCtx_queuedCells (s : State) (c : Nat) (x : Ctx) : (putCtx s c x).queuedCells = s.queuedCells := rfl
@[simp] theorem putCtx_recallPage (s : State) (c : Nat) (x : Ctx) : (putCtx s c x).recallPage = s.recallPage := rfl
@[simp] theorem putCtx_collapses (s : State) (c : Nat) (x : Ctx) : (putCtx s c x).collapses = s.collapses := rfl
@[simp] theorem putCtx_repHeld (s : State) (c : Nat) (x : Ctx) : (putCtx s c x).repHeld = s.repHeld := rfl
@[simp] theorem putCtx_repQueue (s : State) (c : Nat) (x : Ctx) : (putCtx s c x).repQueue = s.repQueue := rfl
@[simp] theorem putCtx_setWait (s : State) (c : Nat) (x : Ctx) : (putCtx s c x).setWait = s.setWait := rfl
@[simp] theorem putCtx_sfBusy (s : State) (c : Nat) (x : Ctx) : (putCtx s c x).sfBusy = s.sfBusy := rfl
@[simp] theorem putCtx_reps (s : State) (c : Nat) (x : Ctx) : (putCtx s c x).reps = s.reps := rfl
@[simp] theorem putCtx_arming (s : State) (c : Nat) (x : Ctx) : (putCtx s c x).arming = s.arming := rfl
@[simp] theorem putCtx_oldLease (s : State) (c : Nat) (x : Ctx) : (putCtx s c x).oldLease = s.oldLease := rfl
@[simp] theorem putCtx_planActive (s : State) (c : Nat) (x : Ctx) : (putCtx s c x).planActive = s.planActive := rfl
@[simp] theorem putCtx_planPending (s : State) (c : Nat) (x : Ctx) : (putCtx s c x).planPending = s.planPending := rfl
@[simp] theorem putCtx_armed (s : State) (c : Nat) (x : Ctx) : (putCtx s c x).armed = s.armed := rfl
@[simp] theorem putCtx_switching (s : State) (c : Nat) (x : Ctx) : (putCtx s c x).switching = s.switching := rfl
@[simp] theorem putCtx_rxMoved (s : State) (c : Nat) (x : Ctx) : (putCtx s c x).rxMoved = s.rxMoved := rfl
@[simp] theorem putCtx_sess (s : State) (c : Nat) (x : Ctx) : (putCtx s c x).sess = s.sess := rfl
@[simp] theorem putCtx_chanQ (s : State) (c : Nat) (x : Ctx) : (putCtx s c x).chanQ = s.chanQ := rfl
@[simp] theorem putCtx_spdmSeq (s : State) (c : Nat) (x : Ctx) : (putCtx s c x).spdmSeq = s.spdmSeq := rfl
@[simp] theorem putCtx_budgetAt (s : State) (c : Nat) (x : Ctx) : (putCtx s c x).budgetAt = s.budgetAt := rfl
@[simp] theorem putCtx_peerCell (s : State) (c : Nat) (x : Ctx) : (putCtx s c x).peerCell = s.peerCell := rfl
@[simp] theorem putCtx_departed (s : State) (c : Nat) (x : Ctx) : (putCtx s c x).departed = s.departed := rfl
@[simp] theorem putCtx_tags (s : State) (c : Nat) (x : Ctx) : (putCtx s c x).tags = s.tags := rfl
@[simp] theorem putCtx_setups (s : State) (c : Nat) (x : Ctx) : (putCtx s c x).setups = s.setups := rfl
@[simp] theorem putCtx_removed (s : State) (c : Nat) (x : Ctx) : (putCtx s c x).removed = s.removed := rfl
@[simp] theorem putCtx_removedRx (s : State) (c : Nat) (x : Ctx) : (putCtx s c x).removedRx = s.removedRx := rfl
@[simp] theorem putCtx_fabAdj (s : State) (c : Nat) (x : Ctx) : (putCtx s c x).fabAdj = s.fabAdj := rfl
@[simp] theorem putCtx_txns (s : State) (c : Nat) (x : Ctx) : (putCtx s c x).txns = s.txns := rfl
@[simp] theorem putCtx_landTxns (s : State) (c : Nat) (x : Ctx) : (putCtx s c x).landTxns = s.landTxns := rfl
@[simp] theorem putCtx_nextTxn (s : State) (c : Nat) (x : Ctx) : (putCtx s c x).nextTxn = s.nextTxn := rfl
@[simp] theorem putCtx_ports (s : State) (c : Nat) (x : Ctx) : (putCtx s c x).ports = s.ports := rfl
@[simp] theorem putCtx_extents (s : State) (c : Nat) (x : Ctx) : (putCtx s c x).extents = s.extents := rfl
@[simp] theorem putCtx_windows (s : State) (c : Nat) (x : Ctx) : (putCtx s c x).windows = s.windows := rfl
@[simp] theorem putCtx_hostWait (s : State) (c : Nat) (x : Ctx) : (putCtx s c x).hostWait = s.hostWait := rfl
@[simp] theorem putCtx_boot (s : State) (c : Nat) (x : Ctx) : (putCtx s c x).boot = s.boot := rfl
@[simp] theorem putCtx_supRunning (s : State) (c : Nat) (x : Ctx) : (putCtx s c x).supRunning = s.supRunning := rfl
@[simp] theorem putCtx_supEntry (s : State) (c : Nat) (x : Ctx) : (putCtx s c x).supEntry = s.supEntry := rfl
@[simp] theorem putCtx_image (s : State) (c : Nat) (x : Ctx) : (putCtx s c x).image = s.image := rfl
@[simp] theorem putCtx_update (s : State) (c : Nat) (x : Ctx) : (putCtx s c x).update = s.update := rfl
@[simp] theorem putCtx_supOld (s : State) (c : Nat) (x : Ctx) : (putCtx s c x).supOld = s.supOld := rfl
@[simp] theorem putCtx_mrs (s : State) (c : Nat) (x : Ctx) : (putCtx s c x).mrs = s.mrs := rfl
@[simp] theorem putCtx_audit (s : State) (c : Nat) (x : Ctx) : (putCtx s c x).audit = s.audit := rfl
@[simp] theorem putCtx_auditNext (s : State) (c : Nat) (x : Ctx) : (putCtx s c x).auditNext = s.auditNext := rfl
@[simp] theorem putCtx_auditReleased (s : State) (c : Nat) (x : Ctx) : (putCtx s c x).auditReleased = s.auditReleased := rfl
@[simp] theorem putCtx_auditExported (s : State) (c : Nat) (x : Ctx) : (putCtx s c x).auditExported = s.auditExported := rfl
@[simp] theorem putCtx_auditDropped (s : State) (c : Nat) (x : Ctx) : (putCtx s c x).auditDropped = s.auditDropped := rfl
@[simp] theorem putCtx_auditLost (s : State) (c : Nat) (x : Ctx) : (putCtx s c x).auditLost = s.auditLost := rfl
@[simp] theorem putCtx_audIn (s : State) (c : Nat) (x : Ctx) : (putCtx s c x).audIn = s.audIn := rfl
@[simp] theorem putCtx_audNonce (s : State) (c : Nat) (x : Ctx) : (putCtx s c x).audNonce = s.audNonce := rfl
@[simp] theorem putCtx_extData (s : State) (c : Nat) (x : Ctx) : (putCtx s c x).extData = s.extData := rfl
@[simp] theorem putCtx_inletHot (s : State) (c : Nat) (x : Ctx) : (putCtx s c x).inletHot = s.inletHot := rfl
@[simp] theorem putCtx_linkRuns (s : State) (c : Nat) (x : Ctx) : (putCtx s c x).linkRuns = s.linkRuns := rfl
@[simp] theorem putCtx_fences (s : State) (c : Nat) (x : Ctx) : (putCtx s c x).fences = s.fences := rfl
@[simp] theorem putCtx_stkQuiet (s : State) (c : Nat) (x : Ctx) : (putCtx s c x).stkQuiet = s.stkQuiet := rfl
@[simp] theorem putCtx_recal (s : State) (c : Nat) (x : Ctx) : (putCtx s c x).recal = s.recal := rfl
@[simp] theorem putCtx_withheld (s : State) (c : Nat) (x : Ctx) : (putCtx s c x).withheld = s.withheld := rfl
@[simp] theorem putCtx_relReg (s : State) (c : Nat) (x : Ctx) : (putCtx s c x).relReg = s.relReg := rfl
@[simp] theorem putCtx_queues (s : State) (c : Nat) (x : Ctx) : (putCtx s c x).queues = s.queues := rfl
@[simp] theorem putCtx_spans (s : State) (c : Nat) (x : Ctx) : (putCtx s c x).spans = s.spans := rfl
@[simp] theorem putCtx_nextSpan (s : State) (c : Nat) (x : Ctx) : (putCtx s c x).nextSpan = s.nextSpan := rfl
@[simp] theorem putCtx_rr (s : State) (c : Nat) (x : Ctx) : (putCtx s c x).rr = s.rr := rfl
@[simp] theorem putCtx_charge (s : State) (c : Nat) (x : Ctx) : (putCtx s c x).charge = s.charge := rfl
@[simp] theorem putCtx_cores (s : State) (c : Nat) (x : Ctx) : (putCtx s c x).cores = s.cores := rfl
@[simp] theorem putCtx_mills (s : State) (c : Nat) (x : Ctx) : (putCtx s c x).mills = s.mills := rfl
@[simp] theorem putCtx_hbars (s : State) (c : Nat) (x : Ctx) : (putCtx s c x).hbars = s.hbars := rfl
@[simp] theorem putCtx_hstand (s : State) (c : Nat) (x : Ctx) : (putCtx s c x).hstand = s.hstand := rfl
@[simp] theorem putCtx_hwait (s : State) (c : Nat) (x : Ctx) : (putCtx s c x).hwait = s.hwait := rfl
@[simp] theorem putCtx_hsent (s : State) (c : Nat) (x : Ctx) : (putCtx s c x).hsent = s.hsent := rfl
@[simp] theorem putCtx_walkCache (s : State) (c : Nat) (x : Ctx) : (putCtx s c x).walkCache = s.walkCache := rfl
@[simp] theorem putCtx_walkAsks (s : State) (c : Nat) (x : Ctx) : (putCtx s c x).walkAsks = s.walkAsks := rfl
@[simp] theorem putCtx_sweeps (s : State) (c : Nat) (x : Ctx) : (putCtx s c x).sweeps = s.sweeps := rfl
@[simp] theorem putCtx_nextSweep (s : State) (c : Nat) (x : Ctx) : (putCtx s c x).nextSweep = s.nextSweep := rfl
@[simp] theorem putCtx_publs (s : State) (c : Nat) (x : Ctx) : (putCtx s c x).publs = s.publs := rfl
@[simp] theorem putCtx_winFaulted (s : State) (c : Nat) (x : Ctx) : (putCtx s c x).winFaulted = s.winFaulted := rfl
@[simp] theorem putCtx_winTime (s : State) (c : Nat) (x : Ctx) : (putCtx s c x).winTime = s.winTime := rfl
@[simp] theorem putCtx_ringRetry (s : State) (c : Nat) (x : Ctx) : (putCtx s c x).ringRetry = s.ringRetry := rfl

/-! ## putUnit -/

@[simp] theorem putUnit_now (s : State) (c u : Nat) (t : Thread) : (putUnit s c u t).now = s.now := rfl
@[simp] theorem putUnit_resetAt (s : State) (c u : Nat) (t : Thread) : (putUnit s c u t).resetAt = s.resetAt := rfl
@[simp] theorem putUnit_free (s : State) (c u : Nat) (t : Thread) : (putUnit s c u t).free = s.free := rfl
@[simp] theorem putUnit_agenda (s : State) (c u : Nat) (t : Thread) : (putUnit s c u t).agenda = s.agenda := rfl
@[simp] theorem putUnit_pending (s : State) (c u : Nat) (t : Thread) : (putUnit s c u t).pending = s.pending := rfl
@[simp] theorem putUnit_out (s : State) (c u : Nat) (t : Thread) : (putUnit s c u t).out = s.out := rfl
@[simp] theorem putUnit_stopped (s : State) (c u : Nat) (t : Thread) : (putUnit s c u t).stopped = s.stopped := rfl
@[simp] theorem putUnit_cur (s : State) (c u : Nat) (t : Thread) : (putUnit s c u t).cur = s.cur := rfl
@[simp] theorem putUnit_ctl (s : State) (c u : Nat) (t : Thread) : (putUnit s c u t).ctl = s.ctl := rfl
@[simp] theorem putUnit_timeLatch (s : State) (c u : Nat) (t : Thread) : (putUnit s c u t).timeLatch = s.timeLatch := rfl
@[simp] theorem putUnit_errs (s : State) (c u : Nat) (t : Thread) : (putUnit s c u t).errs = s.errs := rfl
@[simp] theorem putUnit_throttle (s : State) (c u : Nat) (t : Thread) : (putUnit s c u t).throttle = s.throttle := rfl
@[simp] theorem putUnit_mem (s : State) (c u : Nat) (t : Thread) : (putUnit s c u t).mem = s.mem := rfl
@[simp] theorem putUnit_poison (s : State) (c u : Nat) (t : Thread) : (putUnit s c u t).poison = s.poison := rfl
@[simp] theorem putUnit_home (s : State) (c u : Nat) (t : Thread) : (putUnit s c u t).home = s.home := rfl
@[simp] theorem putUnit_l2 (s : State) (c u : Nat) (t : Thread) : (putUnit s c u t).l2 = s.l2 := rfl
@[simp] theorem putUnit_wb (s : State) (c u : Nat) (t : Thread) : (putUnit s c u t).wb = s.wb := rfl
@[simp] theorem putUnit_l1 (s : State) (c u : Nat) (t : Thread) : (putUnit s c u t).l1 = s.l1 := rfl
@[simp] theorem putUnit_mts (s : State) (c u : Nat) (t : Thread) : (putUnit s c u t).mts = s.mts := rfl
@[simp] theorem putUnit_filt (s : State) (c u : Nat) (t : Thread) : (putUnit s c u t).filt = s.filt := rfl
@[simp] theorem putUnit_cohSeq (s : State) (c u : Nat) (t : Thread) : (putUnit s c u t).cohSeq = s.cohSeq := rfl
@[simp] theorem putUnit_asks (s : State) (c u : Nat) (t : Thread) : (putUnit s c u t).asks = s.asks := rfl
@[simp] theorem putUnit_writers (s : State) (c u : Nat) (t : Thread) : (putUnit s c u t).writers = s.writers := rfl
@[simp] theorem putUnit_hwPend (s : State) (c u : Nat) (t : Thread) : (putUnit s c u t).hwPend = s.hwPend := rfl
@[simp] theorem putUnit_refusals (s : State) (c u : Nat) (t : Thread) : (putUnit s c u t).refusals = s.refusals := rfl
@[simp] theorem putUnit_fwCache (s : State) (c u : Nat) (t : Thread) : (putUnit s c u t).fwCache = s.fwCache := rfl
@[simp] theorem putUnit_sweepCells (s : State) (c u : Nat) (t : Thread) : (putUnit s c u t).sweepCells = s.sweepCells := rfl
@[simp] theorem putUnit_queuedCells (s : State) (c u : Nat) (t : Thread) : (putUnit s c u t).queuedCells = s.queuedCells := rfl
@[simp] theorem putUnit_recallPage (s : State) (c u : Nat) (t : Thread) : (putUnit s c u t).recallPage = s.recallPage := rfl
@[simp] theorem putUnit_collapses (s : State) (c u : Nat) (t : Thread) : (putUnit s c u t).collapses = s.collapses := rfl
@[simp] theorem putUnit_repHeld (s : State) (c u : Nat) (t : Thread) : (putUnit s c u t).repHeld = s.repHeld := rfl
@[simp] theorem putUnit_repQueue (s : State) (c u : Nat) (t : Thread) : (putUnit s c u t).repQueue = s.repQueue := rfl
@[simp] theorem putUnit_setWait (s : State) (c u : Nat) (t : Thread) : (putUnit s c u t).setWait = s.setWait := rfl
@[simp] theorem putUnit_sfBusy (s : State) (c u : Nat) (t : Thread) : (putUnit s c u t).sfBusy = s.sfBusy := rfl
@[simp] theorem putUnit_reps (s : State) (c u : Nat) (t : Thread) : (putUnit s c u t).reps = s.reps := rfl
@[simp] theorem putUnit_arming (s : State) (c u : Nat) (t : Thread) : (putUnit s c u t).arming = s.arming := rfl
@[simp] theorem putUnit_oldLease (s : State) (c u : Nat) (t : Thread) : (putUnit s c u t).oldLease = s.oldLease := rfl
@[simp] theorem putUnit_planActive (s : State) (c u : Nat) (t : Thread) : (putUnit s c u t).planActive = s.planActive := rfl
@[simp] theorem putUnit_planPending (s : State) (c u : Nat) (t : Thread) : (putUnit s c u t).planPending = s.planPending := rfl
@[simp] theorem putUnit_armed (s : State) (c u : Nat) (t : Thread) : (putUnit s c u t).armed = s.armed := rfl
@[simp] theorem putUnit_switching (s : State) (c u : Nat) (t : Thread) : (putUnit s c u t).switching = s.switching := rfl
@[simp] theorem putUnit_rxMoved (s : State) (c u : Nat) (t : Thread) : (putUnit s c u t).rxMoved = s.rxMoved := rfl
@[simp] theorem putUnit_sess (s : State) (c u : Nat) (t : Thread) : (putUnit s c u t).sess = s.sess := rfl
@[simp] theorem putUnit_chanQ (s : State) (c u : Nat) (t : Thread) : (putUnit s c u t).chanQ = s.chanQ := rfl
@[simp] theorem putUnit_spdmSeq (s : State) (c u : Nat) (t : Thread) : (putUnit s c u t).spdmSeq = s.spdmSeq := rfl
@[simp] theorem putUnit_budgetAt (s : State) (c u : Nat) (t : Thread) : (putUnit s c u t).budgetAt = s.budgetAt := rfl
@[simp] theorem putUnit_peerCell (s : State) (c u : Nat) (t : Thread) : (putUnit s c u t).peerCell = s.peerCell := rfl
@[simp] theorem putUnit_departed (s : State) (c u : Nat) (t : Thread) : (putUnit s c u t).departed = s.departed := rfl
@[simp] theorem putUnit_tags (s : State) (c u : Nat) (t : Thread) : (putUnit s c u t).tags = s.tags := rfl
@[simp] theorem putUnit_setups (s : State) (c u : Nat) (t : Thread) : (putUnit s c u t).setups = s.setups := rfl
@[simp] theorem putUnit_removed (s : State) (c u : Nat) (t : Thread) : (putUnit s c u t).removed = s.removed := rfl
@[simp] theorem putUnit_removedRx (s : State) (c u : Nat) (t : Thread) : (putUnit s c u t).removedRx = s.removedRx := rfl
@[simp] theorem putUnit_fabAdj (s : State) (c u : Nat) (t : Thread) : (putUnit s c u t).fabAdj = s.fabAdj := rfl
@[simp] theorem putUnit_txns (s : State) (c u : Nat) (t : Thread) : (putUnit s c u t).txns = s.txns := rfl
@[simp] theorem putUnit_landTxns (s : State) (c u : Nat) (t : Thread) : (putUnit s c u t).landTxns = s.landTxns := rfl
@[simp] theorem putUnit_nextTxn (s : State) (c u : Nat) (t : Thread) : (putUnit s c u t).nextTxn = s.nextTxn := rfl
@[simp] theorem putUnit_ports (s : State) (c u : Nat) (t : Thread) : (putUnit s c u t).ports = s.ports := rfl
@[simp] theorem putUnit_extents (s : State) (c u : Nat) (t : Thread) : (putUnit s c u t).extents = s.extents := rfl
@[simp] theorem putUnit_windows (s : State) (c u : Nat) (t : Thread) : (putUnit s c u t).windows = s.windows := rfl
@[simp] theorem putUnit_hostWait (s : State) (c u : Nat) (t : Thread) : (putUnit s c u t).hostWait = s.hostWait := rfl
@[simp] theorem putUnit_boot (s : State) (c u : Nat) (t : Thread) : (putUnit s c u t).boot = s.boot := rfl
@[simp] theorem putUnit_supRunning (s : State) (c u : Nat) (t : Thread) : (putUnit s c u t).supRunning = s.supRunning := rfl
@[simp] theorem putUnit_supEntry (s : State) (c u : Nat) (t : Thread) : (putUnit s c u t).supEntry = s.supEntry := rfl
@[simp] theorem putUnit_image (s : State) (c u : Nat) (t : Thread) : (putUnit s c u t).image = s.image := rfl
@[simp] theorem putUnit_update (s : State) (c u : Nat) (t : Thread) : (putUnit s c u t).update = s.update := rfl
@[simp] theorem putUnit_supOld (s : State) (c u : Nat) (t : Thread) : (putUnit s c u t).supOld = s.supOld := rfl
@[simp] theorem putUnit_mrs (s : State) (c u : Nat) (t : Thread) : (putUnit s c u t).mrs = s.mrs := rfl
@[simp] theorem putUnit_audit (s : State) (c u : Nat) (t : Thread) : (putUnit s c u t).audit = s.audit := rfl
@[simp] theorem putUnit_auditNext (s : State) (c u : Nat) (t : Thread) : (putUnit s c u t).auditNext = s.auditNext := rfl
@[simp] theorem putUnit_auditReleased (s : State) (c u : Nat) (t : Thread) : (putUnit s c u t).auditReleased = s.auditReleased := rfl
@[simp] theorem putUnit_auditExported (s : State) (c u : Nat) (t : Thread) : (putUnit s c u t).auditExported = s.auditExported := rfl
@[simp] theorem putUnit_auditDropped (s : State) (c u : Nat) (t : Thread) : (putUnit s c u t).auditDropped = s.auditDropped := rfl
@[simp] theorem putUnit_auditLost (s : State) (c u : Nat) (t : Thread) : (putUnit s c u t).auditLost = s.auditLost := rfl
@[simp] theorem putUnit_audIn (s : State) (c u : Nat) (t : Thread) : (putUnit s c u t).audIn = s.audIn := rfl
@[simp] theorem putUnit_audNonce (s : State) (c u : Nat) (t : Thread) : (putUnit s c u t).audNonce = s.audNonce := rfl
@[simp] theorem putUnit_extData (s : State) (c u : Nat) (t : Thread) : (putUnit s c u t).extData = s.extData := rfl
@[simp] theorem putUnit_inletHot (s : State) (c u : Nat) (t : Thread) : (putUnit s c u t).inletHot = s.inletHot := rfl
@[simp] theorem putUnit_linkRuns (s : State) (c u : Nat) (t : Thread) : (putUnit s c u t).linkRuns = s.linkRuns := rfl
@[simp] theorem putUnit_fences (s : State) (c u : Nat) (t : Thread) : (putUnit s c u t).fences = s.fences := rfl
@[simp] theorem putUnit_stkQuiet (s : State) (c u : Nat) (t : Thread) : (putUnit s c u t).stkQuiet = s.stkQuiet := rfl
@[simp] theorem putUnit_recal (s : State) (c u : Nat) (t : Thread) : (putUnit s c u t).recal = s.recal := rfl
@[simp] theorem putUnit_withheld (s : State) (c u : Nat) (t : Thread) : (putUnit s c u t).withheld = s.withheld := rfl
@[simp] theorem putUnit_relReg (s : State) (c u : Nat) (t : Thread) : (putUnit s c u t).relReg = s.relReg := rfl
@[simp] theorem putUnit_queues (s : State) (c u : Nat) (t : Thread) : (putUnit s c u t).queues = s.queues := rfl
@[simp] theorem putUnit_spans (s : State) (c u : Nat) (t : Thread) : (putUnit s c u t).spans = s.spans := rfl
@[simp] theorem putUnit_nextSpan (s : State) (c u : Nat) (t : Thread) : (putUnit s c u t).nextSpan = s.nextSpan := rfl
@[simp] theorem putUnit_rr (s : State) (c u : Nat) (t : Thread) : (putUnit s c u t).rr = s.rr := rfl
@[simp] theorem putUnit_charge (s : State) (c u : Nat) (t : Thread) : (putUnit s c u t).charge = s.charge := rfl
@[simp] theorem putUnit_cores (s : State) (c u : Nat) (t : Thread) : (putUnit s c u t).cores = s.cores := rfl
@[simp] theorem putUnit_mills (s : State) (c u : Nat) (t : Thread) : (putUnit s c u t).mills = s.mills := rfl
@[simp] theorem putUnit_hbars (s : State) (c u : Nat) (t : Thread) : (putUnit s c u t).hbars = s.hbars := rfl
@[simp] theorem putUnit_hstand (s : State) (c u : Nat) (t : Thread) : (putUnit s c u t).hstand = s.hstand := rfl
@[simp] theorem putUnit_hwait (s : State) (c u : Nat) (t : Thread) : (putUnit s c u t).hwait = s.hwait := rfl
@[simp] theorem putUnit_hsent (s : State) (c u : Nat) (t : Thread) : (putUnit s c u t).hsent = s.hsent := rfl
@[simp] theorem putUnit_walkCache (s : State) (c u : Nat) (t : Thread) : (putUnit s c u t).walkCache = s.walkCache := rfl
@[simp] theorem putUnit_walkAsks (s : State) (c u : Nat) (t : Thread) : (putUnit s c u t).walkAsks = s.walkAsks := rfl
@[simp] theorem putUnit_sweeps (s : State) (c u : Nat) (t : Thread) : (putUnit s c u t).sweeps = s.sweeps := rfl
@[simp] theorem putUnit_nextSweep (s : State) (c u : Nat) (t : Thread) : (putUnit s c u t).nextSweep = s.nextSweep := rfl
@[simp] theorem putUnit_publs (s : State) (c u : Nat) (t : Thread) : (putUnit s c u t).publs = s.publs := rfl
@[simp] theorem putUnit_winFaulted (s : State) (c u : Nat) (t : Thread) : (putUnit s c u t).winFaulted = s.winFaulted := rfl
@[simp] theorem putUnit_winTime (s : State) (c u : Nat) (t : Thread) : (putUnit s c u t).winTime = s.winTime := rfl
@[simp] theorem putUnit_ringRetry (s : State) (c u : Nat) (t : Thread) : (putUnit s c u t).ringRetry = s.ringRetry := rfl

/-! ## modUnit -/

@[simp] theorem modUnit_now (s : State) (c u : Nat) (f : Thread → Thread) : (modUnit s c u f).now = s.now := rfl
@[simp] theorem modUnit_resetAt (s : State) (c u : Nat) (f : Thread → Thread) : (modUnit s c u f).resetAt = s.resetAt := rfl
@[simp] theorem modUnit_free (s : State) (c u : Nat) (f : Thread → Thread) : (modUnit s c u f).free = s.free := rfl
@[simp] theorem modUnit_agenda (s : State) (c u : Nat) (f : Thread → Thread) : (modUnit s c u f).agenda = s.agenda := rfl
@[simp] theorem modUnit_pending (s : State) (c u : Nat) (f : Thread → Thread) : (modUnit s c u f).pending = s.pending := rfl
@[simp] theorem modUnit_out (s : State) (c u : Nat) (f : Thread → Thread) : (modUnit s c u f).out = s.out := rfl
@[simp] theorem modUnit_stopped (s : State) (c u : Nat) (f : Thread → Thread) : (modUnit s c u f).stopped = s.stopped := rfl
@[simp] theorem modUnit_cur (s : State) (c u : Nat) (f : Thread → Thread) : (modUnit s c u f).cur = s.cur := rfl
@[simp] theorem modUnit_ctl (s : State) (c u : Nat) (f : Thread → Thread) : (modUnit s c u f).ctl = s.ctl := rfl
@[simp] theorem modUnit_timeLatch (s : State) (c u : Nat) (f : Thread → Thread) : (modUnit s c u f).timeLatch = s.timeLatch := rfl
@[simp] theorem modUnit_errs (s : State) (c u : Nat) (f : Thread → Thread) : (modUnit s c u f).errs = s.errs := rfl
@[simp] theorem modUnit_throttle (s : State) (c u : Nat) (f : Thread → Thread) : (modUnit s c u f).throttle = s.throttle := rfl
@[simp] theorem modUnit_mem (s : State) (c u : Nat) (f : Thread → Thread) : (modUnit s c u f).mem = s.mem := rfl
@[simp] theorem modUnit_poison (s : State) (c u : Nat) (f : Thread → Thread) : (modUnit s c u f).poison = s.poison := rfl
@[simp] theorem modUnit_home (s : State) (c u : Nat) (f : Thread → Thread) : (modUnit s c u f).home = s.home := rfl
@[simp] theorem modUnit_l2 (s : State) (c u : Nat) (f : Thread → Thread) : (modUnit s c u f).l2 = s.l2 := rfl
@[simp] theorem modUnit_wb (s : State) (c u : Nat) (f : Thread → Thread) : (modUnit s c u f).wb = s.wb := rfl
@[simp] theorem modUnit_l1 (s : State) (c u : Nat) (f : Thread → Thread) : (modUnit s c u f).l1 = s.l1 := rfl
@[simp] theorem modUnit_mts (s : State) (c u : Nat) (f : Thread → Thread) : (modUnit s c u f).mts = s.mts := rfl
@[simp] theorem modUnit_filt (s : State) (c u : Nat) (f : Thread → Thread) : (modUnit s c u f).filt = s.filt := rfl
@[simp] theorem modUnit_cohSeq (s : State) (c u : Nat) (f : Thread → Thread) : (modUnit s c u f).cohSeq = s.cohSeq := rfl
@[simp] theorem modUnit_asks (s : State) (c u : Nat) (f : Thread → Thread) : (modUnit s c u f).asks = s.asks := rfl
@[simp] theorem modUnit_writers (s : State) (c u : Nat) (f : Thread → Thread) : (modUnit s c u f).writers = s.writers := rfl
@[simp] theorem modUnit_hwPend (s : State) (c u : Nat) (f : Thread → Thread) : (modUnit s c u f).hwPend = s.hwPend := rfl
@[simp] theorem modUnit_refusals (s : State) (c u : Nat) (f : Thread → Thread) : (modUnit s c u f).refusals = s.refusals := rfl
@[simp] theorem modUnit_fwCache (s : State) (c u : Nat) (f : Thread → Thread) : (modUnit s c u f).fwCache = s.fwCache := rfl
@[simp] theorem modUnit_sweepCells (s : State) (c u : Nat) (f : Thread → Thread) : (modUnit s c u f).sweepCells = s.sweepCells := rfl
@[simp] theorem modUnit_queuedCells (s : State) (c u : Nat) (f : Thread → Thread) : (modUnit s c u f).queuedCells = s.queuedCells := rfl
@[simp] theorem modUnit_recallPage (s : State) (c u : Nat) (f : Thread → Thread) : (modUnit s c u f).recallPage = s.recallPage := rfl
@[simp] theorem modUnit_collapses (s : State) (c u : Nat) (f : Thread → Thread) : (modUnit s c u f).collapses = s.collapses := rfl
@[simp] theorem modUnit_repHeld (s : State) (c u : Nat) (f : Thread → Thread) : (modUnit s c u f).repHeld = s.repHeld := rfl
@[simp] theorem modUnit_repQueue (s : State) (c u : Nat) (f : Thread → Thread) : (modUnit s c u f).repQueue = s.repQueue := rfl
@[simp] theorem modUnit_setWait (s : State) (c u : Nat) (f : Thread → Thread) : (modUnit s c u f).setWait = s.setWait := rfl
@[simp] theorem modUnit_sfBusy (s : State) (c u : Nat) (f : Thread → Thread) : (modUnit s c u f).sfBusy = s.sfBusy := rfl
@[simp] theorem modUnit_reps (s : State) (c u : Nat) (f : Thread → Thread) : (modUnit s c u f).reps = s.reps := rfl
@[simp] theorem modUnit_arming (s : State) (c u : Nat) (f : Thread → Thread) : (modUnit s c u f).arming = s.arming := rfl
@[simp] theorem modUnit_oldLease (s : State) (c u : Nat) (f : Thread → Thread) : (modUnit s c u f).oldLease = s.oldLease := rfl
@[simp] theorem modUnit_planActive (s : State) (c u : Nat) (f : Thread → Thread) : (modUnit s c u f).planActive = s.planActive := rfl
@[simp] theorem modUnit_planPending (s : State) (c u : Nat) (f : Thread → Thread) : (modUnit s c u f).planPending = s.planPending := rfl
@[simp] theorem modUnit_armed (s : State) (c u : Nat) (f : Thread → Thread) : (modUnit s c u f).armed = s.armed := rfl
@[simp] theorem modUnit_switching (s : State) (c u : Nat) (f : Thread → Thread) : (modUnit s c u f).switching = s.switching := rfl
@[simp] theorem modUnit_rxMoved (s : State) (c u : Nat) (f : Thread → Thread) : (modUnit s c u f).rxMoved = s.rxMoved := rfl
@[simp] theorem modUnit_sess (s : State) (c u : Nat) (f : Thread → Thread) : (modUnit s c u f).sess = s.sess := rfl
@[simp] theorem modUnit_chanQ (s : State) (c u : Nat) (f : Thread → Thread) : (modUnit s c u f).chanQ = s.chanQ := rfl
@[simp] theorem modUnit_spdmSeq (s : State) (c u : Nat) (f : Thread → Thread) : (modUnit s c u f).spdmSeq = s.spdmSeq := rfl
@[simp] theorem modUnit_budgetAt (s : State) (c u : Nat) (f : Thread → Thread) : (modUnit s c u f).budgetAt = s.budgetAt := rfl
@[simp] theorem modUnit_peerCell (s : State) (c u : Nat) (f : Thread → Thread) : (modUnit s c u f).peerCell = s.peerCell := rfl
@[simp] theorem modUnit_departed (s : State) (c u : Nat) (f : Thread → Thread) : (modUnit s c u f).departed = s.departed := rfl
@[simp] theorem modUnit_tags (s : State) (c u : Nat) (f : Thread → Thread) : (modUnit s c u f).tags = s.tags := rfl
@[simp] theorem modUnit_setups (s : State) (c u : Nat) (f : Thread → Thread) : (modUnit s c u f).setups = s.setups := rfl
@[simp] theorem modUnit_removed (s : State) (c u : Nat) (f : Thread → Thread) : (modUnit s c u f).removed = s.removed := rfl
@[simp] theorem modUnit_removedRx (s : State) (c u : Nat) (f : Thread → Thread) : (modUnit s c u f).removedRx = s.removedRx := rfl
@[simp] theorem modUnit_fabAdj (s : State) (c u : Nat) (f : Thread → Thread) : (modUnit s c u f).fabAdj = s.fabAdj := rfl
@[simp] theorem modUnit_txns (s : State) (c u : Nat) (f : Thread → Thread) : (modUnit s c u f).txns = s.txns := rfl
@[simp] theorem modUnit_landTxns (s : State) (c u : Nat) (f : Thread → Thread) : (modUnit s c u f).landTxns = s.landTxns := rfl
@[simp] theorem modUnit_nextTxn (s : State) (c u : Nat) (f : Thread → Thread) : (modUnit s c u f).nextTxn = s.nextTxn := rfl
@[simp] theorem modUnit_ports (s : State) (c u : Nat) (f : Thread → Thread) : (modUnit s c u f).ports = s.ports := rfl
@[simp] theorem modUnit_extents (s : State) (c u : Nat) (f : Thread → Thread) : (modUnit s c u f).extents = s.extents := rfl
@[simp] theorem modUnit_windows (s : State) (c u : Nat) (f : Thread → Thread) : (modUnit s c u f).windows = s.windows := rfl
@[simp] theorem modUnit_hostWait (s : State) (c u : Nat) (f : Thread → Thread) : (modUnit s c u f).hostWait = s.hostWait := rfl
@[simp] theorem modUnit_boot (s : State) (c u : Nat) (f : Thread → Thread) : (modUnit s c u f).boot = s.boot := rfl
@[simp] theorem modUnit_supRunning (s : State) (c u : Nat) (f : Thread → Thread) : (modUnit s c u f).supRunning = s.supRunning := rfl
@[simp] theorem modUnit_supEntry (s : State) (c u : Nat) (f : Thread → Thread) : (modUnit s c u f).supEntry = s.supEntry := rfl
@[simp] theorem modUnit_image (s : State) (c u : Nat) (f : Thread → Thread) : (modUnit s c u f).image = s.image := rfl
@[simp] theorem modUnit_update (s : State) (c u : Nat) (f : Thread → Thread) : (modUnit s c u f).update = s.update := rfl
@[simp] theorem modUnit_supOld (s : State) (c u : Nat) (f : Thread → Thread) : (modUnit s c u f).supOld = s.supOld := rfl
@[simp] theorem modUnit_mrs (s : State) (c u : Nat) (f : Thread → Thread) : (modUnit s c u f).mrs = s.mrs := rfl
@[simp] theorem modUnit_audit (s : State) (c u : Nat) (f : Thread → Thread) : (modUnit s c u f).audit = s.audit := rfl
@[simp] theorem modUnit_auditNext (s : State) (c u : Nat) (f : Thread → Thread) : (modUnit s c u f).auditNext = s.auditNext := rfl
@[simp] theorem modUnit_auditReleased (s : State) (c u : Nat) (f : Thread → Thread) : (modUnit s c u f).auditReleased = s.auditReleased := rfl
@[simp] theorem modUnit_auditExported (s : State) (c u : Nat) (f : Thread → Thread) : (modUnit s c u f).auditExported = s.auditExported := rfl
@[simp] theorem modUnit_auditDropped (s : State) (c u : Nat) (f : Thread → Thread) : (modUnit s c u f).auditDropped = s.auditDropped := rfl
@[simp] theorem modUnit_auditLost (s : State) (c u : Nat) (f : Thread → Thread) : (modUnit s c u f).auditLost = s.auditLost := rfl
@[simp] theorem modUnit_audIn (s : State) (c u : Nat) (f : Thread → Thread) : (modUnit s c u f).audIn = s.audIn := rfl
@[simp] theorem modUnit_audNonce (s : State) (c u : Nat) (f : Thread → Thread) : (modUnit s c u f).audNonce = s.audNonce := rfl
@[simp] theorem modUnit_extData (s : State) (c u : Nat) (f : Thread → Thread) : (modUnit s c u f).extData = s.extData := rfl
@[simp] theorem modUnit_inletHot (s : State) (c u : Nat) (f : Thread → Thread) : (modUnit s c u f).inletHot = s.inletHot := rfl
@[simp] theorem modUnit_linkRuns (s : State) (c u : Nat) (f : Thread → Thread) : (modUnit s c u f).linkRuns = s.linkRuns := rfl
@[simp] theorem modUnit_fences (s : State) (c u : Nat) (f : Thread → Thread) : (modUnit s c u f).fences = s.fences := rfl
@[simp] theorem modUnit_stkQuiet (s : State) (c u : Nat) (f : Thread → Thread) : (modUnit s c u f).stkQuiet = s.stkQuiet := rfl
@[simp] theorem modUnit_recal (s : State) (c u : Nat) (f : Thread → Thread) : (modUnit s c u f).recal = s.recal := rfl
@[simp] theorem modUnit_withheld (s : State) (c u : Nat) (f : Thread → Thread) : (modUnit s c u f).withheld = s.withheld := rfl
@[simp] theorem modUnit_relReg (s : State) (c u : Nat) (f : Thread → Thread) : (modUnit s c u f).relReg = s.relReg := rfl
@[simp] theorem modUnit_queues (s : State) (c u : Nat) (f : Thread → Thread) : (modUnit s c u f).queues = s.queues := rfl
@[simp] theorem modUnit_spans (s : State) (c u : Nat) (f : Thread → Thread) : (modUnit s c u f).spans = s.spans := rfl
@[simp] theorem modUnit_nextSpan (s : State) (c u : Nat) (f : Thread → Thread) : (modUnit s c u f).nextSpan = s.nextSpan := rfl
@[simp] theorem modUnit_rr (s : State) (c u : Nat) (f : Thread → Thread) : (modUnit s c u f).rr = s.rr := rfl
@[simp] theorem modUnit_charge (s : State) (c u : Nat) (f : Thread → Thread) : (modUnit s c u f).charge = s.charge := rfl
@[simp] theorem modUnit_cores (s : State) (c u : Nat) (f : Thread → Thread) : (modUnit s c u f).cores = s.cores := rfl
@[simp] theorem modUnit_mills (s : State) (c u : Nat) (f : Thread → Thread) : (modUnit s c u f).mills = s.mills := rfl
@[simp] theorem modUnit_hbars (s : State) (c u : Nat) (f : Thread → Thread) : (modUnit s c u f).hbars = s.hbars := rfl
@[simp] theorem modUnit_hstand (s : State) (c u : Nat) (f : Thread → Thread) : (modUnit s c u f).hstand = s.hstand := rfl
@[simp] theorem modUnit_hwait (s : State) (c u : Nat) (f : Thread → Thread) : (modUnit s c u f).hwait = s.hwait := rfl
@[simp] theorem modUnit_hsent (s : State) (c u : Nat) (f : Thread → Thread) : (modUnit s c u f).hsent = s.hsent := rfl
@[simp] theorem modUnit_walkCache (s : State) (c u : Nat) (f : Thread → Thread) : (modUnit s c u f).walkCache = s.walkCache := rfl
@[simp] theorem modUnit_walkAsks (s : State) (c u : Nat) (f : Thread → Thread) : (modUnit s c u f).walkAsks = s.walkAsks := rfl
@[simp] theorem modUnit_sweeps (s : State) (c u : Nat) (f : Thread → Thread) : (modUnit s c u f).sweeps = s.sweeps := rfl
@[simp] theorem modUnit_nextSweep (s : State) (c u : Nat) (f : Thread → Thread) : (modUnit s c u f).nextSweep = s.nextSweep := rfl
@[simp] theorem modUnit_publs (s : State) (c u : Nat) (f : Thread → Thread) : (modUnit s c u f).publs = s.publs := rfl
@[simp] theorem modUnit_winFaulted (s : State) (c u : Nat) (f : Thread → Thread) : (modUnit s c u f).winFaulted = s.winFaulted := rfl
@[simp] theorem modUnit_winTime (s : State) (c u : Nat) (f : Thread → Thread) : (modUnit s c u f).winTime = s.winTime := rfl
@[simp] theorem modUnit_ringRetry (s : State) (c u : Nat) (f : Thread → Thread) : (modUnit s c u f).ringRetry = s.ringRetry := rfl

/-! ## modCtx -/

@[simp] theorem modCtx_now (s : State) (c : Nat) (f : Ctx → Ctx) : (modCtx s c f).now = s.now := rfl
@[simp] theorem modCtx_resetAt (s : State) (c : Nat) (f : Ctx → Ctx) : (modCtx s c f).resetAt = s.resetAt := rfl
@[simp] theorem modCtx_free (s : State) (c : Nat) (f : Ctx → Ctx) : (modCtx s c f).free = s.free := rfl
@[simp] theorem modCtx_agenda (s : State) (c : Nat) (f : Ctx → Ctx) : (modCtx s c f).agenda = s.agenda := rfl
@[simp] theorem modCtx_pending (s : State) (c : Nat) (f : Ctx → Ctx) : (modCtx s c f).pending = s.pending := rfl
@[simp] theorem modCtx_out (s : State) (c : Nat) (f : Ctx → Ctx) : (modCtx s c f).out = s.out := rfl
@[simp] theorem modCtx_stopped (s : State) (c : Nat) (f : Ctx → Ctx) : (modCtx s c f).stopped = s.stopped := rfl
@[simp] theorem modCtx_cur (s : State) (c : Nat) (f : Ctx → Ctx) : (modCtx s c f).cur = s.cur := rfl
@[simp] theorem modCtx_ctl (s : State) (c : Nat) (f : Ctx → Ctx) : (modCtx s c f).ctl = s.ctl := rfl
@[simp] theorem modCtx_timeLatch (s : State) (c : Nat) (f : Ctx → Ctx) : (modCtx s c f).timeLatch = s.timeLatch := rfl
@[simp] theorem modCtx_errs (s : State) (c : Nat) (f : Ctx → Ctx) : (modCtx s c f).errs = s.errs := rfl
@[simp] theorem modCtx_throttle (s : State) (c : Nat) (f : Ctx → Ctx) : (modCtx s c f).throttle = s.throttle := rfl
@[simp] theorem modCtx_mem (s : State) (c : Nat) (f : Ctx → Ctx) : (modCtx s c f).mem = s.mem := rfl
@[simp] theorem modCtx_poison (s : State) (c : Nat) (f : Ctx → Ctx) : (modCtx s c f).poison = s.poison := rfl
@[simp] theorem modCtx_home (s : State) (c : Nat) (f : Ctx → Ctx) : (modCtx s c f).home = s.home := rfl
@[simp] theorem modCtx_l2 (s : State) (c : Nat) (f : Ctx → Ctx) : (modCtx s c f).l2 = s.l2 := rfl
@[simp] theorem modCtx_wb (s : State) (c : Nat) (f : Ctx → Ctx) : (modCtx s c f).wb = s.wb := rfl
@[simp] theorem modCtx_l1 (s : State) (c : Nat) (f : Ctx → Ctx) : (modCtx s c f).l1 = s.l1 := rfl
@[simp] theorem modCtx_mts (s : State) (c : Nat) (f : Ctx → Ctx) : (modCtx s c f).mts = s.mts := rfl
@[simp] theorem modCtx_filt (s : State) (c : Nat) (f : Ctx → Ctx) : (modCtx s c f).filt = s.filt := rfl
@[simp] theorem modCtx_cohSeq (s : State) (c : Nat) (f : Ctx → Ctx) : (modCtx s c f).cohSeq = s.cohSeq := rfl
@[simp] theorem modCtx_asks (s : State) (c : Nat) (f : Ctx → Ctx) : (modCtx s c f).asks = s.asks := rfl
@[simp] theorem modCtx_writers (s : State) (c : Nat) (f : Ctx → Ctx) : (modCtx s c f).writers = s.writers := rfl
@[simp] theorem modCtx_hwPend (s : State) (c : Nat) (f : Ctx → Ctx) : (modCtx s c f).hwPend = s.hwPend := rfl
@[simp] theorem modCtx_refusals (s : State) (c : Nat) (f : Ctx → Ctx) : (modCtx s c f).refusals = s.refusals := rfl
@[simp] theorem modCtx_fwCache (s : State) (c : Nat) (f : Ctx → Ctx) : (modCtx s c f).fwCache = s.fwCache := rfl
@[simp] theorem modCtx_sweepCells (s : State) (c : Nat) (f : Ctx → Ctx) : (modCtx s c f).sweepCells = s.sweepCells := rfl
@[simp] theorem modCtx_queuedCells (s : State) (c : Nat) (f : Ctx → Ctx) : (modCtx s c f).queuedCells = s.queuedCells := rfl
@[simp] theorem modCtx_recallPage (s : State) (c : Nat) (f : Ctx → Ctx) : (modCtx s c f).recallPage = s.recallPage := rfl
@[simp] theorem modCtx_collapses (s : State) (c : Nat) (f : Ctx → Ctx) : (modCtx s c f).collapses = s.collapses := rfl
@[simp] theorem modCtx_repHeld (s : State) (c : Nat) (f : Ctx → Ctx) : (modCtx s c f).repHeld = s.repHeld := rfl
@[simp] theorem modCtx_repQueue (s : State) (c : Nat) (f : Ctx → Ctx) : (modCtx s c f).repQueue = s.repQueue := rfl
@[simp] theorem modCtx_setWait (s : State) (c : Nat) (f : Ctx → Ctx) : (modCtx s c f).setWait = s.setWait := rfl
@[simp] theorem modCtx_sfBusy (s : State) (c : Nat) (f : Ctx → Ctx) : (modCtx s c f).sfBusy = s.sfBusy := rfl
@[simp] theorem modCtx_reps (s : State) (c : Nat) (f : Ctx → Ctx) : (modCtx s c f).reps = s.reps := rfl
@[simp] theorem modCtx_arming (s : State) (c : Nat) (f : Ctx → Ctx) : (modCtx s c f).arming = s.arming := rfl
@[simp] theorem modCtx_oldLease (s : State) (c : Nat) (f : Ctx → Ctx) : (modCtx s c f).oldLease = s.oldLease := rfl
@[simp] theorem modCtx_planActive (s : State) (c : Nat) (f : Ctx → Ctx) : (modCtx s c f).planActive = s.planActive := rfl
@[simp] theorem modCtx_planPending (s : State) (c : Nat) (f : Ctx → Ctx) : (modCtx s c f).planPending = s.planPending := rfl
@[simp] theorem modCtx_armed (s : State) (c : Nat) (f : Ctx → Ctx) : (modCtx s c f).armed = s.armed := rfl
@[simp] theorem modCtx_switching (s : State) (c : Nat) (f : Ctx → Ctx) : (modCtx s c f).switching = s.switching := rfl
@[simp] theorem modCtx_rxMoved (s : State) (c : Nat) (f : Ctx → Ctx) : (modCtx s c f).rxMoved = s.rxMoved := rfl
@[simp] theorem modCtx_sess (s : State) (c : Nat) (f : Ctx → Ctx) : (modCtx s c f).sess = s.sess := rfl
@[simp] theorem modCtx_chanQ (s : State) (c : Nat) (f : Ctx → Ctx) : (modCtx s c f).chanQ = s.chanQ := rfl
@[simp] theorem modCtx_spdmSeq (s : State) (c : Nat) (f : Ctx → Ctx) : (modCtx s c f).spdmSeq = s.spdmSeq := rfl
@[simp] theorem modCtx_budgetAt (s : State) (c : Nat) (f : Ctx → Ctx) : (modCtx s c f).budgetAt = s.budgetAt := rfl
@[simp] theorem modCtx_peerCell (s : State) (c : Nat) (f : Ctx → Ctx) : (modCtx s c f).peerCell = s.peerCell := rfl
@[simp] theorem modCtx_departed (s : State) (c : Nat) (f : Ctx → Ctx) : (modCtx s c f).departed = s.departed := rfl
@[simp] theorem modCtx_tags (s : State) (c : Nat) (f : Ctx → Ctx) : (modCtx s c f).tags = s.tags := rfl
@[simp] theorem modCtx_setups (s : State) (c : Nat) (f : Ctx → Ctx) : (modCtx s c f).setups = s.setups := rfl
@[simp] theorem modCtx_removed (s : State) (c : Nat) (f : Ctx → Ctx) : (modCtx s c f).removed = s.removed := rfl
@[simp] theorem modCtx_removedRx (s : State) (c : Nat) (f : Ctx → Ctx) : (modCtx s c f).removedRx = s.removedRx := rfl
@[simp] theorem modCtx_fabAdj (s : State) (c : Nat) (f : Ctx → Ctx) : (modCtx s c f).fabAdj = s.fabAdj := rfl
@[simp] theorem modCtx_txns (s : State) (c : Nat) (f : Ctx → Ctx) : (modCtx s c f).txns = s.txns := rfl
@[simp] theorem modCtx_landTxns (s : State) (c : Nat) (f : Ctx → Ctx) : (modCtx s c f).landTxns = s.landTxns := rfl
@[simp] theorem modCtx_nextTxn (s : State) (c : Nat) (f : Ctx → Ctx) : (modCtx s c f).nextTxn = s.nextTxn := rfl
@[simp] theorem modCtx_ports (s : State) (c : Nat) (f : Ctx → Ctx) : (modCtx s c f).ports = s.ports := rfl
@[simp] theorem modCtx_extents (s : State) (c : Nat) (f : Ctx → Ctx) : (modCtx s c f).extents = s.extents := rfl
@[simp] theorem modCtx_windows (s : State) (c : Nat) (f : Ctx → Ctx) : (modCtx s c f).windows = s.windows := rfl
@[simp] theorem modCtx_hostWait (s : State) (c : Nat) (f : Ctx → Ctx) : (modCtx s c f).hostWait = s.hostWait := rfl
@[simp] theorem modCtx_boot (s : State) (c : Nat) (f : Ctx → Ctx) : (modCtx s c f).boot = s.boot := rfl
@[simp] theorem modCtx_supRunning (s : State) (c : Nat) (f : Ctx → Ctx) : (modCtx s c f).supRunning = s.supRunning := rfl
@[simp] theorem modCtx_supEntry (s : State) (c : Nat) (f : Ctx → Ctx) : (modCtx s c f).supEntry = s.supEntry := rfl
@[simp] theorem modCtx_image (s : State) (c : Nat) (f : Ctx → Ctx) : (modCtx s c f).image = s.image := rfl
@[simp] theorem modCtx_update (s : State) (c : Nat) (f : Ctx → Ctx) : (modCtx s c f).update = s.update := rfl
@[simp] theorem modCtx_supOld (s : State) (c : Nat) (f : Ctx → Ctx) : (modCtx s c f).supOld = s.supOld := rfl
@[simp] theorem modCtx_mrs (s : State) (c : Nat) (f : Ctx → Ctx) : (modCtx s c f).mrs = s.mrs := rfl
@[simp] theorem modCtx_audit (s : State) (c : Nat) (f : Ctx → Ctx) : (modCtx s c f).audit = s.audit := rfl
@[simp] theorem modCtx_auditNext (s : State) (c : Nat) (f : Ctx → Ctx) : (modCtx s c f).auditNext = s.auditNext := rfl
@[simp] theorem modCtx_auditReleased (s : State) (c : Nat) (f : Ctx → Ctx) : (modCtx s c f).auditReleased = s.auditReleased := rfl
@[simp] theorem modCtx_auditExported (s : State) (c : Nat) (f : Ctx → Ctx) : (modCtx s c f).auditExported = s.auditExported := rfl
@[simp] theorem modCtx_auditDropped (s : State) (c : Nat) (f : Ctx → Ctx) : (modCtx s c f).auditDropped = s.auditDropped := rfl
@[simp] theorem modCtx_auditLost (s : State) (c : Nat) (f : Ctx → Ctx) : (modCtx s c f).auditLost = s.auditLost := rfl
@[simp] theorem modCtx_audIn (s : State) (c : Nat) (f : Ctx → Ctx) : (modCtx s c f).audIn = s.audIn := rfl
@[simp] theorem modCtx_audNonce (s : State) (c : Nat) (f : Ctx → Ctx) : (modCtx s c f).audNonce = s.audNonce := rfl
@[simp] theorem modCtx_extData (s : State) (c : Nat) (f : Ctx → Ctx) : (modCtx s c f).extData = s.extData := rfl
@[simp] theorem modCtx_inletHot (s : State) (c : Nat) (f : Ctx → Ctx) : (modCtx s c f).inletHot = s.inletHot := rfl
@[simp] theorem modCtx_linkRuns (s : State) (c : Nat) (f : Ctx → Ctx) : (modCtx s c f).linkRuns = s.linkRuns := rfl
@[simp] theorem modCtx_fences (s : State) (c : Nat) (f : Ctx → Ctx) : (modCtx s c f).fences = s.fences := rfl
@[simp] theorem modCtx_stkQuiet (s : State) (c : Nat) (f : Ctx → Ctx) : (modCtx s c f).stkQuiet = s.stkQuiet := rfl
@[simp] theorem modCtx_recal (s : State) (c : Nat) (f : Ctx → Ctx) : (modCtx s c f).recal = s.recal := rfl
@[simp] theorem modCtx_withheld (s : State) (c : Nat) (f : Ctx → Ctx) : (modCtx s c f).withheld = s.withheld := rfl
@[simp] theorem modCtx_relReg (s : State) (c : Nat) (f : Ctx → Ctx) : (modCtx s c f).relReg = s.relReg := rfl
@[simp] theorem modCtx_queues (s : State) (c : Nat) (f : Ctx → Ctx) : (modCtx s c f).queues = s.queues := rfl
@[simp] theorem modCtx_spans (s : State) (c : Nat) (f : Ctx → Ctx) : (modCtx s c f).spans = s.spans := rfl
@[simp] theorem modCtx_nextSpan (s : State) (c : Nat) (f : Ctx → Ctx) : (modCtx s c f).nextSpan = s.nextSpan := rfl
@[simp] theorem modCtx_rr (s : State) (c : Nat) (f : Ctx → Ctx) : (modCtx s c f).rr = s.rr := rfl
@[simp] theorem modCtx_charge (s : State) (c : Nat) (f : Ctx → Ctx) : (modCtx s c f).charge = s.charge := rfl
@[simp] theorem modCtx_cores (s : State) (c : Nat) (f : Ctx → Ctx) : (modCtx s c f).cores = s.cores := rfl
@[simp] theorem modCtx_mills (s : State) (c : Nat) (f : Ctx → Ctx) : (modCtx s c f).mills = s.mills := rfl
@[simp] theorem modCtx_hbars (s : State) (c : Nat) (f : Ctx → Ctx) : (modCtx s c f).hbars = s.hbars := rfl
@[simp] theorem modCtx_hstand (s : State) (c : Nat) (f : Ctx → Ctx) : (modCtx s c f).hstand = s.hstand := rfl
@[simp] theorem modCtx_hwait (s : State) (c : Nat) (f : Ctx → Ctx) : (modCtx s c f).hwait = s.hwait := rfl
@[simp] theorem modCtx_hsent (s : State) (c : Nat) (f : Ctx → Ctx) : (modCtx s c f).hsent = s.hsent := rfl
@[simp] theorem modCtx_walkCache (s : State) (c : Nat) (f : Ctx → Ctx) : (modCtx s c f).walkCache = s.walkCache := rfl
@[simp] theorem modCtx_walkAsks (s : State) (c : Nat) (f : Ctx → Ctx) : (modCtx s c f).walkAsks = s.walkAsks := rfl
@[simp] theorem modCtx_sweeps (s : State) (c : Nat) (f : Ctx → Ctx) : (modCtx s c f).sweeps = s.sweeps := rfl
@[simp] theorem modCtx_nextSweep (s : State) (c : Nat) (f : Ctx → Ctx) : (modCtx s c f).nextSweep = s.nextSweep := rfl
@[simp] theorem modCtx_publs (s : State) (c : Nat) (f : Ctx → Ctx) : (modCtx s c f).publs = s.publs := rfl
@[simp] theorem modCtx_winFaulted (s : State) (c : Nat) (f : Ctx → Ctx) : (modCtx s c f).winFaulted = s.winFaulted := rfl
@[simp] theorem modCtx_winTime (s : State) (c : Nat) (f : Ctx → Ctx) : (modCtx s c f).winTime = s.winTime := rfl
@[simp] theorem modCtx_ringRetry (s : State) (c : Nat) (f : Ctx → Ctx) : (modCtx s c f).ringRetry = s.ringRetry := rfl

/-! ## modFerry -/

@[simp] theorem modFerry_now (s : State) (c f : Nat) (g : Ferry → Ferry) : (modFerry s c f g).now = s.now := rfl
@[simp] theorem modFerry_resetAt (s : State) (c f : Nat) (g : Ferry → Ferry) : (modFerry s c f g).resetAt = s.resetAt := rfl
@[simp] theorem modFerry_free (s : State) (c f : Nat) (g : Ferry → Ferry) : (modFerry s c f g).free = s.free := rfl
@[simp] theorem modFerry_agenda (s : State) (c f : Nat) (g : Ferry → Ferry) : (modFerry s c f g).agenda = s.agenda := rfl
@[simp] theorem modFerry_pending (s : State) (c f : Nat) (g : Ferry → Ferry) : (modFerry s c f g).pending = s.pending := rfl
@[simp] theorem modFerry_out (s : State) (c f : Nat) (g : Ferry → Ferry) : (modFerry s c f g).out = s.out := rfl
@[simp] theorem modFerry_stopped (s : State) (c f : Nat) (g : Ferry → Ferry) : (modFerry s c f g).stopped = s.stopped := rfl
@[simp] theorem modFerry_cur (s : State) (c f : Nat) (g : Ferry → Ferry) : (modFerry s c f g).cur = s.cur := rfl
@[simp] theorem modFerry_ctl (s : State) (c f : Nat) (g : Ferry → Ferry) : (modFerry s c f g).ctl = s.ctl := rfl
@[simp] theorem modFerry_timeLatch (s : State) (c f : Nat) (g : Ferry → Ferry) : (modFerry s c f g).timeLatch = s.timeLatch := rfl
@[simp] theorem modFerry_errs (s : State) (c f : Nat) (g : Ferry → Ferry) : (modFerry s c f g).errs = s.errs := rfl
@[simp] theorem modFerry_throttle (s : State) (c f : Nat) (g : Ferry → Ferry) : (modFerry s c f g).throttle = s.throttle := rfl
@[simp] theorem modFerry_mem (s : State) (c f : Nat) (g : Ferry → Ferry) : (modFerry s c f g).mem = s.mem := rfl
@[simp] theorem modFerry_poison (s : State) (c f : Nat) (g : Ferry → Ferry) : (modFerry s c f g).poison = s.poison := rfl
@[simp] theorem modFerry_home (s : State) (c f : Nat) (g : Ferry → Ferry) : (modFerry s c f g).home = s.home := rfl
@[simp] theorem modFerry_l2 (s : State) (c f : Nat) (g : Ferry → Ferry) : (modFerry s c f g).l2 = s.l2 := rfl
@[simp] theorem modFerry_wb (s : State) (c f : Nat) (g : Ferry → Ferry) : (modFerry s c f g).wb = s.wb := rfl
@[simp] theorem modFerry_l1 (s : State) (c f : Nat) (g : Ferry → Ferry) : (modFerry s c f g).l1 = s.l1 := rfl
@[simp] theorem modFerry_mts (s : State) (c f : Nat) (g : Ferry → Ferry) : (modFerry s c f g).mts = s.mts := rfl
@[simp] theorem modFerry_filt (s : State) (c f : Nat) (g : Ferry → Ferry) : (modFerry s c f g).filt = s.filt := rfl
@[simp] theorem modFerry_cohSeq (s : State) (c f : Nat) (g : Ferry → Ferry) : (modFerry s c f g).cohSeq = s.cohSeq := rfl
@[simp] theorem modFerry_asks (s : State) (c f : Nat) (g : Ferry → Ferry) : (modFerry s c f g).asks = s.asks := rfl
@[simp] theorem modFerry_writers (s : State) (c f : Nat) (g : Ferry → Ferry) : (modFerry s c f g).writers = s.writers := rfl
@[simp] theorem modFerry_hwPend (s : State) (c f : Nat) (g : Ferry → Ferry) : (modFerry s c f g).hwPend = s.hwPend := rfl
@[simp] theorem modFerry_refusals (s : State) (c f : Nat) (g : Ferry → Ferry) : (modFerry s c f g).refusals = s.refusals := rfl
@[simp] theorem modFerry_fwCache (s : State) (c f : Nat) (g : Ferry → Ferry) : (modFerry s c f g).fwCache = s.fwCache := rfl
@[simp] theorem modFerry_sweepCells (s : State) (c f : Nat) (g : Ferry → Ferry) : (modFerry s c f g).sweepCells = s.sweepCells := rfl
@[simp] theorem modFerry_queuedCells (s : State) (c f : Nat) (g : Ferry → Ferry) : (modFerry s c f g).queuedCells = s.queuedCells := rfl
@[simp] theorem modFerry_recallPage (s : State) (c f : Nat) (g : Ferry → Ferry) : (modFerry s c f g).recallPage = s.recallPage := rfl
@[simp] theorem modFerry_collapses (s : State) (c f : Nat) (g : Ferry → Ferry) : (modFerry s c f g).collapses = s.collapses := rfl
@[simp] theorem modFerry_repHeld (s : State) (c f : Nat) (g : Ferry → Ferry) : (modFerry s c f g).repHeld = s.repHeld := rfl
@[simp] theorem modFerry_repQueue (s : State) (c f : Nat) (g : Ferry → Ferry) : (modFerry s c f g).repQueue = s.repQueue := rfl
@[simp] theorem modFerry_setWait (s : State) (c f : Nat) (g : Ferry → Ferry) : (modFerry s c f g).setWait = s.setWait := rfl
@[simp] theorem modFerry_sfBusy (s : State) (c f : Nat) (g : Ferry → Ferry) : (modFerry s c f g).sfBusy = s.sfBusy := rfl
@[simp] theorem modFerry_reps (s : State) (c f : Nat) (g : Ferry → Ferry) : (modFerry s c f g).reps = s.reps := rfl
@[simp] theorem modFerry_arming (s : State) (c f : Nat) (g : Ferry → Ferry) : (modFerry s c f g).arming = s.arming := rfl
@[simp] theorem modFerry_oldLease (s : State) (c f : Nat) (g : Ferry → Ferry) : (modFerry s c f g).oldLease = s.oldLease := rfl
@[simp] theorem modFerry_planActive (s : State) (c f : Nat) (g : Ferry → Ferry) : (modFerry s c f g).planActive = s.planActive := rfl
@[simp] theorem modFerry_planPending (s : State) (c f : Nat) (g : Ferry → Ferry) : (modFerry s c f g).planPending = s.planPending := rfl
@[simp] theorem modFerry_armed (s : State) (c f : Nat) (g : Ferry → Ferry) : (modFerry s c f g).armed = s.armed := rfl
@[simp] theorem modFerry_switching (s : State) (c f : Nat) (g : Ferry → Ferry) : (modFerry s c f g).switching = s.switching := rfl
@[simp] theorem modFerry_rxMoved (s : State) (c f : Nat) (g : Ferry → Ferry) : (modFerry s c f g).rxMoved = s.rxMoved := rfl
@[simp] theorem modFerry_sess (s : State) (c f : Nat) (g : Ferry → Ferry) : (modFerry s c f g).sess = s.sess := rfl
@[simp] theorem modFerry_chanQ (s : State) (c f : Nat) (g : Ferry → Ferry) : (modFerry s c f g).chanQ = s.chanQ := rfl
@[simp] theorem modFerry_spdmSeq (s : State) (c f : Nat) (g : Ferry → Ferry) : (modFerry s c f g).spdmSeq = s.spdmSeq := rfl
@[simp] theorem modFerry_budgetAt (s : State) (c f : Nat) (g : Ferry → Ferry) : (modFerry s c f g).budgetAt = s.budgetAt := rfl
@[simp] theorem modFerry_peerCell (s : State) (c f : Nat) (g : Ferry → Ferry) : (modFerry s c f g).peerCell = s.peerCell := rfl
@[simp] theorem modFerry_departed (s : State) (c f : Nat) (g : Ferry → Ferry) : (modFerry s c f g).departed = s.departed := rfl
@[simp] theorem modFerry_tags (s : State) (c f : Nat) (g : Ferry → Ferry) : (modFerry s c f g).tags = s.tags := rfl
@[simp] theorem modFerry_setups (s : State) (c f : Nat) (g : Ferry → Ferry) : (modFerry s c f g).setups = s.setups := rfl
@[simp] theorem modFerry_removed (s : State) (c f : Nat) (g : Ferry → Ferry) : (modFerry s c f g).removed = s.removed := rfl
@[simp] theorem modFerry_removedRx (s : State) (c f : Nat) (g : Ferry → Ferry) : (modFerry s c f g).removedRx = s.removedRx := rfl
@[simp] theorem modFerry_fabAdj (s : State) (c f : Nat) (g : Ferry → Ferry) : (modFerry s c f g).fabAdj = s.fabAdj := rfl
@[simp] theorem modFerry_txns (s : State) (c f : Nat) (g : Ferry → Ferry) : (modFerry s c f g).txns = s.txns := rfl
@[simp] theorem modFerry_landTxns (s : State) (c f : Nat) (g : Ferry → Ferry) : (modFerry s c f g).landTxns = s.landTxns := rfl
@[simp] theorem modFerry_nextTxn (s : State) (c f : Nat) (g : Ferry → Ferry) : (modFerry s c f g).nextTxn = s.nextTxn := rfl
@[simp] theorem modFerry_ports (s : State) (c f : Nat) (g : Ferry → Ferry) : (modFerry s c f g).ports = s.ports := rfl
@[simp] theorem modFerry_extents (s : State) (c f : Nat) (g : Ferry → Ferry) : (modFerry s c f g).extents = s.extents := rfl
@[simp] theorem modFerry_windows (s : State) (c f : Nat) (g : Ferry → Ferry) : (modFerry s c f g).windows = s.windows := rfl
@[simp] theorem modFerry_hostWait (s : State) (c f : Nat) (g : Ferry → Ferry) : (modFerry s c f g).hostWait = s.hostWait := rfl
@[simp] theorem modFerry_boot (s : State) (c f : Nat) (g : Ferry → Ferry) : (modFerry s c f g).boot = s.boot := rfl
@[simp] theorem modFerry_supRunning (s : State) (c f : Nat) (g : Ferry → Ferry) : (modFerry s c f g).supRunning = s.supRunning := rfl
@[simp] theorem modFerry_supEntry (s : State) (c f : Nat) (g : Ferry → Ferry) : (modFerry s c f g).supEntry = s.supEntry := rfl
@[simp] theorem modFerry_image (s : State) (c f : Nat) (g : Ferry → Ferry) : (modFerry s c f g).image = s.image := rfl
@[simp] theorem modFerry_update (s : State) (c f : Nat) (g : Ferry → Ferry) : (modFerry s c f g).update = s.update := rfl
@[simp] theorem modFerry_supOld (s : State) (c f : Nat) (g : Ferry → Ferry) : (modFerry s c f g).supOld = s.supOld := rfl
@[simp] theorem modFerry_mrs (s : State) (c f : Nat) (g : Ferry → Ferry) : (modFerry s c f g).mrs = s.mrs := rfl
@[simp] theorem modFerry_audit (s : State) (c f : Nat) (g : Ferry → Ferry) : (modFerry s c f g).audit = s.audit := rfl
@[simp] theorem modFerry_auditNext (s : State) (c f : Nat) (g : Ferry → Ferry) : (modFerry s c f g).auditNext = s.auditNext := rfl
@[simp] theorem modFerry_auditReleased (s : State) (c f : Nat) (g : Ferry → Ferry) : (modFerry s c f g).auditReleased = s.auditReleased := rfl
@[simp] theorem modFerry_auditExported (s : State) (c f : Nat) (g : Ferry → Ferry) : (modFerry s c f g).auditExported = s.auditExported := rfl
@[simp] theorem modFerry_auditDropped (s : State) (c f : Nat) (g : Ferry → Ferry) : (modFerry s c f g).auditDropped = s.auditDropped := rfl
@[simp] theorem modFerry_auditLost (s : State) (c f : Nat) (g : Ferry → Ferry) : (modFerry s c f g).auditLost = s.auditLost := rfl
@[simp] theorem modFerry_audIn (s : State) (c f : Nat) (g : Ferry → Ferry) : (modFerry s c f g).audIn = s.audIn := rfl
@[simp] theorem modFerry_audNonce (s : State) (c f : Nat) (g : Ferry → Ferry) : (modFerry s c f g).audNonce = s.audNonce := rfl
@[simp] theorem modFerry_extData (s : State) (c f : Nat) (g : Ferry → Ferry) : (modFerry s c f g).extData = s.extData := rfl
@[simp] theorem modFerry_inletHot (s : State) (c f : Nat) (g : Ferry → Ferry) : (modFerry s c f g).inletHot = s.inletHot := rfl
@[simp] theorem modFerry_linkRuns (s : State) (c f : Nat) (g : Ferry → Ferry) : (modFerry s c f g).linkRuns = s.linkRuns := rfl
@[simp] theorem modFerry_fences (s : State) (c f : Nat) (g : Ferry → Ferry) : (modFerry s c f g).fences = s.fences := rfl
@[simp] theorem modFerry_stkQuiet (s : State) (c f : Nat) (g : Ferry → Ferry) : (modFerry s c f g).stkQuiet = s.stkQuiet := rfl
@[simp] theorem modFerry_recal (s : State) (c f : Nat) (g : Ferry → Ferry) : (modFerry s c f g).recal = s.recal := rfl
@[simp] theorem modFerry_withheld (s : State) (c f : Nat) (g : Ferry → Ferry) : (modFerry s c f g).withheld = s.withheld := rfl
@[simp] theorem modFerry_relReg (s : State) (c f : Nat) (g : Ferry → Ferry) : (modFerry s c f g).relReg = s.relReg := rfl
@[simp] theorem modFerry_queues (s : State) (c f : Nat) (g : Ferry → Ferry) : (modFerry s c f g).queues = s.queues := rfl
@[simp] theorem modFerry_spans (s : State) (c f : Nat) (g : Ferry → Ferry) : (modFerry s c f g).spans = s.spans := rfl
@[simp] theorem modFerry_nextSpan (s : State) (c f : Nat) (g : Ferry → Ferry) : (modFerry s c f g).nextSpan = s.nextSpan := rfl
@[simp] theorem modFerry_rr (s : State) (c f : Nat) (g : Ferry → Ferry) : (modFerry s c f g).rr = s.rr := rfl
@[simp] theorem modFerry_charge (s : State) (c f : Nat) (g : Ferry → Ferry) : (modFerry s c f g).charge = s.charge := rfl
@[simp] theorem modFerry_cores (s : State) (c f : Nat) (g : Ferry → Ferry) : (modFerry s c f g).cores = s.cores := rfl
@[simp] theorem modFerry_mills (s : State) (c f : Nat) (g : Ferry → Ferry) : (modFerry s c f g).mills = s.mills := rfl
@[simp] theorem modFerry_hbars (s : State) (c f : Nat) (g : Ferry → Ferry) : (modFerry s c f g).hbars = s.hbars := rfl
@[simp] theorem modFerry_hstand (s : State) (c f : Nat) (g : Ferry → Ferry) : (modFerry s c f g).hstand = s.hstand := rfl
@[simp] theorem modFerry_hwait (s : State) (c f : Nat) (g : Ferry → Ferry) : (modFerry s c f g).hwait = s.hwait := rfl
@[simp] theorem modFerry_hsent (s : State) (c f : Nat) (g : Ferry → Ferry) : (modFerry s c f g).hsent = s.hsent := rfl
@[simp] theorem modFerry_walkCache (s : State) (c f : Nat) (g : Ferry → Ferry) : (modFerry s c f g).walkCache = s.walkCache := rfl
@[simp] theorem modFerry_walkAsks (s : State) (c f : Nat) (g : Ferry → Ferry) : (modFerry s c f g).walkAsks = s.walkAsks := rfl
@[simp] theorem modFerry_sweeps (s : State) (c f : Nat) (g : Ferry → Ferry) : (modFerry s c f g).sweeps = s.sweeps := rfl
@[simp] theorem modFerry_nextSweep (s : State) (c f : Nat) (g : Ferry → Ferry) : (modFerry s c f g).nextSweep = s.nextSweep := rfl
@[simp] theorem modFerry_publs (s : State) (c f : Nat) (g : Ferry → Ferry) : (modFerry s c f g).publs = s.publs := rfl
@[simp] theorem modFerry_winFaulted (s : State) (c f : Nat) (g : Ferry → Ferry) : (modFerry s c f g).winFaulted = s.winFaulted := rfl
@[simp] theorem modFerry_winTime (s : State) (c f : Nat) (g : Ferry → Ferry) : (modFerry s c f g).winTime = s.winTime := rfl
@[simp] theorem modFerry_ringRetry (s : State) (c f : Nat) (g : Ferry → Ferry) : (modFerry s c f g).ringRetry = s.ringRetry := rfl

/-! ## modCurUnit -/

@[simp] theorem modCurUnit_now (s : State) (f : Thread → Thread) : (modCurUnit s f).now = s.now := rfl
@[simp] theorem modCurUnit_resetAt (s : State) (f : Thread → Thread) : (modCurUnit s f).resetAt = s.resetAt := rfl
@[simp] theorem modCurUnit_free (s : State) (f : Thread → Thread) : (modCurUnit s f).free = s.free := rfl
@[simp] theorem modCurUnit_agenda (s : State) (f : Thread → Thread) : (modCurUnit s f).agenda = s.agenda := rfl
@[simp] theorem modCurUnit_pending (s : State) (f : Thread → Thread) : (modCurUnit s f).pending = s.pending := rfl
@[simp] theorem modCurUnit_out (s : State) (f : Thread → Thread) : (modCurUnit s f).out = s.out := rfl
@[simp] theorem modCurUnit_stopped (s : State) (f : Thread → Thread) : (modCurUnit s f).stopped = s.stopped := rfl
@[simp] theorem modCurUnit_cur (s : State) (f : Thread → Thread) : (modCurUnit s f).cur = s.cur := rfl
@[simp] theorem modCurUnit_ctl (s : State) (f : Thread → Thread) : (modCurUnit s f).ctl = s.ctl := rfl
@[simp] theorem modCurUnit_timeLatch (s : State) (f : Thread → Thread) : (modCurUnit s f).timeLatch = s.timeLatch := rfl
@[simp] theorem modCurUnit_errs (s : State) (f : Thread → Thread) : (modCurUnit s f).errs = s.errs := rfl
@[simp] theorem modCurUnit_throttle (s : State) (f : Thread → Thread) : (modCurUnit s f).throttle = s.throttle := rfl
@[simp] theorem modCurUnit_mem (s : State) (f : Thread → Thread) : (modCurUnit s f).mem = s.mem := rfl
@[simp] theorem modCurUnit_poison (s : State) (f : Thread → Thread) : (modCurUnit s f).poison = s.poison := rfl
@[simp] theorem modCurUnit_home (s : State) (f : Thread → Thread) : (modCurUnit s f).home = s.home := rfl
@[simp] theorem modCurUnit_l2 (s : State) (f : Thread → Thread) : (modCurUnit s f).l2 = s.l2 := rfl
@[simp] theorem modCurUnit_wb (s : State) (f : Thread → Thread) : (modCurUnit s f).wb = s.wb := rfl
@[simp] theorem modCurUnit_l1 (s : State) (f : Thread → Thread) : (modCurUnit s f).l1 = s.l1 := rfl
@[simp] theorem modCurUnit_mts (s : State) (f : Thread → Thread) : (modCurUnit s f).mts = s.mts := rfl
@[simp] theorem modCurUnit_filt (s : State) (f : Thread → Thread) : (modCurUnit s f).filt = s.filt := rfl
@[simp] theorem modCurUnit_cohSeq (s : State) (f : Thread → Thread) : (modCurUnit s f).cohSeq = s.cohSeq := rfl
@[simp] theorem modCurUnit_asks (s : State) (f : Thread → Thread) : (modCurUnit s f).asks = s.asks := rfl
@[simp] theorem modCurUnit_writers (s : State) (f : Thread → Thread) : (modCurUnit s f).writers = s.writers := rfl
@[simp] theorem modCurUnit_hwPend (s : State) (f : Thread → Thread) : (modCurUnit s f).hwPend = s.hwPend := rfl
@[simp] theorem modCurUnit_refusals (s : State) (f : Thread → Thread) : (modCurUnit s f).refusals = s.refusals := rfl
@[simp] theorem modCurUnit_fwCache (s : State) (f : Thread → Thread) : (modCurUnit s f).fwCache = s.fwCache := rfl
@[simp] theorem modCurUnit_sweepCells (s : State) (f : Thread → Thread) : (modCurUnit s f).sweepCells = s.sweepCells := rfl
@[simp] theorem modCurUnit_queuedCells (s : State) (f : Thread → Thread) : (modCurUnit s f).queuedCells = s.queuedCells := rfl
@[simp] theorem modCurUnit_recallPage (s : State) (f : Thread → Thread) : (modCurUnit s f).recallPage = s.recallPage := rfl
@[simp] theorem modCurUnit_collapses (s : State) (f : Thread → Thread) : (modCurUnit s f).collapses = s.collapses := rfl
@[simp] theorem modCurUnit_repHeld (s : State) (f : Thread → Thread) : (modCurUnit s f).repHeld = s.repHeld := rfl
@[simp] theorem modCurUnit_repQueue (s : State) (f : Thread → Thread) : (modCurUnit s f).repQueue = s.repQueue := rfl
@[simp] theorem modCurUnit_setWait (s : State) (f : Thread → Thread) : (modCurUnit s f).setWait = s.setWait := rfl
@[simp] theorem modCurUnit_sfBusy (s : State) (f : Thread → Thread) : (modCurUnit s f).sfBusy = s.sfBusy := rfl
@[simp] theorem modCurUnit_reps (s : State) (f : Thread → Thread) : (modCurUnit s f).reps = s.reps := rfl
@[simp] theorem modCurUnit_arming (s : State) (f : Thread → Thread) : (modCurUnit s f).arming = s.arming := rfl
@[simp] theorem modCurUnit_oldLease (s : State) (f : Thread → Thread) : (modCurUnit s f).oldLease = s.oldLease := rfl
@[simp] theorem modCurUnit_planActive (s : State) (f : Thread → Thread) : (modCurUnit s f).planActive = s.planActive := rfl
@[simp] theorem modCurUnit_planPending (s : State) (f : Thread → Thread) : (modCurUnit s f).planPending = s.planPending := rfl
@[simp] theorem modCurUnit_armed (s : State) (f : Thread → Thread) : (modCurUnit s f).armed = s.armed := rfl
@[simp] theorem modCurUnit_switching (s : State) (f : Thread → Thread) : (modCurUnit s f).switching = s.switching := rfl
@[simp] theorem modCurUnit_rxMoved (s : State) (f : Thread → Thread) : (modCurUnit s f).rxMoved = s.rxMoved := rfl
@[simp] theorem modCurUnit_sess (s : State) (f : Thread → Thread) : (modCurUnit s f).sess = s.sess := rfl
@[simp] theorem modCurUnit_chanQ (s : State) (f : Thread → Thread) : (modCurUnit s f).chanQ = s.chanQ := rfl
@[simp] theorem modCurUnit_spdmSeq (s : State) (f : Thread → Thread) : (modCurUnit s f).spdmSeq = s.spdmSeq := rfl
@[simp] theorem modCurUnit_budgetAt (s : State) (f : Thread → Thread) : (modCurUnit s f).budgetAt = s.budgetAt := rfl
@[simp] theorem modCurUnit_peerCell (s : State) (f : Thread → Thread) : (modCurUnit s f).peerCell = s.peerCell := rfl
@[simp] theorem modCurUnit_departed (s : State) (f : Thread → Thread) : (modCurUnit s f).departed = s.departed := rfl
@[simp] theorem modCurUnit_tags (s : State) (f : Thread → Thread) : (modCurUnit s f).tags = s.tags := rfl
@[simp] theorem modCurUnit_setups (s : State) (f : Thread → Thread) : (modCurUnit s f).setups = s.setups := rfl
@[simp] theorem modCurUnit_removed (s : State) (f : Thread → Thread) : (modCurUnit s f).removed = s.removed := rfl
@[simp] theorem modCurUnit_removedRx (s : State) (f : Thread → Thread) : (modCurUnit s f).removedRx = s.removedRx := rfl
@[simp] theorem modCurUnit_fabAdj (s : State) (f : Thread → Thread) : (modCurUnit s f).fabAdj = s.fabAdj := rfl
@[simp] theorem modCurUnit_txns (s : State) (f : Thread → Thread) : (modCurUnit s f).txns = s.txns := rfl
@[simp] theorem modCurUnit_landTxns (s : State) (f : Thread → Thread) : (modCurUnit s f).landTxns = s.landTxns := rfl
@[simp] theorem modCurUnit_nextTxn (s : State) (f : Thread → Thread) : (modCurUnit s f).nextTxn = s.nextTxn := rfl
@[simp] theorem modCurUnit_ports (s : State) (f : Thread → Thread) : (modCurUnit s f).ports = s.ports := rfl
@[simp] theorem modCurUnit_extents (s : State) (f : Thread → Thread) : (modCurUnit s f).extents = s.extents := rfl
@[simp] theorem modCurUnit_windows (s : State) (f : Thread → Thread) : (modCurUnit s f).windows = s.windows := rfl
@[simp] theorem modCurUnit_hostWait (s : State) (f : Thread → Thread) : (modCurUnit s f).hostWait = s.hostWait := rfl
@[simp] theorem modCurUnit_boot (s : State) (f : Thread → Thread) : (modCurUnit s f).boot = s.boot := rfl
@[simp] theorem modCurUnit_supRunning (s : State) (f : Thread → Thread) : (modCurUnit s f).supRunning = s.supRunning := rfl
@[simp] theorem modCurUnit_supEntry (s : State) (f : Thread → Thread) : (modCurUnit s f).supEntry = s.supEntry := rfl
@[simp] theorem modCurUnit_image (s : State) (f : Thread → Thread) : (modCurUnit s f).image = s.image := rfl
@[simp] theorem modCurUnit_update (s : State) (f : Thread → Thread) : (modCurUnit s f).update = s.update := rfl
@[simp] theorem modCurUnit_supOld (s : State) (f : Thread → Thread) : (modCurUnit s f).supOld = s.supOld := rfl
@[simp] theorem modCurUnit_mrs (s : State) (f : Thread → Thread) : (modCurUnit s f).mrs = s.mrs := rfl
@[simp] theorem modCurUnit_audit (s : State) (f : Thread → Thread) : (modCurUnit s f).audit = s.audit := rfl
@[simp] theorem modCurUnit_auditNext (s : State) (f : Thread → Thread) : (modCurUnit s f).auditNext = s.auditNext := rfl
@[simp] theorem modCurUnit_auditReleased (s : State) (f : Thread → Thread) : (modCurUnit s f).auditReleased = s.auditReleased := rfl
@[simp] theorem modCurUnit_auditExported (s : State) (f : Thread → Thread) : (modCurUnit s f).auditExported = s.auditExported := rfl
@[simp] theorem modCurUnit_auditDropped (s : State) (f : Thread → Thread) : (modCurUnit s f).auditDropped = s.auditDropped := rfl
@[simp] theorem modCurUnit_auditLost (s : State) (f : Thread → Thread) : (modCurUnit s f).auditLost = s.auditLost := rfl
@[simp] theorem modCurUnit_audIn (s : State) (f : Thread → Thread) : (modCurUnit s f).audIn = s.audIn := rfl
@[simp] theorem modCurUnit_audNonce (s : State) (f : Thread → Thread) : (modCurUnit s f).audNonce = s.audNonce := rfl
@[simp] theorem modCurUnit_extData (s : State) (f : Thread → Thread) : (modCurUnit s f).extData = s.extData := rfl
@[simp] theorem modCurUnit_inletHot (s : State) (f : Thread → Thread) : (modCurUnit s f).inletHot = s.inletHot := rfl
@[simp] theorem modCurUnit_linkRuns (s : State) (f : Thread → Thread) : (modCurUnit s f).linkRuns = s.linkRuns := rfl
@[simp] theorem modCurUnit_fences (s : State) (f : Thread → Thread) : (modCurUnit s f).fences = s.fences := rfl
@[simp] theorem modCurUnit_stkQuiet (s : State) (f : Thread → Thread) : (modCurUnit s f).stkQuiet = s.stkQuiet := rfl
@[simp] theorem modCurUnit_recal (s : State) (f : Thread → Thread) : (modCurUnit s f).recal = s.recal := rfl
@[simp] theorem modCurUnit_withheld (s : State) (f : Thread → Thread) : (modCurUnit s f).withheld = s.withheld := rfl
@[simp] theorem modCurUnit_relReg (s : State) (f : Thread → Thread) : (modCurUnit s f).relReg = s.relReg := rfl
@[simp] theorem modCurUnit_queues (s : State) (f : Thread → Thread) : (modCurUnit s f).queues = s.queues := rfl
@[simp] theorem modCurUnit_spans (s : State) (f : Thread → Thread) : (modCurUnit s f).spans = s.spans := rfl
@[simp] theorem modCurUnit_nextSpan (s : State) (f : Thread → Thread) : (modCurUnit s f).nextSpan = s.nextSpan := rfl
@[simp] theorem modCurUnit_rr (s : State) (f : Thread → Thread) : (modCurUnit s f).rr = s.rr := rfl
@[simp] theorem modCurUnit_charge (s : State) (f : Thread → Thread) : (modCurUnit s f).charge = s.charge := rfl
@[simp] theorem modCurUnit_cores (s : State) (f : Thread → Thread) : (modCurUnit s f).cores = s.cores := rfl
@[simp] theorem modCurUnit_mills (s : State) (f : Thread → Thread) : (modCurUnit s f).mills = s.mills := rfl
@[simp] theorem modCurUnit_hbars (s : State) (f : Thread → Thread) : (modCurUnit s f).hbars = s.hbars := rfl
@[simp] theorem modCurUnit_hstand (s : State) (f : Thread → Thread) : (modCurUnit s f).hstand = s.hstand := rfl
@[simp] theorem modCurUnit_hwait (s : State) (f : Thread → Thread) : (modCurUnit s f).hwait = s.hwait := rfl
@[simp] theorem modCurUnit_hsent (s : State) (f : Thread → Thread) : (modCurUnit s f).hsent = s.hsent := rfl
@[simp] theorem modCurUnit_walkCache (s : State) (f : Thread → Thread) : (modCurUnit s f).walkCache = s.walkCache := rfl
@[simp] theorem modCurUnit_walkAsks (s : State) (f : Thread → Thread) : (modCurUnit s f).walkAsks = s.walkAsks := rfl
@[simp] theorem modCurUnit_sweeps (s : State) (f : Thread → Thread) : (modCurUnit s f).sweeps = s.sweeps := rfl
@[simp] theorem modCurUnit_nextSweep (s : State) (f : Thread → Thread) : (modCurUnit s f).nextSweep = s.nextSweep := rfl
@[simp] theorem modCurUnit_publs (s : State) (f : Thread → Thread) : (modCurUnit s f).publs = s.publs := rfl
@[simp] theorem modCurUnit_winFaulted (s : State) (f : Thread → Thread) : (modCurUnit s f).winFaulted = s.winFaulted := rfl
@[simp] theorem modCurUnit_winTime (s : State) (f : Thread → Thread) : (modCurUnit s f).winTime = s.winTime := rfl
@[simp] theorem modCurUnit_ringRetry (s : State) (f : Thread → Thread) : (modCurUnit s f).ringRetry = s.ringRetry := rfl

/-! ## modCore -/

@[simp] theorem modCore_now (s : State) (k : Nat) (f : CoreSt → CoreSt) : (modCore s k f).now = s.now := rfl
@[simp] theorem modCore_resetAt (s : State) (k : Nat) (f : CoreSt → CoreSt) : (modCore s k f).resetAt = s.resetAt := rfl
@[simp] theorem modCore_free (s : State) (k : Nat) (f : CoreSt → CoreSt) : (modCore s k f).free = s.free := rfl
@[simp] theorem modCore_agenda (s : State) (k : Nat) (f : CoreSt → CoreSt) : (modCore s k f).agenda = s.agenda := rfl
@[simp] theorem modCore_pending (s : State) (k : Nat) (f : CoreSt → CoreSt) : (modCore s k f).pending = s.pending := rfl
@[simp] theorem modCore_out (s : State) (k : Nat) (f : CoreSt → CoreSt) : (modCore s k f).out = s.out := rfl
@[simp] theorem modCore_stopped (s : State) (k : Nat) (f : CoreSt → CoreSt) : (modCore s k f).stopped = s.stopped := rfl
@[simp] theorem modCore_cur (s : State) (k : Nat) (f : CoreSt → CoreSt) : (modCore s k f).cur = s.cur := rfl
@[simp] theorem modCore_ctl (s : State) (k : Nat) (f : CoreSt → CoreSt) : (modCore s k f).ctl = s.ctl := rfl
@[simp] theorem modCore_timeLatch (s : State) (k : Nat) (f : CoreSt → CoreSt) : (modCore s k f).timeLatch = s.timeLatch := rfl
@[simp] theorem modCore_errs (s : State) (k : Nat) (f : CoreSt → CoreSt) : (modCore s k f).errs = s.errs := rfl
@[simp] theorem modCore_throttle (s : State) (k : Nat) (f : CoreSt → CoreSt) : (modCore s k f).throttle = s.throttle := rfl
@[simp] theorem modCore_mem (s : State) (k : Nat) (f : CoreSt → CoreSt) : (modCore s k f).mem = s.mem := rfl
@[simp] theorem modCore_poison (s : State) (k : Nat) (f : CoreSt → CoreSt) : (modCore s k f).poison = s.poison := rfl
@[simp] theorem modCore_home (s : State) (k : Nat) (f : CoreSt → CoreSt) : (modCore s k f).home = s.home := rfl
@[simp] theorem modCore_l2 (s : State) (k : Nat) (f : CoreSt → CoreSt) : (modCore s k f).l2 = s.l2 := rfl
@[simp] theorem modCore_wb (s : State) (k : Nat) (f : CoreSt → CoreSt) : (modCore s k f).wb = s.wb := rfl
@[simp] theorem modCore_l1 (s : State) (k : Nat) (f : CoreSt → CoreSt) : (modCore s k f).l1 = s.l1 := rfl
@[simp] theorem modCore_mts (s : State) (k : Nat) (f : CoreSt → CoreSt) : (modCore s k f).mts = s.mts := rfl
@[simp] theorem modCore_filt (s : State) (k : Nat) (f : CoreSt → CoreSt) : (modCore s k f).filt = s.filt := rfl
@[simp] theorem modCore_cohSeq (s : State) (k : Nat) (f : CoreSt → CoreSt) : (modCore s k f).cohSeq = s.cohSeq := rfl
@[simp] theorem modCore_asks (s : State) (k : Nat) (f : CoreSt → CoreSt) : (modCore s k f).asks = s.asks := rfl
@[simp] theorem modCore_writers (s : State) (k : Nat) (f : CoreSt → CoreSt) : (modCore s k f).writers = s.writers := rfl
@[simp] theorem modCore_hwPend (s : State) (k : Nat) (f : CoreSt → CoreSt) : (modCore s k f).hwPend = s.hwPend := rfl
@[simp] theorem modCore_refusals (s : State) (k : Nat) (f : CoreSt → CoreSt) : (modCore s k f).refusals = s.refusals := rfl
@[simp] theorem modCore_fwCache (s : State) (k : Nat) (f : CoreSt → CoreSt) : (modCore s k f).fwCache = s.fwCache := rfl
@[simp] theorem modCore_sweepCells (s : State) (k : Nat) (f : CoreSt → CoreSt) : (modCore s k f).sweepCells = s.sweepCells := rfl
@[simp] theorem modCore_queuedCells (s : State) (k : Nat) (f : CoreSt → CoreSt) : (modCore s k f).queuedCells = s.queuedCells := rfl
@[simp] theorem modCore_recallPage (s : State) (k : Nat) (f : CoreSt → CoreSt) : (modCore s k f).recallPage = s.recallPage := rfl
@[simp] theorem modCore_collapses (s : State) (k : Nat) (f : CoreSt → CoreSt) : (modCore s k f).collapses = s.collapses := rfl
@[simp] theorem modCore_repHeld (s : State) (k : Nat) (f : CoreSt → CoreSt) : (modCore s k f).repHeld = s.repHeld := rfl
@[simp] theorem modCore_repQueue (s : State) (k : Nat) (f : CoreSt → CoreSt) : (modCore s k f).repQueue = s.repQueue := rfl
@[simp] theorem modCore_setWait (s : State) (k : Nat) (f : CoreSt → CoreSt) : (modCore s k f).setWait = s.setWait := rfl
@[simp] theorem modCore_sfBusy (s : State) (k : Nat) (f : CoreSt → CoreSt) : (modCore s k f).sfBusy = s.sfBusy := rfl
@[simp] theorem modCore_reps (s : State) (k : Nat) (f : CoreSt → CoreSt) : (modCore s k f).reps = s.reps := rfl
@[simp] theorem modCore_arming (s : State) (k : Nat) (f : CoreSt → CoreSt) : (modCore s k f).arming = s.arming := rfl
@[simp] theorem modCore_oldLease (s : State) (k : Nat) (f : CoreSt → CoreSt) : (modCore s k f).oldLease = s.oldLease := rfl
@[simp] theorem modCore_planActive (s : State) (k : Nat) (f : CoreSt → CoreSt) : (modCore s k f).planActive = s.planActive := rfl
@[simp] theorem modCore_planPending (s : State) (k : Nat) (f : CoreSt → CoreSt) : (modCore s k f).planPending = s.planPending := rfl
@[simp] theorem modCore_armed (s : State) (k : Nat) (f : CoreSt → CoreSt) : (modCore s k f).armed = s.armed := rfl
@[simp] theorem modCore_switching (s : State) (k : Nat) (f : CoreSt → CoreSt) : (modCore s k f).switching = s.switching := rfl
@[simp] theorem modCore_rxMoved (s : State) (k : Nat) (f : CoreSt → CoreSt) : (modCore s k f).rxMoved = s.rxMoved := rfl
@[simp] theorem modCore_sess (s : State) (k : Nat) (f : CoreSt → CoreSt) : (modCore s k f).sess = s.sess := rfl
@[simp] theorem modCore_chanQ (s : State) (k : Nat) (f : CoreSt → CoreSt) : (modCore s k f).chanQ = s.chanQ := rfl
@[simp] theorem modCore_spdmSeq (s : State) (k : Nat) (f : CoreSt → CoreSt) : (modCore s k f).spdmSeq = s.spdmSeq := rfl
@[simp] theorem modCore_budgetAt (s : State) (k : Nat) (f : CoreSt → CoreSt) : (modCore s k f).budgetAt = s.budgetAt := rfl
@[simp] theorem modCore_peerCell (s : State) (k : Nat) (f : CoreSt → CoreSt) : (modCore s k f).peerCell = s.peerCell := rfl
@[simp] theorem modCore_departed (s : State) (k : Nat) (f : CoreSt → CoreSt) : (modCore s k f).departed = s.departed := rfl
@[simp] theorem modCore_tags (s : State) (k : Nat) (f : CoreSt → CoreSt) : (modCore s k f).tags = s.tags := rfl
@[simp] theorem modCore_setups (s : State) (k : Nat) (f : CoreSt → CoreSt) : (modCore s k f).setups = s.setups := rfl
@[simp] theorem modCore_removed (s : State) (k : Nat) (f : CoreSt → CoreSt) : (modCore s k f).removed = s.removed := rfl
@[simp] theorem modCore_removedRx (s : State) (k : Nat) (f : CoreSt → CoreSt) : (modCore s k f).removedRx = s.removedRx := rfl
@[simp] theorem modCore_fabAdj (s : State) (k : Nat) (f : CoreSt → CoreSt) : (modCore s k f).fabAdj = s.fabAdj := rfl
@[simp] theorem modCore_txns (s : State) (k : Nat) (f : CoreSt → CoreSt) : (modCore s k f).txns = s.txns := rfl
@[simp] theorem modCore_landTxns (s : State) (k : Nat) (f : CoreSt → CoreSt) : (modCore s k f).landTxns = s.landTxns := rfl
@[simp] theorem modCore_nextTxn (s : State) (k : Nat) (f : CoreSt → CoreSt) : (modCore s k f).nextTxn = s.nextTxn := rfl
@[simp] theorem modCore_ports (s : State) (k : Nat) (f : CoreSt → CoreSt) : (modCore s k f).ports = s.ports := rfl
@[simp] theorem modCore_extents (s : State) (k : Nat) (f : CoreSt → CoreSt) : (modCore s k f).extents = s.extents := rfl
@[simp] theorem modCore_windows (s : State) (k : Nat) (f : CoreSt → CoreSt) : (modCore s k f).windows = s.windows := rfl
@[simp] theorem modCore_hostWait (s : State) (k : Nat) (f : CoreSt → CoreSt) : (modCore s k f).hostWait = s.hostWait := rfl
@[simp] theorem modCore_boot (s : State) (k : Nat) (f : CoreSt → CoreSt) : (modCore s k f).boot = s.boot := rfl
@[simp] theorem modCore_supRunning (s : State) (k : Nat) (f : CoreSt → CoreSt) : (modCore s k f).supRunning = s.supRunning := rfl
@[simp] theorem modCore_supEntry (s : State) (k : Nat) (f : CoreSt → CoreSt) : (modCore s k f).supEntry = s.supEntry := rfl
@[simp] theorem modCore_image (s : State) (k : Nat) (f : CoreSt → CoreSt) : (modCore s k f).image = s.image := rfl
@[simp] theorem modCore_update (s : State) (k : Nat) (f : CoreSt → CoreSt) : (modCore s k f).update = s.update := rfl
@[simp] theorem modCore_supOld (s : State) (k : Nat) (f : CoreSt → CoreSt) : (modCore s k f).supOld = s.supOld := rfl
@[simp] theorem modCore_mrs (s : State) (k : Nat) (f : CoreSt → CoreSt) : (modCore s k f).mrs = s.mrs := rfl
@[simp] theorem modCore_audit (s : State) (k : Nat) (f : CoreSt → CoreSt) : (modCore s k f).audit = s.audit := rfl
@[simp] theorem modCore_auditNext (s : State) (k : Nat) (f : CoreSt → CoreSt) : (modCore s k f).auditNext = s.auditNext := rfl
@[simp] theorem modCore_auditReleased (s : State) (k : Nat) (f : CoreSt → CoreSt) : (modCore s k f).auditReleased = s.auditReleased := rfl
@[simp] theorem modCore_auditExported (s : State) (k : Nat) (f : CoreSt → CoreSt) : (modCore s k f).auditExported = s.auditExported := rfl
@[simp] theorem modCore_auditDropped (s : State) (k : Nat) (f : CoreSt → CoreSt) : (modCore s k f).auditDropped = s.auditDropped := rfl
@[simp] theorem modCore_auditLost (s : State) (k : Nat) (f : CoreSt → CoreSt) : (modCore s k f).auditLost = s.auditLost := rfl
@[simp] theorem modCore_audIn (s : State) (k : Nat) (f : CoreSt → CoreSt) : (modCore s k f).audIn = s.audIn := rfl
@[simp] theorem modCore_audNonce (s : State) (k : Nat) (f : CoreSt → CoreSt) : (modCore s k f).audNonce = s.audNonce := rfl
@[simp] theorem modCore_extData (s : State) (k : Nat) (f : CoreSt → CoreSt) : (modCore s k f).extData = s.extData := rfl
@[simp] theorem modCore_inletHot (s : State) (k : Nat) (f : CoreSt → CoreSt) : (modCore s k f).inletHot = s.inletHot := rfl
@[simp] theorem modCore_linkRuns (s : State) (k : Nat) (f : CoreSt → CoreSt) : (modCore s k f).linkRuns = s.linkRuns := rfl
@[simp] theorem modCore_fences (s : State) (k : Nat) (f : CoreSt → CoreSt) : (modCore s k f).fences = s.fences := rfl
@[simp] theorem modCore_stkQuiet (s : State) (k : Nat) (f : CoreSt → CoreSt) : (modCore s k f).stkQuiet = s.stkQuiet := rfl
@[simp] theorem modCore_recal (s : State) (k : Nat) (f : CoreSt → CoreSt) : (modCore s k f).recal = s.recal := rfl
@[simp] theorem modCore_withheld (s : State) (k : Nat) (f : CoreSt → CoreSt) : (modCore s k f).withheld = s.withheld := rfl
@[simp] theorem modCore_relReg (s : State) (k : Nat) (f : CoreSt → CoreSt) : (modCore s k f).relReg = s.relReg := rfl
@[simp] theorem modCore_queues (s : State) (k : Nat) (f : CoreSt → CoreSt) : (modCore s k f).queues = s.queues := rfl
@[simp] theorem modCore_spans (s : State) (k : Nat) (f : CoreSt → CoreSt) : (modCore s k f).spans = s.spans := rfl
@[simp] theorem modCore_nextSpan (s : State) (k : Nat) (f : CoreSt → CoreSt) : (modCore s k f).nextSpan = s.nextSpan := rfl
@[simp] theorem modCore_rr (s : State) (k : Nat) (f : CoreSt → CoreSt) : (modCore s k f).rr = s.rr := rfl
@[simp] theorem modCore_charge (s : State) (k : Nat) (f : CoreSt → CoreSt) : (modCore s k f).charge = s.charge := rfl
@[simp] theorem modCore_ctxs (s : State) (k : Nat) (f : CoreSt → CoreSt) : (modCore s k f).ctxs = s.ctxs := rfl
@[simp] theorem modCore_mills (s : State) (k : Nat) (f : CoreSt → CoreSt) : (modCore s k f).mills = s.mills := rfl
@[simp] theorem modCore_hbars (s : State) (k : Nat) (f : CoreSt → CoreSt) : (modCore s k f).hbars = s.hbars := rfl
@[simp] theorem modCore_hstand (s : State) (k : Nat) (f : CoreSt → CoreSt) : (modCore s k f).hstand = s.hstand := rfl
@[simp] theorem modCore_hwait (s : State) (k : Nat) (f : CoreSt → CoreSt) : (modCore s k f).hwait = s.hwait := rfl
@[simp] theorem modCore_hsent (s : State) (k : Nat) (f : CoreSt → CoreSt) : (modCore s k f).hsent = s.hsent := rfl
@[simp] theorem modCore_walkCache (s : State) (k : Nat) (f : CoreSt → CoreSt) : (modCore s k f).walkCache = s.walkCache := rfl
@[simp] theorem modCore_walkAsks (s : State) (k : Nat) (f : CoreSt → CoreSt) : (modCore s k f).walkAsks = s.walkAsks := rfl
@[simp] theorem modCore_sweeps (s : State) (k : Nat) (f : CoreSt → CoreSt) : (modCore s k f).sweeps = s.sweeps := rfl
@[simp] theorem modCore_nextSweep (s : State) (k : Nat) (f : CoreSt → CoreSt) : (modCore s k f).nextSweep = s.nextSweep := rfl
@[simp] theorem modCore_publs (s : State) (k : Nat) (f : CoreSt → CoreSt) : (modCore s k f).publs = s.publs := rfl
@[simp] theorem modCore_winFaulted (s : State) (k : Nat) (f : CoreSt → CoreSt) : (modCore s k f).winFaulted = s.winFaulted := rfl
@[simp] theorem modCore_winTime (s : State) (k : Nat) (f : CoreSt → CoreSt) : (modCore s k f).winTime = s.winTime := rfl
@[simp] theorem modCore_ringRetry (s : State) (k : Nat) (f : CoreSt → CoreSt) : (modCore s k f).ringRetry = s.ringRetry := rfl

/-! ## post -/

@[simp] theorem post_now (s : State) (d : Nat) (e : Ev) : (post s d e).now = s.now := rfl
@[simp] theorem post_resetAt (s : State) (d : Nat) (e : Ev) : (post s d e).resetAt = s.resetAt := rfl
@[simp] theorem post_free (s : State) (d : Nat) (e : Ev) : (post s d e).free = s.free := rfl
@[simp] theorem post_agenda (s : State) (d : Nat) (e : Ev) : (post s d e).agenda = s.agenda := rfl
@[simp] theorem post_out (s : State) (d : Nat) (e : Ev) : (post s d e).out = s.out := rfl
@[simp] theorem post_stopped (s : State) (d : Nat) (e : Ev) : (post s d e).stopped = s.stopped := rfl
@[simp] theorem post_cur (s : State) (d : Nat) (e : Ev) : (post s d e).cur = s.cur := rfl
@[simp] theorem post_ctl (s : State) (d : Nat) (e : Ev) : (post s d e).ctl = s.ctl := rfl
@[simp] theorem post_timeLatch (s : State) (d : Nat) (e : Ev) : (post s d e).timeLatch = s.timeLatch := rfl
@[simp] theorem post_errs (s : State) (d : Nat) (e : Ev) : (post s d e).errs = s.errs := rfl
@[simp] theorem post_throttle (s : State) (d : Nat) (e : Ev) : (post s d e).throttle = s.throttle := rfl
@[simp] theorem post_mem (s : State) (d : Nat) (e : Ev) : (post s d e).mem = s.mem := rfl
@[simp] theorem post_poison (s : State) (d : Nat) (e : Ev) : (post s d e).poison = s.poison := rfl
@[simp] theorem post_home (s : State) (d : Nat) (e : Ev) : (post s d e).home = s.home := rfl
@[simp] theorem post_l2 (s : State) (d : Nat) (e : Ev) : (post s d e).l2 = s.l2 := rfl
@[simp] theorem post_wb (s : State) (d : Nat) (e : Ev) : (post s d e).wb = s.wb := rfl
@[simp] theorem post_l1 (s : State) (d : Nat) (e : Ev) : (post s d e).l1 = s.l1 := rfl
@[simp] theorem post_mts (s : State) (d : Nat) (e : Ev) : (post s d e).mts = s.mts := rfl
@[simp] theorem post_filt (s : State) (d : Nat) (e : Ev) : (post s d e).filt = s.filt := rfl
@[simp] theorem post_cohSeq (s : State) (d : Nat) (e : Ev) : (post s d e).cohSeq = s.cohSeq := rfl
@[simp] theorem post_asks (s : State) (d : Nat) (e : Ev) : (post s d e).asks = s.asks := rfl
@[simp] theorem post_writers (s : State) (d : Nat) (e : Ev) : (post s d e).writers = s.writers := rfl
@[simp] theorem post_hwPend (s : State) (d : Nat) (e : Ev) : (post s d e).hwPend = s.hwPend := rfl
@[simp] theorem post_refusals (s : State) (d : Nat) (e : Ev) : (post s d e).refusals = s.refusals := rfl
@[simp] theorem post_fwCache (s : State) (d : Nat) (e : Ev) : (post s d e).fwCache = s.fwCache := rfl
@[simp] theorem post_sweepCells (s : State) (d : Nat) (e : Ev) : (post s d e).sweepCells = s.sweepCells := rfl
@[simp] theorem post_queuedCells (s : State) (d : Nat) (e : Ev) : (post s d e).queuedCells = s.queuedCells := rfl
@[simp] theorem post_recallPage (s : State) (d : Nat) (e : Ev) : (post s d e).recallPage = s.recallPage := rfl
@[simp] theorem post_collapses (s : State) (d : Nat) (e : Ev) : (post s d e).collapses = s.collapses := rfl
@[simp] theorem post_repHeld (s : State) (d : Nat) (e : Ev) : (post s d e).repHeld = s.repHeld := rfl
@[simp] theorem post_repQueue (s : State) (d : Nat) (e : Ev) : (post s d e).repQueue = s.repQueue := rfl
@[simp] theorem post_setWait (s : State) (d : Nat) (e : Ev) : (post s d e).setWait = s.setWait := rfl
@[simp] theorem post_sfBusy (s : State) (d : Nat) (e : Ev) : (post s d e).sfBusy = s.sfBusy := rfl
@[simp] theorem post_reps (s : State) (d : Nat) (e : Ev) : (post s d e).reps = s.reps := rfl
@[simp] theorem post_arming (s : State) (d : Nat) (e : Ev) : (post s d e).arming = s.arming := rfl
@[simp] theorem post_oldLease (s : State) (d : Nat) (e : Ev) : (post s d e).oldLease = s.oldLease := rfl
@[simp] theorem post_planActive (s : State) (d : Nat) (e : Ev) : (post s d e).planActive = s.planActive := rfl
@[simp] theorem post_planPending (s : State) (d : Nat) (e : Ev) : (post s d e).planPending = s.planPending := rfl
@[simp] theorem post_armed (s : State) (d : Nat) (e : Ev) : (post s d e).armed = s.armed := rfl
@[simp] theorem post_switching (s : State) (d : Nat) (e : Ev) : (post s d e).switching = s.switching := rfl
@[simp] theorem post_rxMoved (s : State) (d : Nat) (e : Ev) : (post s d e).rxMoved = s.rxMoved := rfl
@[simp] theorem post_sess (s : State) (d : Nat) (e : Ev) : (post s d e).sess = s.sess := rfl
@[simp] theorem post_chanQ (s : State) (d : Nat) (e : Ev) : (post s d e).chanQ = s.chanQ := rfl
@[simp] theorem post_spdmSeq (s : State) (d : Nat) (e : Ev) : (post s d e).spdmSeq = s.spdmSeq := rfl
@[simp] theorem post_budgetAt (s : State) (d : Nat) (e : Ev) : (post s d e).budgetAt = s.budgetAt := rfl
@[simp] theorem post_peerCell (s : State) (d : Nat) (e : Ev) : (post s d e).peerCell = s.peerCell := rfl
@[simp] theorem post_departed (s : State) (d : Nat) (e : Ev) : (post s d e).departed = s.departed := rfl
@[simp] theorem post_tags (s : State) (d : Nat) (e : Ev) : (post s d e).tags = s.tags := rfl
@[simp] theorem post_setups (s : State) (d : Nat) (e : Ev) : (post s d e).setups = s.setups := rfl
@[simp] theorem post_removed (s : State) (d : Nat) (e : Ev) : (post s d e).removed = s.removed := rfl
@[simp] theorem post_removedRx (s : State) (d : Nat) (e : Ev) : (post s d e).removedRx = s.removedRx := rfl
@[simp] theorem post_fabAdj (s : State) (d : Nat) (e : Ev) : (post s d e).fabAdj = s.fabAdj := rfl
@[simp] theorem post_txns (s : State) (d : Nat) (e : Ev) : (post s d e).txns = s.txns := rfl
@[simp] theorem post_landTxns (s : State) (d : Nat) (e : Ev) : (post s d e).landTxns = s.landTxns := rfl
@[simp] theorem post_nextTxn (s : State) (d : Nat) (e : Ev) : (post s d e).nextTxn = s.nextTxn := rfl
@[simp] theorem post_ports (s : State) (d : Nat) (e : Ev) : (post s d e).ports = s.ports := rfl
@[simp] theorem post_extents (s : State) (d : Nat) (e : Ev) : (post s d e).extents = s.extents := rfl
@[simp] theorem post_windows (s : State) (d : Nat) (e : Ev) : (post s d e).windows = s.windows := rfl
@[simp] theorem post_hostWait (s : State) (d : Nat) (e : Ev) : (post s d e).hostWait = s.hostWait := rfl
@[simp] theorem post_boot (s : State) (d : Nat) (e : Ev) : (post s d e).boot = s.boot := rfl
@[simp] theorem post_supRunning (s : State) (d : Nat) (e : Ev) : (post s d e).supRunning = s.supRunning := rfl
@[simp] theorem post_supEntry (s : State) (d : Nat) (e : Ev) : (post s d e).supEntry = s.supEntry := rfl
@[simp] theorem post_image (s : State) (d : Nat) (e : Ev) : (post s d e).image = s.image := rfl
@[simp] theorem post_update (s : State) (d : Nat) (e : Ev) : (post s d e).update = s.update := rfl
@[simp] theorem post_supOld (s : State) (d : Nat) (e : Ev) : (post s d e).supOld = s.supOld := rfl
@[simp] theorem post_mrs (s : State) (d : Nat) (e : Ev) : (post s d e).mrs = s.mrs := rfl
@[simp] theorem post_audit (s : State) (d : Nat) (e : Ev) : (post s d e).audit = s.audit := rfl
@[simp] theorem post_auditNext (s : State) (d : Nat) (e : Ev) : (post s d e).auditNext = s.auditNext := rfl
@[simp] theorem post_auditReleased (s : State) (d : Nat) (e : Ev) : (post s d e).auditReleased = s.auditReleased := rfl
@[simp] theorem post_auditExported (s : State) (d : Nat) (e : Ev) : (post s d e).auditExported = s.auditExported := rfl
@[simp] theorem post_auditDropped (s : State) (d : Nat) (e : Ev) : (post s d e).auditDropped = s.auditDropped := rfl
@[simp] theorem post_auditLost (s : State) (d : Nat) (e : Ev) : (post s d e).auditLost = s.auditLost := rfl
@[simp] theorem post_audIn (s : State) (d : Nat) (e : Ev) : (post s d e).audIn = s.audIn := rfl
@[simp] theorem post_audNonce (s : State) (d : Nat) (e : Ev) : (post s d e).audNonce = s.audNonce := rfl
@[simp] theorem post_extData (s : State) (d : Nat) (e : Ev) : (post s d e).extData = s.extData := rfl
@[simp] theorem post_inletHot (s : State) (d : Nat) (e : Ev) : (post s d e).inletHot = s.inletHot := rfl
@[simp] theorem post_linkRuns (s : State) (d : Nat) (e : Ev) : (post s d e).linkRuns = s.linkRuns := rfl
@[simp] theorem post_fences (s : State) (d : Nat) (e : Ev) : (post s d e).fences = s.fences := rfl
@[simp] theorem post_stkQuiet (s : State) (d : Nat) (e : Ev) : (post s d e).stkQuiet = s.stkQuiet := rfl
@[simp] theorem post_recal (s : State) (d : Nat) (e : Ev) : (post s d e).recal = s.recal := rfl
@[simp] theorem post_withheld (s : State) (d : Nat) (e : Ev) : (post s d e).withheld = s.withheld := rfl
@[simp] theorem post_relReg (s : State) (d : Nat) (e : Ev) : (post s d e).relReg = s.relReg := rfl
@[simp] theorem post_queues (s : State) (d : Nat) (e : Ev) : (post s d e).queues = s.queues := rfl
@[simp] theorem post_spans (s : State) (d : Nat) (e : Ev) : (post s d e).spans = s.spans := rfl
@[simp] theorem post_nextSpan (s : State) (d : Nat) (e : Ev) : (post s d e).nextSpan = s.nextSpan := rfl
@[simp] theorem post_rr (s : State) (d : Nat) (e : Ev) : (post s d e).rr = s.rr := rfl
@[simp] theorem post_charge (s : State) (d : Nat) (e : Ev) : (post s d e).charge = s.charge := rfl
@[simp] theorem post_cores (s : State) (d : Nat) (e : Ev) : (post s d e).cores = s.cores := rfl
@[simp] theorem post_ctxs (s : State) (d : Nat) (e : Ev) : (post s d e).ctxs = s.ctxs := rfl
@[simp] theorem post_mills (s : State) (d : Nat) (e : Ev) : (post s d e).mills = s.mills := rfl
@[simp] theorem post_hbars (s : State) (d : Nat) (e : Ev) : (post s d e).hbars = s.hbars := rfl
@[simp] theorem post_hstand (s : State) (d : Nat) (e : Ev) : (post s d e).hstand = s.hstand := rfl
@[simp] theorem post_hwait (s : State) (d : Nat) (e : Ev) : (post s d e).hwait = s.hwait := rfl
@[simp] theorem post_hsent (s : State) (d : Nat) (e : Ev) : (post s d e).hsent = s.hsent := rfl
@[simp] theorem post_walkCache (s : State) (d : Nat) (e : Ev) : (post s d e).walkCache = s.walkCache := rfl
@[simp] theorem post_walkAsks (s : State) (d : Nat) (e : Ev) : (post s d e).walkAsks = s.walkAsks := rfl
@[simp] theorem post_sweeps (s : State) (d : Nat) (e : Ev) : (post s d e).sweeps = s.sweeps := rfl
@[simp] theorem post_nextSweep (s : State) (d : Nat) (e : Ev) : (post s d e).nextSweep = s.nextSweep := rfl
@[simp] theorem post_publs (s : State) (d : Nat) (e : Ev) : (post s d e).publs = s.publs := rfl
@[simp] theorem post_winFaulted (s : State) (d : Nat) (e : Ev) : (post s d e).winFaulted = s.winFaulted := rfl
@[simp] theorem post_winTime (s : State) (d : Nat) (e : Ev) : (post s d e).winTime = s.winTime := rfl
@[simp] theorem post_ringRetry (s : State) (d : Nat) (e : Ev) : (post s d e).ringRetry = s.ringRetry := rfl

/-! ## emit -/

@[simp] theorem emit_now (s : State) (o : Out) : (emit s o).now = s.now := rfl
@[simp] theorem emit_resetAt (s : State) (o : Out) : (emit s o).resetAt = s.resetAt := rfl
@[simp] theorem emit_free (s : State) (o : Out) : (emit s o).free = s.free := rfl
@[simp] theorem emit_agenda (s : State) (o : Out) : (emit s o).agenda = s.agenda := rfl
@[simp] theorem emit_pending (s : State) (o : Out) : (emit s o).pending = s.pending := rfl
@[simp] theorem emit_stopped (s : State) (o : Out) : (emit s o).stopped = s.stopped := rfl
@[simp] theorem emit_cur (s : State) (o : Out) : (emit s o).cur = s.cur := rfl
@[simp] theorem emit_ctl (s : State) (o : Out) : (emit s o).ctl = s.ctl := rfl
@[simp] theorem emit_timeLatch (s : State) (o : Out) : (emit s o).timeLatch = s.timeLatch := rfl
@[simp] theorem emit_errs (s : State) (o : Out) : (emit s o).errs = s.errs := rfl
@[simp] theorem emit_throttle (s : State) (o : Out) : (emit s o).throttle = s.throttle := rfl
@[simp] theorem emit_mem (s : State) (o : Out) : (emit s o).mem = s.mem := rfl
@[simp] theorem emit_poison (s : State) (o : Out) : (emit s o).poison = s.poison := rfl
@[simp] theorem emit_home (s : State) (o : Out) : (emit s o).home = s.home := rfl
@[simp] theorem emit_l2 (s : State) (o : Out) : (emit s o).l2 = s.l2 := rfl
@[simp] theorem emit_wb (s : State) (o : Out) : (emit s o).wb = s.wb := rfl
@[simp] theorem emit_l1 (s : State) (o : Out) : (emit s o).l1 = s.l1 := rfl
@[simp] theorem emit_mts (s : State) (o : Out) : (emit s o).mts = s.mts := rfl
@[simp] theorem emit_filt (s : State) (o : Out) : (emit s o).filt = s.filt := rfl
@[simp] theorem emit_cohSeq (s : State) (o : Out) : (emit s o).cohSeq = s.cohSeq := rfl
@[simp] theorem emit_asks (s : State) (o : Out) : (emit s o).asks = s.asks := rfl
@[simp] theorem emit_writers (s : State) (o : Out) : (emit s o).writers = s.writers := rfl
@[simp] theorem emit_hwPend (s : State) (o : Out) : (emit s o).hwPend = s.hwPend := rfl
@[simp] theorem emit_refusals (s : State) (o : Out) : (emit s o).refusals = s.refusals := rfl
@[simp] theorem emit_fwCache (s : State) (o : Out) : (emit s o).fwCache = s.fwCache := rfl
@[simp] theorem emit_sweepCells (s : State) (o : Out) : (emit s o).sweepCells = s.sweepCells := rfl
@[simp] theorem emit_queuedCells (s : State) (o : Out) : (emit s o).queuedCells = s.queuedCells := rfl
@[simp] theorem emit_recallPage (s : State) (o : Out) : (emit s o).recallPage = s.recallPage := rfl
@[simp] theorem emit_collapses (s : State) (o : Out) : (emit s o).collapses = s.collapses := rfl
@[simp] theorem emit_repHeld (s : State) (o : Out) : (emit s o).repHeld = s.repHeld := rfl
@[simp] theorem emit_repQueue (s : State) (o : Out) : (emit s o).repQueue = s.repQueue := rfl
@[simp] theorem emit_setWait (s : State) (o : Out) : (emit s o).setWait = s.setWait := rfl
@[simp] theorem emit_sfBusy (s : State) (o : Out) : (emit s o).sfBusy = s.sfBusy := rfl
@[simp] theorem emit_reps (s : State) (o : Out) : (emit s o).reps = s.reps := rfl
@[simp] theorem emit_arming (s : State) (o : Out) : (emit s o).arming = s.arming := rfl
@[simp] theorem emit_oldLease (s : State) (o : Out) : (emit s o).oldLease = s.oldLease := rfl
@[simp] theorem emit_planActive (s : State) (o : Out) : (emit s o).planActive = s.planActive := rfl
@[simp] theorem emit_planPending (s : State) (o : Out) : (emit s o).planPending = s.planPending := rfl
@[simp] theorem emit_armed (s : State) (o : Out) : (emit s o).armed = s.armed := rfl
@[simp] theorem emit_switching (s : State) (o : Out) : (emit s o).switching = s.switching := rfl
@[simp] theorem emit_rxMoved (s : State) (o : Out) : (emit s o).rxMoved = s.rxMoved := rfl
@[simp] theorem emit_sess (s : State) (o : Out) : (emit s o).sess = s.sess := rfl
@[simp] theorem emit_chanQ (s : State) (o : Out) : (emit s o).chanQ = s.chanQ := rfl
@[simp] theorem emit_spdmSeq (s : State) (o : Out) : (emit s o).spdmSeq = s.spdmSeq := rfl
@[simp] theorem emit_budgetAt (s : State) (o : Out) : (emit s o).budgetAt = s.budgetAt := rfl
@[simp] theorem emit_peerCell (s : State) (o : Out) : (emit s o).peerCell = s.peerCell := rfl
@[simp] theorem emit_departed (s : State) (o : Out) : (emit s o).departed = s.departed := rfl
@[simp] theorem emit_tags (s : State) (o : Out) : (emit s o).tags = s.tags := rfl
@[simp] theorem emit_setups (s : State) (o : Out) : (emit s o).setups = s.setups := rfl
@[simp] theorem emit_removed (s : State) (o : Out) : (emit s o).removed = s.removed := rfl
@[simp] theorem emit_removedRx (s : State) (o : Out) : (emit s o).removedRx = s.removedRx := rfl
@[simp] theorem emit_fabAdj (s : State) (o : Out) : (emit s o).fabAdj = s.fabAdj := rfl
@[simp] theorem emit_txns (s : State) (o : Out) : (emit s o).txns = s.txns := rfl
@[simp] theorem emit_landTxns (s : State) (o : Out) : (emit s o).landTxns = s.landTxns := rfl
@[simp] theorem emit_nextTxn (s : State) (o : Out) : (emit s o).nextTxn = s.nextTxn := rfl
@[simp] theorem emit_ports (s : State) (o : Out) : (emit s o).ports = s.ports := rfl
@[simp] theorem emit_extents (s : State) (o : Out) : (emit s o).extents = s.extents := rfl
@[simp] theorem emit_windows (s : State) (o : Out) : (emit s o).windows = s.windows := rfl
@[simp] theorem emit_hostWait (s : State) (o : Out) : (emit s o).hostWait = s.hostWait := rfl
@[simp] theorem emit_boot (s : State) (o : Out) : (emit s o).boot = s.boot := rfl
@[simp] theorem emit_supRunning (s : State) (o : Out) : (emit s o).supRunning = s.supRunning := rfl
@[simp] theorem emit_supEntry (s : State) (o : Out) : (emit s o).supEntry = s.supEntry := rfl
@[simp] theorem emit_image (s : State) (o : Out) : (emit s o).image = s.image := rfl
@[simp] theorem emit_update (s : State) (o : Out) : (emit s o).update = s.update := rfl
@[simp] theorem emit_supOld (s : State) (o : Out) : (emit s o).supOld = s.supOld := rfl
@[simp] theorem emit_mrs (s : State) (o : Out) : (emit s o).mrs = s.mrs := rfl
@[simp] theorem emit_audit (s : State) (o : Out) : (emit s o).audit = s.audit := rfl
@[simp] theorem emit_auditNext (s : State) (o : Out) : (emit s o).auditNext = s.auditNext := rfl
@[simp] theorem emit_auditReleased (s : State) (o : Out) : (emit s o).auditReleased = s.auditReleased := rfl
@[simp] theorem emit_auditExported (s : State) (o : Out) : (emit s o).auditExported = s.auditExported := rfl
@[simp] theorem emit_auditDropped (s : State) (o : Out) : (emit s o).auditDropped = s.auditDropped := rfl
@[simp] theorem emit_auditLost (s : State) (o : Out) : (emit s o).auditLost = s.auditLost := rfl
@[simp] theorem emit_audIn (s : State) (o : Out) : (emit s o).audIn = s.audIn := rfl
@[simp] theorem emit_audNonce (s : State) (o : Out) : (emit s o).audNonce = s.audNonce := rfl
@[simp] theorem emit_extData (s : State) (o : Out) : (emit s o).extData = s.extData := rfl
@[simp] theorem emit_inletHot (s : State) (o : Out) : (emit s o).inletHot = s.inletHot := rfl
@[simp] theorem emit_linkRuns (s : State) (o : Out) : (emit s o).linkRuns = s.linkRuns := rfl
@[simp] theorem emit_fences (s : State) (o : Out) : (emit s o).fences = s.fences := rfl
@[simp] theorem emit_stkQuiet (s : State) (o : Out) : (emit s o).stkQuiet = s.stkQuiet := rfl
@[simp] theorem emit_recal (s : State) (o : Out) : (emit s o).recal = s.recal := rfl
@[simp] theorem emit_withheld (s : State) (o : Out) : (emit s o).withheld = s.withheld := rfl
@[simp] theorem emit_relReg (s : State) (o : Out) : (emit s o).relReg = s.relReg := rfl
@[simp] theorem emit_queues (s : State) (o : Out) : (emit s o).queues = s.queues := rfl
@[simp] theorem emit_spans (s : State) (o : Out) : (emit s o).spans = s.spans := rfl
@[simp] theorem emit_nextSpan (s : State) (o : Out) : (emit s o).nextSpan = s.nextSpan := rfl
@[simp] theorem emit_rr (s : State) (o : Out) : (emit s o).rr = s.rr := rfl
@[simp] theorem emit_charge (s : State) (o : Out) : (emit s o).charge = s.charge := rfl
@[simp] theorem emit_cores (s : State) (o : Out) : (emit s o).cores = s.cores := rfl
@[simp] theorem emit_ctxs (s : State) (o : Out) : (emit s o).ctxs = s.ctxs := rfl
@[simp] theorem emit_mills (s : State) (o : Out) : (emit s o).mills = s.mills := rfl
@[simp] theorem emit_hbars (s : State) (o : Out) : (emit s o).hbars = s.hbars := rfl
@[simp] theorem emit_hstand (s : State) (o : Out) : (emit s o).hstand = s.hstand := rfl
@[simp] theorem emit_hwait (s : State) (o : Out) : (emit s o).hwait = s.hwait := rfl
@[simp] theorem emit_hsent (s : State) (o : Out) : (emit s o).hsent = s.hsent := rfl
@[simp] theorem emit_walkCache (s : State) (o : Out) : (emit s o).walkCache = s.walkCache := rfl
@[simp] theorem emit_walkAsks (s : State) (o : Out) : (emit s o).walkAsks = s.walkAsks := rfl
@[simp] theorem emit_sweeps (s : State) (o : Out) : (emit s o).sweeps = s.sweeps := rfl
@[simp] theorem emit_nextSweep (s : State) (o : Out) : (emit s o).nextSweep = s.nextSweep := rfl
@[simp] theorem emit_publs (s : State) (o : Out) : (emit s o).publs = s.publs := rfl
@[simp] theorem emit_winFaulted (s : State) (o : Out) : (emit s o).winFaulted = s.winFaulted := rfl
@[simp] theorem emit_winTime (s : State) (o : Out) : (emit s o).winTime = s.winTime := rfl
@[simp] theorem emit_ringRetry (s : State) (o : Out) : (emit s o).ringRetry = s.ringRetry := rfl

/-! ## dropCopies -/

@[simp] theorem dropCopies_now (s : State) (line : Nat) : (dropCopies s line).now = s.now := rfl
@[simp] theorem dropCopies_resetAt (s : State) (line : Nat) : (dropCopies s line).resetAt = s.resetAt := rfl
@[simp] theorem dropCopies_free (s : State) (line : Nat) : (dropCopies s line).free = s.free := rfl
@[simp] theorem dropCopies_agenda (s : State) (line : Nat) : (dropCopies s line).agenda = s.agenda := rfl
@[simp] theorem dropCopies_pending (s : State) (line : Nat) : (dropCopies s line).pending = s.pending := rfl
@[simp] theorem dropCopies_out (s : State) (line : Nat) : (dropCopies s line).out = s.out := rfl
@[simp] theorem dropCopies_stopped (s : State) (line : Nat) : (dropCopies s line).stopped = s.stopped := rfl
@[simp] theorem dropCopies_cur (s : State) (line : Nat) : (dropCopies s line).cur = s.cur := rfl
@[simp] theorem dropCopies_ctl (s : State) (line : Nat) : (dropCopies s line).ctl = s.ctl := rfl
@[simp] theorem dropCopies_timeLatch (s : State) (line : Nat) : (dropCopies s line).timeLatch = s.timeLatch := rfl
@[simp] theorem dropCopies_errs (s : State) (line : Nat) : (dropCopies s line).errs = s.errs := rfl
@[simp] theorem dropCopies_throttle (s : State) (line : Nat) : (dropCopies s line).throttle = s.throttle := rfl
@[simp] theorem dropCopies_mem (s : State) (line : Nat) : (dropCopies s line).mem = s.mem := rfl
@[simp] theorem dropCopies_poison (s : State) (line : Nat) : (dropCopies s line).poison = s.poison := rfl
@[simp] theorem dropCopies_home (s : State) (line : Nat) : (dropCopies s line).home = s.home := rfl
@[simp] theorem dropCopies_wb (s : State) (line : Nat) : (dropCopies s line).wb = s.wb := rfl
@[simp] theorem dropCopies_mts (s : State) (line : Nat) : (dropCopies s line).mts = s.mts := rfl
@[simp] theorem dropCopies_filt (s : State) (line : Nat) : (dropCopies s line).filt = s.filt := rfl
@[simp] theorem dropCopies_cohSeq (s : State) (line : Nat) : (dropCopies s line).cohSeq = s.cohSeq := rfl
@[simp] theorem dropCopies_asks (s : State) (line : Nat) : (dropCopies s line).asks = s.asks := rfl
@[simp] theorem dropCopies_writers (s : State) (line : Nat) : (dropCopies s line).writers = s.writers := rfl
@[simp] theorem dropCopies_hwPend (s : State) (line : Nat) : (dropCopies s line).hwPend = s.hwPend := rfl
@[simp] theorem dropCopies_refusals (s : State) (line : Nat) : (dropCopies s line).refusals = s.refusals := rfl
@[simp] theorem dropCopies_fwCache (s : State) (line : Nat) : (dropCopies s line).fwCache = s.fwCache := rfl
@[simp] theorem dropCopies_sweepCells (s : State) (line : Nat) : (dropCopies s line).sweepCells = s.sweepCells := rfl
@[simp] theorem dropCopies_queuedCells (s : State) (line : Nat) : (dropCopies s line).queuedCells = s.queuedCells := rfl
@[simp] theorem dropCopies_recallPage (s : State) (line : Nat) : (dropCopies s line).recallPage = s.recallPage := rfl
@[simp] theorem dropCopies_collapses (s : State) (line : Nat) : (dropCopies s line).collapses = s.collapses := rfl
@[simp] theorem dropCopies_repHeld (s : State) (line : Nat) : (dropCopies s line).repHeld = s.repHeld := rfl
@[simp] theorem dropCopies_repQueue (s : State) (line : Nat) : (dropCopies s line).repQueue = s.repQueue := rfl
@[simp] theorem dropCopies_setWait (s : State) (line : Nat) : (dropCopies s line).setWait = s.setWait := rfl
@[simp] theorem dropCopies_sfBusy (s : State) (line : Nat) : (dropCopies s line).sfBusy = s.sfBusy := rfl
@[simp] theorem dropCopies_reps (s : State) (line : Nat) : (dropCopies s line).reps = s.reps := rfl
@[simp] theorem dropCopies_arming (s : State) (line : Nat) : (dropCopies s line).arming = s.arming := rfl
@[simp] theorem dropCopies_oldLease (s : State) (line : Nat) : (dropCopies s line).oldLease = s.oldLease := rfl
@[simp] theorem dropCopies_planActive (s : State) (line : Nat) : (dropCopies s line).planActive = s.planActive := rfl
@[simp] theorem dropCopies_planPending (s : State) (line : Nat) : (dropCopies s line).planPending = s.planPending := rfl
@[simp] theorem dropCopies_armed (s : State) (line : Nat) : (dropCopies s line).armed = s.armed := rfl
@[simp] theorem dropCopies_switching (s : State) (line : Nat) : (dropCopies s line).switching = s.switching := rfl
@[simp] theorem dropCopies_rxMoved (s : State) (line : Nat) : (dropCopies s line).rxMoved = s.rxMoved := rfl
@[simp] theorem dropCopies_sess (s : State) (line : Nat) : (dropCopies s line).sess = s.sess := rfl
@[simp] theorem dropCopies_chanQ (s : State) (line : Nat) : (dropCopies s line).chanQ = s.chanQ := rfl
@[simp] theorem dropCopies_spdmSeq (s : State) (line : Nat) : (dropCopies s line).spdmSeq = s.spdmSeq := rfl
@[simp] theorem dropCopies_budgetAt (s : State) (line : Nat) : (dropCopies s line).budgetAt = s.budgetAt := rfl
@[simp] theorem dropCopies_peerCell (s : State) (line : Nat) : (dropCopies s line).peerCell = s.peerCell := rfl
@[simp] theorem dropCopies_departed (s : State) (line : Nat) : (dropCopies s line).departed = s.departed := rfl
@[simp] theorem dropCopies_tags (s : State) (line : Nat) : (dropCopies s line).tags = s.tags := rfl
@[simp] theorem dropCopies_setups (s : State) (line : Nat) : (dropCopies s line).setups = s.setups := rfl
@[simp] theorem dropCopies_removed (s : State) (line : Nat) : (dropCopies s line).removed = s.removed := rfl
@[simp] theorem dropCopies_removedRx (s : State) (line : Nat) : (dropCopies s line).removedRx = s.removedRx := rfl
@[simp] theorem dropCopies_fabAdj (s : State) (line : Nat) : (dropCopies s line).fabAdj = s.fabAdj := rfl
@[simp] theorem dropCopies_txns (s : State) (line : Nat) : (dropCopies s line).txns = s.txns := rfl
@[simp] theorem dropCopies_landTxns (s : State) (line : Nat) : (dropCopies s line).landTxns = s.landTxns := rfl
@[simp] theorem dropCopies_nextTxn (s : State) (line : Nat) : (dropCopies s line).nextTxn = s.nextTxn := rfl
@[simp] theorem dropCopies_ports (s : State) (line : Nat) : (dropCopies s line).ports = s.ports := rfl
@[simp] theorem dropCopies_extents (s : State) (line : Nat) : (dropCopies s line).extents = s.extents := rfl
@[simp] theorem dropCopies_windows (s : State) (line : Nat) : (dropCopies s line).windows = s.windows := rfl
@[simp] theorem dropCopies_hostWait (s : State) (line : Nat) : (dropCopies s line).hostWait = s.hostWait := rfl
@[simp] theorem dropCopies_boot (s : State) (line : Nat) : (dropCopies s line).boot = s.boot := rfl
@[simp] theorem dropCopies_supRunning (s : State) (line : Nat) : (dropCopies s line).supRunning = s.supRunning := rfl
@[simp] theorem dropCopies_supEntry (s : State) (line : Nat) : (dropCopies s line).supEntry = s.supEntry := rfl
@[simp] theorem dropCopies_image (s : State) (line : Nat) : (dropCopies s line).image = s.image := rfl
@[simp] theorem dropCopies_update (s : State) (line : Nat) : (dropCopies s line).update = s.update := rfl
@[simp] theorem dropCopies_supOld (s : State) (line : Nat) : (dropCopies s line).supOld = s.supOld := rfl
@[simp] theorem dropCopies_mrs (s : State) (line : Nat) : (dropCopies s line).mrs = s.mrs := rfl
@[simp] theorem dropCopies_audit (s : State) (line : Nat) : (dropCopies s line).audit = s.audit := rfl
@[simp] theorem dropCopies_auditNext (s : State) (line : Nat) : (dropCopies s line).auditNext = s.auditNext := rfl
@[simp] theorem dropCopies_auditReleased (s : State) (line : Nat) : (dropCopies s line).auditReleased = s.auditReleased := rfl
@[simp] theorem dropCopies_auditExported (s : State) (line : Nat) : (dropCopies s line).auditExported = s.auditExported := rfl
@[simp] theorem dropCopies_auditDropped (s : State) (line : Nat) : (dropCopies s line).auditDropped = s.auditDropped := rfl
@[simp] theorem dropCopies_auditLost (s : State) (line : Nat) : (dropCopies s line).auditLost = s.auditLost := rfl
@[simp] theorem dropCopies_audIn (s : State) (line : Nat) : (dropCopies s line).audIn = s.audIn := rfl
@[simp] theorem dropCopies_audNonce (s : State) (line : Nat) : (dropCopies s line).audNonce = s.audNonce := rfl
@[simp] theorem dropCopies_extData (s : State) (line : Nat) : (dropCopies s line).extData = s.extData := rfl
@[simp] theorem dropCopies_inletHot (s : State) (line : Nat) : (dropCopies s line).inletHot = s.inletHot := rfl
@[simp] theorem dropCopies_linkRuns (s : State) (line : Nat) : (dropCopies s line).linkRuns = s.linkRuns := rfl
@[simp] theorem dropCopies_fences (s : State) (line : Nat) : (dropCopies s line).fences = s.fences := rfl
@[simp] theorem dropCopies_stkQuiet (s : State) (line : Nat) : (dropCopies s line).stkQuiet = s.stkQuiet := rfl
@[simp] theorem dropCopies_recal (s : State) (line : Nat) : (dropCopies s line).recal = s.recal := rfl
@[simp] theorem dropCopies_withheld (s : State) (line : Nat) : (dropCopies s line).withheld = s.withheld := rfl
@[simp] theorem dropCopies_relReg (s : State) (line : Nat) : (dropCopies s line).relReg = s.relReg := rfl
@[simp] theorem dropCopies_queues (s : State) (line : Nat) : (dropCopies s line).queues = s.queues := rfl
@[simp] theorem dropCopies_spans (s : State) (line : Nat) : (dropCopies s line).spans = s.spans := rfl
@[simp] theorem dropCopies_nextSpan (s : State) (line : Nat) : (dropCopies s line).nextSpan = s.nextSpan := rfl
@[simp] theorem dropCopies_rr (s : State) (line : Nat) : (dropCopies s line).rr = s.rr := rfl
@[simp] theorem dropCopies_charge (s : State) (line : Nat) : (dropCopies s line).charge = s.charge := rfl
@[simp] theorem dropCopies_cores (s : State) (line : Nat) : (dropCopies s line).cores = s.cores := rfl
@[simp] theorem dropCopies_ctxs (s : State) (line : Nat) : (dropCopies s line).ctxs = s.ctxs := rfl
@[simp] theorem dropCopies_mills (s : State) (line : Nat) : (dropCopies s line).mills = s.mills := rfl
@[simp] theorem dropCopies_hbars (s : State) (line : Nat) : (dropCopies s line).hbars = s.hbars := rfl
@[simp] theorem dropCopies_hstand (s : State) (line : Nat) : (dropCopies s line).hstand = s.hstand := rfl
@[simp] theorem dropCopies_hwait (s : State) (line : Nat) : (dropCopies s line).hwait = s.hwait := rfl
@[simp] theorem dropCopies_hsent (s : State) (line : Nat) : (dropCopies s line).hsent = s.hsent := rfl
@[simp] theorem dropCopies_walkCache (s : State) (line : Nat) : (dropCopies s line).walkCache = s.walkCache := rfl
@[simp] theorem dropCopies_walkAsks (s : State) (line : Nat) : (dropCopies s line).walkAsks = s.walkAsks := rfl
@[simp] theorem dropCopies_sweeps (s : State) (line : Nat) : (dropCopies s line).sweeps = s.sweeps := rfl
@[simp] theorem dropCopies_nextSweep (s : State) (line : Nat) : (dropCopies s line).nextSweep = s.nextSweep := rfl
@[simp] theorem dropCopies_publs (s : State) (line : Nat) : (dropCopies s line).publs = s.publs := rfl
@[simp] theorem dropCopies_winFaulted (s : State) (line : Nat) : (dropCopies s line).winFaulted = s.winFaulted := rfl
@[simp] theorem dropCopies_winTime (s : State) (line : Nat) : (dropCopies s line).winTime = s.winTime := rfl
@[simp] theorem dropCopies_ringRetry (s : State) (line : Nat) : (dropCopies s line).ringRetry = s.ringRetry := rfl

/-! ## takeFree -/

@[simp] theorem takeFree_now (s : State) : (takeFree s).2.now = s.now := rfl
@[simp] theorem takeFree_resetAt (s : State) : (takeFree s).2.resetAt = s.resetAt := rfl
@[simp] theorem takeFree_agenda (s : State) : (takeFree s).2.agenda = s.agenda := rfl
@[simp] theorem takeFree_pending (s : State) : (takeFree s).2.pending = s.pending := rfl
@[simp] theorem takeFree_out (s : State) : (takeFree s).2.out = s.out := rfl
@[simp] theorem takeFree_stopped (s : State) : (takeFree s).2.stopped = s.stopped := rfl
@[simp] theorem takeFree_cur (s : State) : (takeFree s).2.cur = s.cur := rfl
@[simp] theorem takeFree_ctl (s : State) : (takeFree s).2.ctl = s.ctl := rfl
@[simp] theorem takeFree_timeLatch (s : State) : (takeFree s).2.timeLatch = s.timeLatch := rfl
@[simp] theorem takeFree_errs (s : State) : (takeFree s).2.errs = s.errs := rfl
@[simp] theorem takeFree_throttle (s : State) : (takeFree s).2.throttle = s.throttle := rfl
@[simp] theorem takeFree_mem (s : State) : (takeFree s).2.mem = s.mem := rfl
@[simp] theorem takeFree_poison (s : State) : (takeFree s).2.poison = s.poison := rfl
@[simp] theorem takeFree_home (s : State) : (takeFree s).2.home = s.home := rfl
@[simp] theorem takeFree_l2 (s : State) : (takeFree s).2.l2 = s.l2 := rfl
@[simp] theorem takeFree_wb (s : State) : (takeFree s).2.wb = s.wb := rfl
@[simp] theorem takeFree_l1 (s : State) : (takeFree s).2.l1 = s.l1 := rfl
@[simp] theorem takeFree_mts (s : State) : (takeFree s).2.mts = s.mts := rfl
@[simp] theorem takeFree_filt (s : State) : (takeFree s).2.filt = s.filt := rfl
@[simp] theorem takeFree_cohSeq (s : State) : (takeFree s).2.cohSeq = s.cohSeq := rfl
@[simp] theorem takeFree_asks (s : State) : (takeFree s).2.asks = s.asks := rfl
@[simp] theorem takeFree_writers (s : State) : (takeFree s).2.writers = s.writers := rfl
@[simp] theorem takeFree_hwPend (s : State) : (takeFree s).2.hwPend = s.hwPend := rfl
@[simp] theorem takeFree_refusals (s : State) : (takeFree s).2.refusals = s.refusals := rfl
@[simp] theorem takeFree_fwCache (s : State) : (takeFree s).2.fwCache = s.fwCache := rfl
@[simp] theorem takeFree_sweepCells (s : State) : (takeFree s).2.sweepCells = s.sweepCells := rfl
@[simp] theorem takeFree_queuedCells (s : State) : (takeFree s).2.queuedCells = s.queuedCells := rfl
@[simp] theorem takeFree_recallPage (s : State) : (takeFree s).2.recallPage = s.recallPage := rfl
@[simp] theorem takeFree_collapses (s : State) : (takeFree s).2.collapses = s.collapses := rfl
@[simp] theorem takeFree_repHeld (s : State) : (takeFree s).2.repHeld = s.repHeld := rfl
@[simp] theorem takeFree_repQueue (s : State) : (takeFree s).2.repQueue = s.repQueue := rfl
@[simp] theorem takeFree_setWait (s : State) : (takeFree s).2.setWait = s.setWait := rfl
@[simp] theorem takeFree_sfBusy (s : State) : (takeFree s).2.sfBusy = s.sfBusy := rfl
@[simp] theorem takeFree_reps (s : State) : (takeFree s).2.reps = s.reps := rfl
@[simp] theorem takeFree_arming (s : State) : (takeFree s).2.arming = s.arming := rfl
@[simp] theorem takeFree_oldLease (s : State) : (takeFree s).2.oldLease = s.oldLease := rfl
@[simp] theorem takeFree_planActive (s : State) : (takeFree s).2.planActive = s.planActive := rfl
@[simp] theorem takeFree_planPending (s : State) : (takeFree s).2.planPending = s.planPending := rfl
@[simp] theorem takeFree_armed (s : State) : (takeFree s).2.armed = s.armed := rfl
@[simp] theorem takeFree_switching (s : State) : (takeFree s).2.switching = s.switching := rfl
@[simp] theorem takeFree_rxMoved (s : State) : (takeFree s).2.rxMoved = s.rxMoved := rfl
@[simp] theorem takeFree_sess (s : State) : (takeFree s).2.sess = s.sess := rfl
@[simp] theorem takeFree_chanQ (s : State) : (takeFree s).2.chanQ = s.chanQ := rfl
@[simp] theorem takeFree_spdmSeq (s : State) : (takeFree s).2.spdmSeq = s.spdmSeq := rfl
@[simp] theorem takeFree_budgetAt (s : State) : (takeFree s).2.budgetAt = s.budgetAt := rfl
@[simp] theorem takeFree_peerCell (s : State) : (takeFree s).2.peerCell = s.peerCell := rfl
@[simp] theorem takeFree_departed (s : State) : (takeFree s).2.departed = s.departed := rfl
@[simp] theorem takeFree_tags (s : State) : (takeFree s).2.tags = s.tags := rfl
@[simp] theorem takeFree_setups (s : State) : (takeFree s).2.setups = s.setups := rfl
@[simp] theorem takeFree_removed (s : State) : (takeFree s).2.removed = s.removed := rfl
@[simp] theorem takeFree_removedRx (s : State) : (takeFree s).2.removedRx = s.removedRx := rfl
@[simp] theorem takeFree_fabAdj (s : State) : (takeFree s).2.fabAdj = s.fabAdj := rfl
@[simp] theorem takeFree_txns (s : State) : (takeFree s).2.txns = s.txns := rfl
@[simp] theorem takeFree_landTxns (s : State) : (takeFree s).2.landTxns = s.landTxns := rfl
@[simp] theorem takeFree_nextTxn (s : State) : (takeFree s).2.nextTxn = s.nextTxn := rfl
@[simp] theorem takeFree_ports (s : State) : (takeFree s).2.ports = s.ports := rfl
@[simp] theorem takeFree_extents (s : State) : (takeFree s).2.extents = s.extents := rfl
@[simp] theorem takeFree_windows (s : State) : (takeFree s).2.windows = s.windows := rfl
@[simp] theorem takeFree_hostWait (s : State) : (takeFree s).2.hostWait = s.hostWait := rfl
@[simp] theorem takeFree_boot (s : State) : (takeFree s).2.boot = s.boot := rfl
@[simp] theorem takeFree_supRunning (s : State) : (takeFree s).2.supRunning = s.supRunning := rfl
@[simp] theorem takeFree_supEntry (s : State) : (takeFree s).2.supEntry = s.supEntry := rfl
@[simp] theorem takeFree_image (s : State) : (takeFree s).2.image = s.image := rfl
@[simp] theorem takeFree_update (s : State) : (takeFree s).2.update = s.update := rfl
@[simp] theorem takeFree_supOld (s : State) : (takeFree s).2.supOld = s.supOld := rfl
@[simp] theorem takeFree_mrs (s : State) : (takeFree s).2.mrs = s.mrs := rfl
@[simp] theorem takeFree_audit (s : State) : (takeFree s).2.audit = s.audit := rfl
@[simp] theorem takeFree_auditNext (s : State) : (takeFree s).2.auditNext = s.auditNext := rfl
@[simp] theorem takeFree_auditReleased (s : State) : (takeFree s).2.auditReleased = s.auditReleased := rfl
@[simp] theorem takeFree_auditExported (s : State) : (takeFree s).2.auditExported = s.auditExported := rfl
@[simp] theorem takeFree_auditDropped (s : State) : (takeFree s).2.auditDropped = s.auditDropped := rfl
@[simp] theorem takeFree_auditLost (s : State) : (takeFree s).2.auditLost = s.auditLost := rfl
@[simp] theorem takeFree_audIn (s : State) : (takeFree s).2.audIn = s.audIn := rfl
@[simp] theorem takeFree_audNonce (s : State) : (takeFree s).2.audNonce = s.audNonce := rfl
@[simp] theorem takeFree_extData (s : State) : (takeFree s).2.extData = s.extData := rfl
@[simp] theorem takeFree_inletHot (s : State) : (takeFree s).2.inletHot = s.inletHot := rfl
@[simp] theorem takeFree_linkRuns (s : State) : (takeFree s).2.linkRuns = s.linkRuns := rfl
@[simp] theorem takeFree_fences (s : State) : (takeFree s).2.fences = s.fences := rfl
@[simp] theorem takeFree_stkQuiet (s : State) : (takeFree s).2.stkQuiet = s.stkQuiet := rfl
@[simp] theorem takeFree_recal (s : State) : (takeFree s).2.recal = s.recal := rfl
@[simp] theorem takeFree_withheld (s : State) : (takeFree s).2.withheld = s.withheld := rfl
@[simp] theorem takeFree_relReg (s : State) : (takeFree s).2.relReg = s.relReg := rfl
@[simp] theorem takeFree_queues (s : State) : (takeFree s).2.queues = s.queues := rfl
@[simp] theorem takeFree_spans (s : State) : (takeFree s).2.spans = s.spans := rfl
@[simp] theorem takeFree_nextSpan (s : State) : (takeFree s).2.nextSpan = s.nextSpan := rfl
@[simp] theorem takeFree_rr (s : State) : (takeFree s).2.rr = s.rr := rfl
@[simp] theorem takeFree_charge (s : State) : (takeFree s).2.charge = s.charge := rfl
@[simp] theorem takeFree_cores (s : State) : (takeFree s).2.cores = s.cores := rfl
@[simp] theorem takeFree_ctxs (s : State) : (takeFree s).2.ctxs = s.ctxs := rfl
@[simp] theorem takeFree_mills (s : State) : (takeFree s).2.mills = s.mills := rfl
@[simp] theorem takeFree_hbars (s : State) : (takeFree s).2.hbars = s.hbars := rfl
@[simp] theorem takeFree_hstand (s : State) : (takeFree s).2.hstand = s.hstand := rfl
@[simp] theorem takeFree_hwait (s : State) : (takeFree s).2.hwait = s.hwait := rfl
@[simp] theorem takeFree_hsent (s : State) : (takeFree s).2.hsent = s.hsent := rfl
@[simp] theorem takeFree_walkCache (s : State) : (takeFree s).2.walkCache = s.walkCache := rfl
@[simp] theorem takeFree_walkAsks (s : State) : (takeFree s).2.walkAsks = s.walkAsks := rfl
@[simp] theorem takeFree_sweeps (s : State) : (takeFree s).2.sweeps = s.sweeps := rfl
@[simp] theorem takeFree_nextSweep (s : State) : (takeFree s).2.nextSweep = s.nextSweep := rfl
@[simp] theorem takeFree_publs (s : State) : (takeFree s).2.publs = s.publs := rfl
@[simp] theorem takeFree_winFaulted (s : State) : (takeFree s).2.winFaulted = s.winFaulted := rfl
@[simp] theorem takeFree_winTime (s : State) : (takeFree s).2.winTime = s.winTime := rfl
@[simp] theorem takeFree_ringRetry (s : State) : (takeFree s).2.ringRetry = s.ringRetry := rfl

/-! ## What the updates write -/

@[simp] theorem modCur_cur (s : State) (f : Cur → Cur) : (modCur s f).cur = f s.cur := rfl
@[simp] theorem emit_out (s : State) (o : Out) : (emit s o).out = s.out ++ [o] := rfl
@[simp] theorem post_pending (s : State) (d : Nat) (e : Ev) : (post s d e).pending = s.pending ++ [⟨s.now + d, e⟩] := rfl
@[simp] theorem takeFree_free (s : State) : (takeFree s).2.free = s.free + 1 := rfl

/-! ## Contexts, units and cores -/

theorem getCtx_putCtx (s : State) (c d : Nat) (x : Ctx) : getCtx (putCtx s c x) d = if d = c then x else getCtx s d := by
  simp only [getCtx, putCtx, mgetD_mset]
@[simp] theorem getCtx_putCtx_same (s : State) (c : Nat) (x : Ctx) : getCtx (putCtx s c x) c = x := by
  rw [getCtx_putCtx]; simp
theorem getCtx_modCtx (s : State) (c d : Nat) (f : Ctx → Ctx) :
    getCtx (modCtx s c f) d = if d = c then f (getCtx s c) else getCtx s d := getCtx_putCtx s c d _
@[simp] theorem getCtx_modCtx_same (s : State) (c : Nat) (f : Ctx → Ctx) : getCtx (modCtx s c f) c = f (getCtx s c) := by
  rw [getCtx_modCtx]; simp
theorem getCtx_putUnit (s : State) (c u d : Nat) (t : Thread) :
    getCtx (putUnit s c u t) d = if d = c then { getCtx s c with units := mset (getCtx s c).units u t } else getCtx s d :=
  getCtx_putCtx s c d _
theorem getUnit_putUnit (s : State) (c u d w : Nat) (t : Thread) :
    getUnit (putUnit s c u t) d w = if d = c ∧ w = u then t else getUnit s d w := by
  unfold getUnit
  rw [getCtx_putUnit]
  by_cases h : d = c
  · subst h; by_cases h2 : w = u <;> simp [mgetD_mset, h2]
  · simp [h]
@[simp] theorem getUnit_putUnit_same (s : State) (c u : Nat) (t : Thread) : getUnit (putUnit s c u t) c u = t := by
  rw [getUnit_putUnit]; simp
theorem getUnit_modUnit (s : State) (c u d w : Nat) (f : Thread → Thread) :
    getUnit (modUnit s c u f) d w = if d = c ∧ w = u then f (getUnit s c u) else getUnit s d w :=
  getUnit_putUnit s c u d w _
@[simp] theorem getUnit_modUnit_same (s : State) (c u : Nat) (f : Thread → Thread) :
    getUnit (modUnit s c u f) c u = f (getUnit s c u) := by rw [getUnit_modUnit]; simp
@[simp] theorem getCtx_modCur (s : State) (f : Cur → Cur) (c : Nat) : getCtx (modCur s f) c = getCtx s c := rfl
@[simp] theorem getUnit_modCur (s : State) (f : Cur → Cur) (c u : Nat) : getUnit (modCur s f) c u = getUnit s c u := rfl
theorem getCore_modCore (s : State) (k j : Nat) (f : CoreSt → CoreSt) :
    getCore (modCore s k f) j = if j = k then f (getCore s k) else getCore s j := by
  simp only [getCore, modCore, mgetD_mset, ticksSince]
@[simp] theorem getCore_modCore_same (s : State) (k : Nat) (f : CoreSt → CoreSt) :
    getCore (modCore s k f) k = f (getCore s k) := by rw [getCore_modCore]; simp

/-- A change of the unit that issues is what is read from it. -/
@[simp] theorem curUnit_modCurUnit (s : State) (f : Thread → Thread) : curUnit (modCurUnit s f) = f (curUnit s) :=
  getUnit_modUnit_same s s.cur.ctx s.cur.unit f
/-- A change of the unit that issues leaves the others. -/
theorem getUnit_modCurUnit_other (s : State) (f : Thread → Thread) {c u : Nat} (h : ¬ (c = s.cur.ctx ∧ u = s.cur.unit)) :
    getUnit (modCurUnit s f) c u = getUnit s c u := by
  unfold modCurUnit; rw [getUnit_modUnit]; simp [h]

@[simp] theorem slotOf_putSlot (t : Thread) (b : Bool) (x : Slot) : slotOf (putSlot t b x) b = x := by
  cases b <;> rfl
theorem slotOf_putSlot_other (t : Thread) (b : Bool) (x : Slot) : slotOf (putSlot t b x) (!b) = slotOf t (!b) := by
  cases b <;> rfl

/-! ## Registers -/

theorem rdV_wrV (t : Thread) {n l m k : Nat} (x : Word) (hl : l < 32) (hk : k < 32) :
    rdV (wrV t n l x) m k = if m = n ∧ k = l then x else rdV t m k := by
  simp only [rdV, wrV, mgetD_mput]
  by_cases h : m = n ∧ k = l
  · obtain ⟨rfl, rfl⟩ := h; simp
  · have : ¬ 32 * m + k = 32 * n + l := by omega
    simp [h, this]
theorem rdG_wrG (t : Thread) (n m : Nat) (x : Word) : rdG (wrG t n x) m = if m = n then x else rdG t m := by
  simp only [rdG, wrG, mgetD_mput]
theorem rdGp_wrGp (t : Thread) (n m : Nat) (b : Bool) : rdGp (wrGp t n b) m = if m = n then b else rdGp t m := by
  simp only [rdGp, wrGp, mgetD_mput]
theorem rdP_wrP (t : Thread) (n l m : Nat) (b : Bool) :
    rdP (wrP t n l b) m = if m = n then (if b then rdP t n &&& ~~~ laneBit l ||| laneBit l else rdP t n &&& ~~~ laneBit l)
      else rdP t m := by
  simp only [rdP, wrP, mgetD_mput]
theorem laneBit_getLsbD {l k : Nat} (hl : l < 32) : (laneBit l).getLsbD k = decide (k = l) := by
  unfold laneBit
  rw [BitVec.getLsbD_ofNat, Nat.testBit_two_pow]
  by_cases h : l = k
  · subst h; simp [hl]
  · simp [h, Ne.symm h]
/-- One lane of a predicate after a write of one lane. -/
theorem rdP_wrP_lane (t : Thread) (n : Nat) {l m k : Nat} (b : Bool) (hl : l < 32) (hk : k < 32) :
    (rdP (wrP t n l b) m).getLsbD k = if m = n ∧ k = l then b else (rdP t m).getLsbD k := by
  rw [rdP_wrP]
  by_cases hm : m = n
  · subst hm
    by_cases hkl : k = l
    · subst hkl; cases b <;> simp [laneBit_getLsbD hl, hk]
    · have hb : (laneBit l).getLsbD k = false := by rw [laneBit_getLsbD hl]; simp [hkl]
      cases b <;> simp only [if_true, if_false, Bool.false_eq_true, BitVec.getLsbD_or, BitVec.getLsbD_and, BitVec.getLsbD_not,
        hb, hk, hkl, decide_true, Bool.not_false, Bool.and_true, Bool.or_false, and_false]
  · simp [hm]

end Sys2Proof.Machine
end

