-- ==== Sys2Proof/Laws/Words.lean ====
section
/-! SUPPORT. Laws of the words that issue: what the end of an offset does, and what a word that computes a value does, each
said once. -/

namespace Sys2Proof.Machine
open Sys2Proof.Safety

/-! ## Running a word -/

/-- A word that passes its checks has its effect and ends its offset. -/
theorem runWord_ok {i : Instr} {s : State} (h : wordFault s i = none) (e : State → State) :
    runWord i s e = .next (finishWord (e (noteOps s i))) := by
  unfold runWord; rw [h]

/-- A word that fails a check raises it before any effect. -/
theorem runWord_bad {i : Instr} {s : State} {f : LaneFault} (h : wordFault s i = some f) (e : State → State) :
    runWord i s e = .next (faultNow s f) := by
  unfold runWord; rw [h]

/-- A word always answers a next state. -/
theorem runWord_next (i : Instr) (s : State) (e : State → State) : ∃ t, runWord i s e = .next t := by
  unfold runWord; split
  · exact ⟨_, rfl⟩
  · exact ⟨_, rfl⟩

@[simp] theorem curUnit_noteOps (s : State) (i : Instr) : curUnit (noteOps s i) = curUnit s := rfl
@[simp] theorem curCtx_noteOps (s : State) (i : Instr) : curCtx (noteOps s i) = curCtx s := rfl
@[simp] theorem curSlot_noteOps (s : State) (i : Instr) : curSlot (noteOps s i) = curSlot s := rfl
@[simp] theorem execLanes_noteOps (s : State) (i : Instr) : execLanes (noteOps s i) = execLanes s := rfl
@[simp] theorem srcIn_noteOps (s : State) (i : Instr) (g : Bool) (l : Nat) (x : Src) (w : Bool) :
    srcIn (noteOps s i) g l x w = srcIn s g l x w := rfl
@[simp] theorem srcTy_noteOps (s : State) (i : Instr) (g : Bool) (l : Nat) (x : Src) (ty : Nat) :
    srcTy (noteOps s i) g l x ty = srcTy s g l x ty := rfl
@[simp] theorem srcCtl_noteOps (s : State) (i : Instr) (g : Bool) (l : Nat) (x : Src) :
    srcCtl (noteOps s i) g l x = srcCtl s g l x := rfl
@[simp] theorem oldDst_noteOps (s : State) (i : Instr) (g : Bool) (l : Nat) (d : Dst) (w : Bool) :
    oldDst (noteOps s i) g l d w = oldDst s g l d w := rfl

/-- Lanes of Exec(slot) are lanes. -/
theorem execLanes_lt {s : State} {l : Nat} (h : l ∈ execLanes s) : l < 32 := by
  unfold execLanes lanesOf at h
  simpa using (List.mem_filter.mp h).1

theorem execLanes_nodup (s : State) : (execLanes s).Nodup := by
  unfold execLanes lanesOf
  exact List.Pairwise.sublist List.filter_sublist List.nodup_range

/-! ## The end of an offset -/

/-- An offset at which no lane has faulted commits. -/
theorem finishWord_commit {s : State} (h1 : s.cur.lastWord = true) (h2 : s.cur.faults = []) :
    finishWord s = commitOffset s := by
  unfold finishWord; rw [h1, h2]; rfl

/-- A word that is not the last distinct one of its offset leaves the rest to the others. -/
theorem finishWord_more {s : State} (h : s.cur.lastWord = false) : finishWord s = s := by
  unfold finishWord; rw [h]; rfl

/-- What the commit of an offset does to the unit that issues. -/
def committed (t : Thread) (k : Cur) : Thread :=
  let t := countYoung t k
  let t := chainAfter t k
  let t := if k.produced then shiftLatches t k.result else t
  let t := { t with plane := k.planes.foldl (fun m e => mput m 0 e.1 e.2) t.plane }
  let t := advanceSlot t k
  { t with last := k.slot, issued := t.issued + 1
           bkptPass := if t.bkptPass = some k.off then none else t.bkptPass }

theorem commitOffset_eq (s : State) : commitOffset s = modCurUnit s fun t => committed t s.cur := rfl

theorem countYoung_flight (t : Thread) (k : Cur) : flightOf (countYoung t k) = flightOf t := by
  unfold flightOf countYoung
  simp only [List.map_map]
  apply List.map_congr_left
  intro a _
  simp only [Function.comp]
  split <;> rfl

@[simp] theorem chainAfter_flight (t : Thread) (k : Cur) : (chainAfter t k).flight = t.flight := by
  unfold chainAfter; split <;> rfl

/-- The stages of a commit: the counts and the chain, the latches and planes, the slot. -/
def stageChain (t : Thread) (k : Cur) : Thread := chainAfter (countYoung t k) k
/-- The latches and the planes. -/
def stageLatch (t : Thread) (k : Cur) : Thread :=
  let t := if k.produced then shiftLatches t k.result else t
  { t with plane := k.planes.foldl (fun m e => mput m 0 e.1 e.2) t.plane }
/-- The count of issued words. -/
def stageCount (t : Thread) (k : Cur) : Thread :=
  { t with last := k.slot, issued := t.issued + 1
           bkptPass := if t.bkptPass = some k.off then none else t.bkptPass }

theorem committed_stages (t : Thread) (k : Cur) :
    committed t k = stageCount (advanceSlot (stageLatch (stageChain t k) k) k) k := rfl

theorem stageChain_eq (t : Thread) (k : Cur) :
    stageChain t k = { t with
      flight := (stageChain t k).flight
      chain := (stageChain t k).chain, chainOff := (stageChain t k).chainOff, chainSlot := (stageChain t k).chainSlot
      chainReads := (stageChain t k).chainReads, chainNext := (stageChain t k).chainNext
      chainBad := (stageChain t k).chainBad, chainLeft := (stageChain t k).chainLeft } := by
  unfold stageChain chainAfter countYoung; split <;> rfl

theorem stageLatch_eq (t : Thread) (k : Cur) :
    stageLatch t k = { t with q := (stageLatch t k).q, plane := (stageLatch t k).plane } := by
  unfold stageLatch shiftLatches; split <;> rfl

theorem advanceSlot_eq (t : Thread) (k : Cur) :
    advanceSlot t k = { t with s0 := (advanceSlot t k).s0, s1 := (advanceSlot t k).s1 } := by
  unfold advanceSlot putSlot
  split
  · rfl
  · cases k.slot <;> rfl

/-- The commit writes only latches, planes, the slot and bookkeeping. -/
theorem committed_eq (t : Thread) (k : Cur) :
    committed t k = { t with
      q := (committed t k).q, plane := (committed t k).plane
      s0 := (committed t k).s0, s1 := (committed t k).s1, last := (committed t k).last, issued := (committed t k).issued
      bkptPass := (committed t k).bkptPass, flight := (committed t k).flight
      chain := (committed t k).chain, chainOff := (committed t k).chainOff, chainSlot := (committed t k).chainSlot
      chainReads := (committed t k).chainReads, chainNext := (committed t k).chainNext
      chainBad := (committed t k).chainBad, chainLeft := (committed t k).chainLeft } := by
  rw [committed_stages, advanceSlot_eq, stageLatch_eq, stageChain_eq]; rfl

@[simp] theorem committed_v (t : Thread) (k : Cur) : (committed t k).v = t.v := by rw [committed_eq]
@[simp] theorem committed_p (t : Thread) (k : Cur) : (committed t k).p = t.p := by rw [committed_eq]
@[simp] theorem committed_g (t : Thread) (k : Cur) : (committed t k).g = t.g := by rw [committed_eq]
@[simp] theorem committed_gp (t : Thread) (k : Cur) : (committed t k).gp = t.gp := by rw [committed_eq]

theorem committed_flight (t : Thread) (k : Cur) : flightOf (committed t k) = flightOf t := by
  have h : (committed t k).flight = (countYoung t k).flight := by
    rw [committed_stages, advanceSlot_eq, stageLatch_eq]
    exact chainAfter_flight _ k
  have := countYoung_flight t k
  unfold flightOf at *
  rw [h, this]

theorem committed_unitKept (t : Thread) (k : Cur) : UnitKept t (committed t k) :=
  ⟨committed_flight t k, by rw [committed_eq]⟩

theorem committed_plane (t : Thread) (k : Cur) (h : k.planes = []) : (committed t k).plane = t.plane := by
  rw [committed_stages, advanceSlot_eq]
  show (stageLatch (stageChain t k) k).plane = _
  unfold stageLatch
  rw [h]
  have h1 : (stageChain t k).plane = t.plane := by rw [stageChain_eq]
  cases k.produced
  · exact h1
  · exact h1

theorem slotOf_stageCount (t : Thread) (k : Cur) (b : Bool) : slotOf (stageCount t k) b = slotOf t b := by cases b <;> rfl
theorem slotOf_stages (t : Thread) (k : Cur) (b : Bool) : slotOf (stageLatch (stageChain t k) k) b = slotOf t b := by
  rw [stageLatch_eq, stageChain_eq]; cases b <;> rfl

theorem committed_slot (t : Thread) (k : Cur) (h : k.stay = false) :
    slotOf (committed t k) k.slot = { slotOf t k.slot with off := k.goto.getD (k.off + 4), hold := .none, waited := false, stage := 0 } := by
  rw [committed_stages, slotOf_stageCount]
  unfold advanceSlot
  rw [h]
  simp only [Bool.false_eq_true, if_false, slotOf_putSlot, slotOf_stages]

theorem committed_stay (t : Thread) (k : Cur) (b : Bool) (h : k.stay = true) : slotOf (committed t k) b = slotOf t b := by
  rw [committed_stages, slotOf_stageCount]
  unfold advanceSlot
  rw [h, if_pos rfl, slotOf_stages]

theorem committed_other (t : Thread) (k : Cur) : slotOf (committed t k) (!k.slot) = slotOf t (!k.slot) := by
  rw [committed_stages, slotOf_stageCount]
  unfold advanceSlot
  split
  · exact slotOf_stages t k _
  · rw [slotOf_putSlot_other, slotOf_stages]

theorem committed_q_none (t : Thread) (k : Cur) (h : k.produced = false) : (committed t k).q = t.q := by
  rw [committed_stages, advanceSlot_eq]
  show (stageLatch (stageChain t k) k).q = _
  unfold stageLatch
  rw [h]
  show (stageChain t k).q = _
  rw [stageChain_eq]

theorem committed_q (t : Thread) (k : Cur) (h : k.produced = true) : (committed t k).q = (shiftLatches t k.result).q := by
  rw [committed_stages, advanceSlot_eq]
  show (stageLatch (stageChain t k) k).q = _
  unfold stageLatch
  rw [h]
  show (shiftLatches (stageChain t k) k.result).q = _
  rw [stageChain_eq]; rfl

/-! ## Latches -/

theorem mget?_append {V : Type} (a b : Map V) (q : Nat) : mget? (a ++ b) q = (mget? a q).or (mget? b q) := by
  induction a with
  | nil => simp [mget?]
  | cons e t ih =>
    obtain ⟨k, v⟩ := e
    by_cases h : k = q <;> simp [mget?, h, ih]

theorem mget?_none_of {V : Type} {m : Map V} {q : Nat} (h : ∀ e ∈ m, e.1 ≠ q) : mget? m q = none := by
  induction m with
  | nil => rfl
  | cons e t ih =>
    obtain ⟨k, v⟩ := e
    have hk : k ≠ q := h (k, v) List.mem_cons_self
    simp only [mget?, hk, if_false]
    exact ih fun x hx => h x (List.mem_cons_of_mem _ hx)

theorem mget?_shift {V : Type} (m : Map V) (n b q : Nat) (hq : q < b) :
    mget? (m.filterMap fun e => if e.1 < b then some (e.1 + n, e.2) else none) (q + n) = mget? m q := by
  induction m with
  | nil => rfl
  | cons e t ih =>
    obtain ⟨k, v⟩ := e
    by_cases h : k < b
    · simp only [List.filterMap_cons, h, if_true, mget?, ih]
      by_cases hkq : k = q
      · simp [hkq]
      · simp [hkq]
    · have hkq : k ≠ q := by omega
      simp only [List.filterMap_cons, h, if_false, mget?, hkq, ih]

/-- A filter on a map with rising keys. -/
theorem mget?_filter {V : Type} {m : Map V} (p : Nat × V → Bool) (q : Nat) (h : Map.sorted m = true) :
    mget? (m.filter p) q = (mget? m q).filter fun v => p (q, v) := by
  induction m with
  | nil => rfl
  | cons e t ih =>
    obtain ⟨k, v⟩ := e
    rw [Map.sorted_iff, List.map_cons, List.pairwise_cons] at h
    have ih := ih (by rw [Map.sorted_iff]; exact h.2)
    by_cases hk : k = q
    · subst hk
      have hn : mget? t k = none := by
        apply mget?_none_of
        intro e he
        have := h.1 e.1 (List.mem_map_of_mem he)
        dsimp only at this; omega
      by_cases hp : p (k, v)
      · simp [hp, mget?, Option.filter]
      · simp [hp, mget?, ih, hn, Option.filter]
    · by_cases hp : p (k, v)
      · simp [hp, mget?, hk, ih]
      · simp [hp, mget?, hk, ih]

/-- What q0 holds after a shift. -/
theorem rdQ_shift_new (t : Thread) (r : Map Dword) {l : Nat} (hl : l < 32) (h : Map.sorted r = true) :
    rdQ (shiftLatches t r) 0 l = mgetD r l 0 := by
  unfold rdQ shiftLatches mgetD
  simp only [Nat.mul_zero, Nat.zero_add]
  rw [mget?_append, mget?_filter _ _ h]
  have hold : mget? (t.q.filterMap fun e => if e.1 < 96 then some (e.1 + 32, e.2) else none) l = none := by
    apply mget?_none_of
    intro e he
    simp only [List.mem_filterMap] at he
    obtain ⟨a, _, ha⟩ := he
    split at ha
    · cases ha; dsimp only; omega
    · cases ha
  rw [hold]
  cases hr : mget? r l with
  | none => rfl
  | some x =>
    by_cases hx : x = 0
    · subst hx; simp [Option.filter]
    · have hx' : ¬ x = 0#64 := hx
      simp [Option.filter, hl, hx']

/-- What the older latches hold after a shift. -/
theorem rdQ_shift_old (t : Thread) (r : Map Dword) {k l : Nat} (hk : k < 3) (hl : l < 32) :
    rdQ (shiftLatches t r) (k + 1) l = rdQ t k l := by
  unfold rdQ shiftLatches mgetD
  have h1 : 32 * (k + 1) + l = (32 * k + l) + 32 := by omega
  rw [h1, mget?_append, mget?_shift _ 32 96 _ (by omega)]
  have hnew : mget? (r.filter fun e => decide (e.1 < 32) && decide (e.2 ≠ 0)) (32 * k + l + 32) = none := by
    apply mget?_none_of
    intro e he
    have := (List.mem_filter.mp he).2
    simp at this
    omega
  rw [hnew]; rfl

/-- The results of lanes as a map. -/
theorem sorted_results {A : Type} (rs : List (Nat × A)) (f : A → Dword) (m : Map Dword) (h : Map.sorted m = true) :
    Map.sorted (rs.foldl (fun m r => mset m r.1 (f r.2)) m) = true := by
  induction rs generalizing m with
  | nil => exact h
  | cons r t ih => exact ih _ (sorted_mset r.1 (f r.2) h)

theorem mgetD_results_other {A : Type} (rs : List (Nat × A)) (f : A → Dword) (m : Map Dword) {l : Nat}
    (h : l ∉ rs.map Prod.fst) : mgetD (rs.foldl (fun m r => mset m r.1 (f r.2)) m) l 0 = mgetD m l 0 := by
  induction rs generalizing m with
  | nil => rfl
  | cons r t ih =>
    simp only [List.map_cons, List.mem_cons, not_or] at h
    rw [List.foldl_cons, ih _ h.2, mgetD_mset, if_neg h.1]

theorem mgetD_results {A : Type} (rs : List (Nat × A)) (f : A → Dword) (m : Map Dword) {l : Nat} {x : A}
    (hn : (rs.map Prod.fst).Nodup) (h : (l, x) ∈ rs) :
    mgetD (rs.foldl (fun m r => mset m r.1 (f r.2)) m) l 0 = f x := by
  induction rs generalizing m with
  | nil => cases h
  | cons r t ih =>
    rw [List.map_cons, List.nodup_cons] at hn
    rw [List.foldl_cons]
    rcases List.mem_cons.mp h with rfl | h
    · rw [mgetD_results_other _ _ _ hn.1, mgetD_mset, if_pos rfl]
    · exact ih _ hn.2 h

/-! ## Writing lanes -/

/-- The 32 bits of a value that one register of a destination takes. -/
def partV (d : Dst) (n : Nat) (x : Dword) : Word :=
  match d with
  | .v k => if n = k.val then x.extractLsb' 0 32 else x.extractLsb' 32 32
  | _ => 0

theorem setWidth_low (x : Dword) : x.setWidth 32 = x.extractLsb' 0 32 := by
  rw [BitVec.setWidth_eq_extractLsb' (by omega)]

theorem rdV_wrLane (t : Thread) (d : Dst) (wide : Bool) {l n k : Nat} (x : Dword) (hl : l < 32) (hk : k < 32) [Decidable (namesV d wide n)] :
    rdV (wrLane t d wide l x) n k = if namesV d wide n ∧ k = l then partV d n x else rdV t n k := by
  cases d with
  | v m =>
    cases wide with
    | false =>
      simp only [wrLane, namesV, partV, Bool.false_eq_true, false_and, or_false, if_false]
      rw [rdV_wrV t _ hl hk, setWidth_low]
      by_cases h : n = m.val ∧ k = l
      · simp [h]
      · simp [h]
    | true =>
      simp only [wrLane, namesV, partV, true_and, if_true, wrVV]
      rw [rdV_wrV _ _ hl hk, rdV_wrV _ _ hl hk]
      by_cases h1 : n = m.val
      · subst h1
        have : ¬ m.val = m.val + 1 := by omega
        by_cases h2 : k = l <;> simp [h2]
      · by_cases h2 : n = m.val + 1
        · by_cases h3 : k = l <;> simp [h2, h3]
        · simp [h1, h2]
  | p m => simp only [wrLane, namesV, false_and, if_false]; rfl
  | none => simp [wrLane, namesV]
  | gp m => simp [wrLane, namesV]
  | acc m => simp [wrLane, namesV]
  | g m => simp [wrLane, namesV]
  | reserved m => simp [wrLane, namesV]

theorem rdP_wrLane (t : Thread) (d : Dst) (wide : Bool) {l k : Nat} (m : Fin 8) (x : Dword) (hl : l < 32) (hk : k < 32) :
    (rdP (wrLane t d wide l x) m.val).getLsbD k =
      if d = .p m ∧ k = l then x.getLsbD 0 else (rdP t m.val).getLsbD k := by
  cases d with
  | p j =>
    simp only [wrLane]
    rw [rdP_wrP_lane t _ _ hl hk]
    by_cases h : j = m
    · subst h; simp
    · have h1 : ¬ m.val = j.val := fun e => h (Fin.ext e.symm)
      have h2 : ¬ Dst.p j = Dst.p m := fun e => h (by injection e)
      simp [h1, h2]
  | v j => cases wide <;> simp [wrLane, rdP, wrV, wrVV]
  | none => simp [wrLane]
  | gp j => simp [wrLane]
  | acc j => simp [wrLane]
  | g j => simp [wrLane]
  | reserved j => simp [wrLane]

/-- A lane's write touches only v registers and predicates. -/
theorem wrLane_eq (t : Thread) (d : Dst) (wide : Bool) (l : Nat) (x : Dword) :
    wrLane t d wide l x = { t with v := (wrLane t d wide l x).v, p := (wrLane t d wide l x).p } := by
  cases d <;> first | rfl | (cases wide <;> rfl)

/-- The writes of several lanes. -/
def wrLanes (t : Thread) (d : Dst) (wide : Bool) (rs : List (Nat × Res)) : Thread :=
  rs.foldl (fun t r => wrLane t d wide r.1 r.2.reg) t

theorem wrLanes_eq (t : Thread) (d : Dst) (wide : Bool) (rs : List (Nat × Res)) :
    wrLanes t d wide rs = { t with v := (wrLanes t d wide rs).v, p := (wrLanes t d wide rs).p } := by
  unfold wrLanes
  induction rs generalizing t with
  | nil => rfl
  | cons r rest ih =>
    rw [List.foldl_cons, ih, wrLane_eq t d wide r.1 r.2.reg]

theorem rdV_wrLanes_other (t : Thread) (d : Dst) (wide : Bool) (rs : List (Nat × Res)) {n k : Nat} (hk : k < 32)
    (hlt : ∀ r ∈ rs, r.1 < 32) (h : ¬ (namesV d wide n ∧ k ∈ rs.map Prod.fst)) :
    rdV (wrLanes t d wide rs) n k = rdV t n k := by
  classical
  unfold wrLanes
  induction rs generalizing t with
  | nil => rfl
  | cons r rest ih =>
    rw [List.foldl_cons, ih _ (fun x hx => hlt x (List.mem_cons_of_mem _ hx))
      (fun hh => h ⟨hh.1, by simp only [List.map_cons, List.mem_cons]; exact .inr hh.2⟩),
      rdV_wrLane t d wide _ (hlt r List.mem_cons_self) hk, if_neg]
    exact fun hh => h ⟨hh.1, by simp only [List.map_cons, List.mem_cons]; exact .inl hh.2⟩

theorem rdV_wrLanes (t : Thread) (d : Dst) (wide : Bool) (rs : List (Nat × Res)) {n l : Nat} {r : Res}
    (hlt : ∀ r ∈ rs, r.1 < 32) (hn : (rs.map Prod.fst).Nodup) (h : (l, r) ∈ rs) (hd : namesV d wide n) :
    rdV (wrLanes t d wide rs) n l = partV d n r.reg := by
  classical
  induction rs generalizing t with
  | nil => cases h
  | cons x rest ih =>
    rw [List.map_cons, List.nodup_cons] at hn
    have hlt' : ∀ r ∈ rest, r.1 < 32 := fun y hy => hlt y (List.mem_cons_of_mem _ hy)
    rcases List.mem_cons.mp h with rfl | h
    · have hl : l < 32 := hlt (l, r) List.mem_cons_self
      show rdV (wrLanes (wrLane t d wide l r.reg) d wide rest) n l = _
      rw [rdV_wrLanes_other _ _ _ _ hl hlt' (fun hh => hn.1 hh.2), rdV_wrLane t d wide _ hl hl, if_pos ⟨hd, rfl⟩]
    · exact ih _ hlt' hn.2 h

theorem rdP_wrLanes_other (t : Thread) (d : Dst) (wide : Bool) (rs : List (Nat × Res)) {k : Nat} (m : Fin 8) (hk : k < 32)
    (hlt : ∀ r ∈ rs, r.1 < 32) (h : ¬ (d = .p m ∧ k ∈ rs.map Prod.fst)) :
    (rdP (wrLanes t d wide rs) m.val).getLsbD k = (rdP t m.val).getLsbD k := by
  unfold wrLanes
  induction rs generalizing t with
  | nil => rfl
  | cons r rest ih =>
    rw [List.foldl_cons, ih _ (fun x hx => hlt x (List.mem_cons_of_mem _ hx))
      (fun hh => h ⟨hh.1, by simp only [List.map_cons, List.mem_cons]; exact .inr hh.2⟩),
      rdP_wrLane t d wide m _ (hlt r List.mem_cons_self) hk, if_neg]
    exact fun hh => h ⟨hh.1, by simp only [List.map_cons, List.mem_cons]; exact .inl hh.2⟩

theorem rdP_wrLanes (t : Thread) (wide : Bool) (rs : List (Nat × Res)) (m : Fin 8) {l : Nat} {r : Res}
    (hlt : ∀ r ∈ rs, r.1 < 32) (hn : (rs.map Prod.fst).Nodup) (h : (l, r) ∈ rs) :
    (rdP (wrLanes t (.p m) wide rs) m.val).getLsbD l = r.reg.getLsbD 0 := by
  induction rs generalizing t with
  | nil => cases h
  | cons x rest ih =>
    rw [List.map_cons, List.nodup_cons] at hn
    have hlt' : ∀ r ∈ rest, r.1 < 32 := fun y hy => hlt y (List.mem_cons_of_mem _ hy)
    rcases List.mem_cons.mp h with rfl | h
    · have hl : l < 32 := hlt (l, r) List.mem_cons_self
      show (rdP (wrLanes (wrLane t (.p m) wide l r.reg) (.p m) wide rest) m.val).getLsbD l = _
      rw [rdP_wrLanes_other _ _ _ _ m hl hlt' (fun hh => hn.1 hh.2), rdP_wrLane t _ wide m _ hl hl, if_pos ⟨rfl, rfl⟩]
    · exact ih _ hlt' hn.2 h

theorem clearRcl_eq (t : Thread) (d : Dst) (wide : Bool) (m : Mask) :
    clearRcl t d wide m = { t with vrcl := (clearRcl t d wide m).vrcl, grcl := (clearRcl t d wide m).grcl } := by
  cases d <;> first | rfl | (cases wide <;> rfl)

theorem extract_append (x : Dword) : x.extractLsb' 32 32 ++ x.extractLsb' 0 32 = x := by
  apply BitVec.eq_of_getLsbD_eq
  intro i hi
  rw [BitVec.getLsbD_append, BitVec.getLsbD_extractLsb', BitVec.getLsbD_extractLsb']
  by_cases h : i < 32
  · simp [h]
  · simp [h, show 32 + (i - 32) = i by omega, show i - 32 < 32 by omega]

/-! ## What stays outside the unit -/

theorem outsideKept_refl (s : State) : OutsideKept s s :=
  ⟨rfl, fun _ => rfl, fun _ _ => rfl, rfl, fun _ _ => rfl, rfl, rfl, rfl⟩

theorem outsideKept_modCurUnit {s t : State} (h : OutsideKept s t) (f : Thread → Thread) :
    OutsideKept s (modCurUnit t f) := by
  obtain ⟨h1, h2, h3, h4, h5, h6, h7, h8⟩ := h
  refine ⟨?_, h2, ?_, ?_, ?_, h6, h7, h8⟩
  · show { t with ctxs := _ } = _
    rw [h1]; rfl
  · intro c hc
    show getCtx (putUnit t t.cur.ctx t.cur.unit _) c = _
    rw [getCtx_putUnit, h6, if_neg hc, h3 c hc]
  · have hx : ∃ u, getCtx (modCurUnit t f) s.cur.ctx = { getCtx t s.cur.ctx with units := u } := by
      refine ⟨mset (getCtx t s.cur.ctx).units t.cur.unit (f (getUnit t s.cur.ctx t.cur.unit)), ?_⟩
      unfold modCurUnit modUnit
      rw [getCtx_putUnit, h6, if_pos rfl]
    obtain ⟨u, hu⟩ := hx
    rw [hu, h4]
  · intro u hu
    rw [getUnit_modCurUnit_other, h5 u hu]
    rw [h7]; exact fun hh => hu hh.2

theorem outsideKept_modCur {s t : State} (h : OutsideKept s t) (f : Cur → Cur) (hc : (f t.cur).ctx = t.cur.ctx)
    (hu : (f t.cur).unit = t.cur.unit) (hs : (f t.cur).slot = t.cur.slot) : OutsideKept s (modCur t f) := by
  obtain ⟨h1, h2, h3, h4, h5, h6, h7, h8⟩ := h
  refine ⟨?_, h2, h3, h4, h5, hc.trans h6, hu.trans h7, hs.trans h8⟩
  show { t with cur := _ } = _
  rw [h1]; rfl

theorem outsideKept_free {s t : State} (h : OutsideKept s t) (n : Nat) : OutsideKept s { t with free := n } := by
  obtain ⟨h1, h2, h3, h4, h5, h6, h7, h8⟩ := h
  refine ⟨?_, h2, h3, h4, h5, h6, h7, h8⟩
  show { t with free := _ } = _
  rw [h1]

/-- What a word notes of its operands. -/
def noteCur (s : State) (i : Instr) (k : Cur) : Cur :=
  { k with
    reads := k.reads ++ opdRegs (shape (curUnit s).mode (isCrew s.cur.unit) i).ops false
    writes := k.writes ++ opdRegs (shape (curUnit s).mode (isCrew s.cur.unit) i).ops true
    latch := k.latch || !(opdLatches (shape (curUnit s).mode (isCrew s.cur.unit) i).ops).isEmpty }

theorem noteOps_eq (s : State) (i : Instr) : noteOps s i = modCur s (noteCur s i) := rfl

theorem outsideKept_noteOps (s : State) (i : Instr) : OutsideKept s (noteOps s i) := by
  rw [noteOps_eq]
  exact outsideKept_modCur (outsideKept_refl s) (noteCur s i) rfl rfl rfl

theorem writeGroup_eq (s : State) (d : Dst) (wide : Bool) (r : Res) :
    writeGroup s d wide r = modCur (modCurUnit s fun t => clearRcl (wrGroup t d wide r.reg) d wide 0)
      fun k => { k with produced := true, result := (List.range 32).map fun l => (l, r.lat) } := rfl

theorem writeLanes_eq (s : State) (d : Dst) (wide : Bool) (rs : List (Nat × Res)) :
    writeLanes s d wide rs =
      modCur (modCurUnit s fun t => clearRcl (wrLanes t d wide rs) d wide (maskOf (rs.map Prod.fst)))
        fun k => { k with produced := true, result := rs.foldl (fun m r => mset m r.1 r.2.lat) k.result } := rfl

theorem curUnit_modCur {s : State} (f : Cur → Cur) (hc : (f s.cur).ctx = s.cur.ctx) (hu : (f s.cur).unit = s.cur.unit) :
    curUnit (modCur s f) = curUnit s := by
  unfold curUnit
  rw [getUnit_modCur, modCur_cur, hc, hu]

/-! ## Words that compute a value -/

theorem unitKept_of {a b c : Thread} (h1 : flightOf b = flightOf a)
    (h2 : b = { a with v := b.v, p := b.p, g := b.g, gp := b.gp, vrcl := b.vrcl, grcl := b.grcl }) (h3 : UnitKept b c) :
    UnitKept a c := by
  obtain ⟨e1, e2⟩ := h3
  refine ⟨e1.trans h1, ?_⟩
  rw [e2, h2]

theorem held_lane (t : Thread) (d : Dst) (wide : Bool) (rs : List (Nat × Res)) {l : Nat} {r : Res} (hd : d.isGroup = false)
    (hlt : ∀ r ∈ rs, r.1 < 32) (hn : (rs.map Prod.fst).Nodup) (h : (l, r) ∈ rs) :
    held (wrLanes t d wide rs) d wide l = asHeld d wide r.reg := by
  cases d with
  | v n =>
    cases wide with
    | false =>
      simp only [held, asHeld, Bool.false_eq_true, if_false]
      rw [rdV_wrLanes t _ _ rs hlt hn h (by simp [namesV])]
      simp [partV, setWidth_low]
    | true =>
      simp only [held, asHeld, if_true, rdVV]
      rw [rdV_wrLanes t _ _ rs hlt hn h (by simp [namesV]), rdV_wrLanes t _ _ rs hlt hn h (by simp [namesV])]
      simp only [partV]
      rw [if_neg (by omega), if_pos trivial]
      exact extract_append _
  | p k => simp only [held, asHeld]; rw [rdP_wrLanes t _ rs k hlt hn h]
  | none => rfl
  | acc k => rfl
  | reserved c => rfl
  | g n => cases hd
  | gp k => cases hd

theorem held_group (t : Thread) (d : Dst) (wide : Bool) (x : Dword) (hd : d.isGroup = true) :
    held (wrGroup t d wide x) d wide 0 = asHeld d wide x := by
  cases d with
  | g n =>
    cases wide with
    | false => simp [held, asHeld, wrGroup, rdG_wrG]
    | true =>
      have h : ¬ n.val = n.val + 1 := by omega
      simp only [held, asHeld, wrGroup, if_true, rdGG, wrGG, rdG_wrG, h, if_false]
      exact extract_append _
  | gp k => simp [held, asHeld, wrGroup, rdGp_wrGp]
  | v n => cases hd
  | p k => cases hd
  | none => cases hd
  | acc k => cases hd
  | reserved c => cases hd

theorem held_regs {t u : Thread} (d : Dst) (wide : Bool) (l : Nat) (hv : u.v = t.v) (hp : u.p = t.p) (hg : u.g = t.g)
    (hgp : u.gp = t.gp) : held u d wide l = held t d wide l := by
  cases d <;> simp only [held, rdVV, rdV, rdGG, rdG, rdP, rdGp, hv, hp, hg, hgp]

theorem latchAll_get (x : Dword) {l : Nat} (hl : l < 32) : mgetD ((List.range 32).map fun l => (l, x)) l 0 = x := by
  have : ∀ l, l < 32 → mgetD ((List.range 32).map fun l => (l, x)) l 0 = x := by
    intro l hl
    unfold mgetD
    have h : ∀ n, l < n → mget? ((List.range n).map fun l => (l, x)) l = some x := by
      intro n
      induction n with
      | zero => intro h; omega
      | succ n ih =>
        intro h
        rw [List.range_succ, List.map_append, mget?_append]
        by_cases h2 : l < n
        · rw [ih h2]; rfl
        · have : l = n := by omega
          subst this
          rw [mget?_none_of]
          · simp [mget?]
          · intro e he
            simp only [List.mem_map, List.mem_range] at he
            obtain ⟨a, ha, rfl⟩ := he
            dsimp only; omega
    rw [h 32 hl]; rfl
  exact this l hl

theorem latchAll_sorted (x : Dword) : Map.sorted ((List.range 32).map fun l => (l, x)) = true := by
  rw [Map.sorted_iff, List.map_map]
  have : (List.range 32).map (Prod.fst ∘ fun l => (l, x)) = List.range 32 := by
    rw [show (Prod.fst ∘ fun l => (l, x)) = id from rfl, List.map_id]
  rw [this]
  exact List.pairwise_lt_range

/-- The commit of an offset whose words have written registers and produced results; base is the unit as the words
left everything but its registers. -/
theorem commit_results {s m : State} {base : Thread} {d : Dst} {wide : Bool} {f : Bool → Nat → Res} (hf : Fresh s)
    (hk : m.cur = { s.cur with reads := m.cur.reads, writes := m.cur.writes, latch := m.cur.latch, produced := true,
                               result := m.cur.result })
    (ho : OutsideKept s m) (hs : Map.sorted m.cur.result = true)
    (hu : curUnit m = { base with v := (curUnit m).v, p := (curUnit m).p, g := (curUnit m).g, gp := (curUnit m).gp,
                                  vrcl := (curUnit m).vrcl, grcl := (curUnit m).grcl })
    (hb : base = { curUnit s with sticky := base.sticky, sr := base.sr, sg := base.sg })
    (hr : RegsKept s m d wide)
    (hw : if d.isGroup then
        held (curUnit m) d wide 0 = asHeld d wide (f true 0).reg ∧ ∀ l, l < 32 → mgetD m.cur.result l 0 = (f true 0).lat
      else ∀ l ∈ execLanes s, held (curUnit m) d wide l = asHeld d wide (f false l).reg ∧
        mgetD m.cur.result l 0 = (f false l).lat) :
    Written s (finishWord m) d wide f ∧ RegsKept s (finishWord m) d wide ∧ LatchesShifted s (finishWord m) ∧
      PlanesKept s (finishWord m) ∧ SlotAt s (finishWord m) (s.cur.off + 4) ∧ OutsideKept s (finishWord m) ∧
      UnitKept base (curUnit (finishWord m)) := by
  obtain ⟨f1, f2, f3, f4, f5, f6, f7, f8, f9, f10⟩ := hf
  have k1 : m.cur.lastWord = true := by rw [hk]; exact f1
  have k2 : m.cur.faults = [] := by rw [hk]; exact f2
  have k3 : m.cur.produced = true := by rw [hk]
  have k4 : m.cur.planes = [] := by rw [hk]; exact f8
  have k5 : m.cur.goto = none := by rw [hk]; exact f9
  have k6 : m.cur.stay = false := by rw [hk]; exact f10
  have k7 : m.cur.off = s.cur.off := by rw [hk]
  have k8 : m.cur.slot = s.cur.slot := ho.2.2.2.2.2.2.2
  have hq : (curUnit m).q = (curUnit s).q := by rw [hu, hb]
  have hpl : (curUnit m).plane = (curUnit s).plane := by rw [hu, hb]
  have hsl : ∀ b, slotOf (curUnit m) b = slotOf (curUnit s) b := by intro b; rw [hu, hb]; cases b <;> rfl
  rw [finishWord_commit k1 k2, commitOffset_eq]
  have hc : curUnit (modCurUnit m fun t => committed t m.cur) = committed (curUnit m) m.cur := curUnit_modCurUnit m _
  have hQ : ∀ l, l < 32 → rdQ (committed (curUnit m) m.cur) 0 l = mgetD m.cur.result l 0 := by
    intro l hl
    rw [← rdQ_shift_new (curUnit m) m.cur.result hl hs]
    unfold rdQ; rw [committed_q _ _ k3]
  have hH : ∀ l, held (committed (curUnit m) m.cur) d wide l = held (curUnit m) d wide l := fun l =>
    held_regs d wide l (committed_v _ _) (committed_p _ _) (committed_g _ _) (committed_gp _ _)
  refine ⟨?_, ?_, ?_, ?_, ?_, ?_, ?_⟩
  · unfold Written
    rw [hc]
    split
    · next hg =>
      rw [if_pos hg] at hw
      exact ⟨(hH 0).trans hw.1, fun l hl => (hQ l hl).trans (hw.2 l hl)⟩
    · next hg =>
      rw [if_neg hg] at hw
      intro l hl
      exact ⟨(hH l).trans (hw l hl).1, (hQ l (execLanes_lt hl)).trans (hw l hl).2⟩
  · unfold RegsKept
    rw [hc]
    simp only [rdV, rdG, rdP, rdGp, committed_v, committed_p, committed_g, committed_gp]
    exact hr
  · intro k l hk3 hl
    rw [hc]
    have : rdQ (committed (curUnit m) m.cur) (k + 1) l = rdQ (shiftLatches (curUnit m) m.cur.result) (k + 1) l := by
      unfold rdQ; rw [committed_q _ _ k3]
    rw [this, rdQ_shift_old _ _ hk3 hl]
    unfold rdQ; rw [hq]
  · unfold PlanesKept
    rw [hc, committed_plane _ _ k4, hpl]
  · unfold SlotAt SlotIs curSlot
    rw [hc]
    show slotOf (committed (curUnit m) m.cur) m.cur.slot = _ ∧ _
    rw [committed_slot _ _ k6, k5, k7, ← k8, committed_other, hsl, hsl]
    exact ⟨rfl, rfl⟩
  · exact outsideKept_modCurUnit ho _
  · rw [hc]
    refine unitKept_of ?_ hu (committed_unitKept _ _)
    rw [hu]; rfl

/-- The commit of an offset whose words have produced results: registers are as m has them. -/
theorem commit_latched {s m : State} (hf : Fresh s)
    (hk : m.cur = { s.cur with reads := m.cur.reads, writes := m.cur.writes, latch := m.cur.latch, produced := true,
                               result := m.cur.result })
    (ho : OutsideKept s m) (hs : Map.sorted m.cur.result = true)
    (hu : curUnit m = { curUnit s with v := (curUnit m).v, p := (curUnit m).p, g := (curUnit m).g, gp := (curUnit m).gp,
                                       vrcl := (curUnit m).vrcl, grcl := (curUnit m).grcl }) :
    (curUnit (finishWord m)).v = (curUnit m).v ∧ (curUnit (finishWord m)).p = (curUnit m).p ∧
    (curUnit (finishWord m)).g = (curUnit m).g ∧ (curUnit (finishWord m)).gp = (curUnit m).gp ∧
    (∀ l, l < 32 → rdQ (curUnit (finishWord m)) 0 l = mgetD m.cur.result l 0) ∧
    LatchesShifted s (finishWord m) ∧
      PlanesKept s (finishWord m) ∧ SlotAt s (finishWord m) (s.cur.off + 4) ∧ OutsideKept s (finishWord m) ∧
      UnitKept (curUnit s) (curUnit (finishWord m)) := by
  obtain ⟨f1, f2, f3, f4, f5, f6, f7, f8, f9, f10⟩ := hf
  have k1 : m.cur.lastWord = true := by rw [hk]; exact f1
  have k2 : m.cur.faults = [] := by rw [hk]; exact f2
  have k3 : m.cur.produced = true := by rw [hk]
  have k4 : m.cur.planes = [] := by rw [hk]; exact f8
  have k5 : m.cur.goto = none := by rw [hk]; exact f9
  have k6 : m.cur.stay = false := by rw [hk]; exact f10
  have k7 : m.cur.off = s.cur.off := by rw [hk]
  have k8 : m.cur.slot = s.cur.slot := ho.2.2.2.2.2.2.2
  have hq : (curUnit m).q = (curUnit s).q := by rw [hu]
  have hpl : (curUnit m).plane = (curUnit s).plane := by rw [hu]
  have hsl : ∀ b, slotOf (curUnit m) b = slotOf (curUnit s) b := by intro b; rw [hu]; cases b <;> rfl
  rw [finishWord_commit k1 k2, commitOffset_eq]
  have hc : curUnit (modCurUnit m fun t => committed t m.cur) = committed (curUnit m) m.cur := curUnit_modCurUnit m _
  refine ⟨by rw [hc, committed_v], by rw [hc, committed_p], by rw [hc, committed_g], by rw [hc, committed_gp], ?_, ?_, ?_, ?_, ?_, ?_⟩
  · intro l hl
    rw [hc, ← rdQ_shift_new (curUnit m) m.cur.result hl hs]
    unfold rdQ; rw [committed_q _ _ k3]
  · intro k l hk3 hl
    rw [hc]
    have : rdQ (committed (curUnit m) m.cur) (k + 1) l = rdQ (shiftLatches (curUnit m) m.cur.result) (k + 1) l := by
      unfold rdQ; rw [committed_q _ _ k3]
    rw [this, rdQ_shift_old _ _ hk3 hl]
    unfold rdQ; rw [hq]
  · unfold PlanesKept
    rw [hc, committed_plane _ _ k4, hpl]
  · unfold SlotAt SlotIs curSlot
    rw [hc]
    show slotOf (committed (curUnit m) m.cur) m.cur.slot = _ ∧ _
    rw [committed_slot _ _ k6, k5, k7, ← k8, committed_other, hsl, hsl]
    exact ⟨rfl, rfl⟩
  · exact outsideKept_modCurUnit ho _
  · rw [hc]
    refine unitKept_of ?_ hu (committed_unitKept _ _)
    rw [hu]
    rfl

/-- The same where the words change nothing else of the unit. -/
theorem commit_computes {s m : State} {d : Dst} {wide : Bool} {f : Bool → Nat → Res} (hf : Fresh s)
    (hk : m.cur = { s.cur with reads := m.cur.reads, writes := m.cur.writes, latch := m.cur.latch, produced := true,
                               result := m.cur.result })
    (ho : OutsideKept s m) (hs : Map.sorted m.cur.result = true)
    (hu : curUnit m = { curUnit s with v := (curUnit m).v, p := (curUnit m).p, g := (curUnit m).g, gp := (curUnit m).gp,
                                       vrcl := (curUnit m).vrcl, grcl := (curUnit m).grcl })
    (hr : RegsKept s m d wide)
    (hw : if d.isGroup then
        held (curUnit m) d wide 0 = asHeld d wide (f true 0).reg ∧ ∀ l, l < 32 → mgetD m.cur.result l 0 = (f true 0).lat
      else ∀ l ∈ execLanes s, held (curUnit m) d wide l = asHeld d wide (f false l).reg ∧
        mgetD m.cur.result l 0 = (f false l).lat) :
    Computes s (finishWord m) d wide f :=
  commit_results hf hk ho hs hu rfl hr hw

/-- The slot that issues after a commit: where it stays, as the word left it. -/
def slotAfter (u : State) (k : Cur) : Slot :=
  if k.stay then curSlot u else slotGone (curSlot u) (k.goto.getD (k.off + 4))

/-- An offset whose word has written no register and produced no result, and left the machine as u but for what is kept of
the offset. -/
theorem commit_rests {s u m : State} (hf : Fresh s) (hu : u.cur = s.cur)
    (hk : m.cur = { s.cur with reads := m.cur.reads, writes := m.cur.writes, latch := m.cur.latch, goto := m.cur.goto, stay := m.cur.stay })
    (hm : m = { u with cur := m.cur }) : Rests u (finishWord m) (slotAfter u m.cur) := by
  obtain ⟨f1, f2, f3, f4, f5, f6, f7, f8, f9, f10⟩ := hf
  have k1 : m.cur.lastWord = true := by rw [hk]; exact f1
  have k2 : m.cur.faults = [] := by rw [hk]; exact f2
  have k3 : m.cur.produced = false := by rw [hk]; exact f4
  have k4 : m.cur.planes = [] := by rw [hk]; exact f8
  have e1 : m.cur.ctx = u.cur.ctx := by rw [hk, hu]
  have e2 : m.cur.unit = u.cur.unit := by rw [hk, hu]
  have k8 : m.cur.slot = u.cur.slot := by rw [hk, hu]
  have ho : OutsideKept u m := by
    rw [hm]
    exact outsideKept_modCur (outsideKept_refl u) (fun _ => m.cur) e1 e2 k8
  have hcu : curUnit m = curUnit u := by
    unfold curUnit
    rw [e1, e2, hm]
    rfl
  have hc : curUnit (modCurUnit m fun t => committed t m.cur) = committed (curUnit u) m.cur := by
    rw [curUnit_modCurUnit, hcu]
  rw [finishWord_commit k1 k2, commitOffset_eq]
  unfold Rests PlanesKept SlotIs
  have hs : ∀ b, curSlot (modCurUnit m fun t => committed t m.cur) = b ↔ slotOf (committed (curUnit u) m.cur) m.cur.slot = b := by
    intro b
    unfold curSlot
    rw [hc]
    rfl
  rw [hc, hs]
  refine ⟨fun n l => ?_, fun n => ?_, fun n => ?_, fun n => ?_, committed_q_none _ _ k3, committed_plane _ _ k4, ⟨?_, ?_⟩,
    outsideKept_modCurUnit ho _, committed_unitKept _ _⟩
  · unfold rdV; rw [committed_v]
  · unfold rdG; rw [committed_g]
  · unfold rdP; rw [committed_p]
  · unfold rdGp; rw [committed_gp]
  · unfold slotAfter curSlot
    split
    · next h => rw [committed_stay _ _ _ h, k8]
    · next h =>
      rw [committed_slot _ _ (by simpa using h), k8]
      rfl
  · rw [← k8, committed_other]

/-- The slot goes on. -/
theorem commit_goes {s u m : State} (hf : Fresh s) (hu : u.cur = s.cur) (o : Word)
    (hk : m.cur = { s.cur with reads := m.cur.reads, writes := m.cur.writes, latch := m.cur.latch, goto := m.cur.goto })
    (ho : m.cur.goto.getD (s.cur.off + 4) = o) (hm : m = { u with cur := m.cur }) : GoesTo u (finishWord m) o := by
  have hst : m.cur.stay = false := by rw [hk]; exact hf.2.2.2.2.2.2.2.2.2
  have hoff : m.cur.off = s.cur.off := by rw [hk]
  have := commit_rests hf hu (by rw [hst, ← hf.2.2.2.2.2.2.2.2.2]; exact hk) hm
  unfold slotAfter at this
  rw [hst, hoff, ho] at this
  exact this

/-- A group-scope word or the lanes of Exec(slot) write their results, and the offset commits. -/
theorem write_results {s n : State} {base : Thread} (d : Dst) (wide : Bool) (f : Bool → Nat → Res) (hf : Fresh s)
    (hcur : n.cur = { s.cur with reads := n.cur.reads, writes := n.cur.writes, latch := n.cur.latch })
    (ho : OutsideKept s n) (hn : curUnit n = base)
    (hb : base = { curUnit s with sticky := base.sticky, sr := base.sr, sg := base.sg }) (m : State)
    (hm : m = if d.isGroup then writeGroup n d wide (f true 0)
      else writeLanes n d wide ((execLanes s).map fun l => (l, f false l))) :
    Written s (finishWord m) d wide f ∧ RegsKept s (finishWord m) d wide ∧ LatchesShifted s (finishWord m) ∧
      PlanesKept s (finishWord m) ∧ SlotAt s (finishWord m) (s.cur.off + 4) ∧ OutsideKept s (finishWord m) ∧
      UnitKept base (curUnit (finishWord m)) := by
  have hf' := hf
  obtain ⟨f1, f2, f3, f4, f5, f6, f7, f8, f9, f10⟩ := hf
  have hres0 : n.cur.result = [] := by rw [hcur]; exact f3
  have hbv : base.v = (curUnit s).v := by rw [hb]
  have hbp : base.p = (curUnit s).p := by rw [hb]
  have hbg : base.g = (curUnit s).g := by rw [hb]
  have hbgp : base.gp = (curUnit s).gp := by rw [hb]
  by_cases hg : d.isGroup = true
  · rw [if_pos hg] at hm
    subst hm
    have hcu : curUnit (writeGroup n d wide (f true 0)) = clearRcl (wrGroup base d wide (f true 0).reg) d wide 0 := by
      rw [writeGroup_eq, curUnit_modCur _ rfl rfl, curUnit_modCurUnit, hn]
    have hfree : wrGroup base d wide (f true 0).reg =
        { base with g := (wrGroup base d wide (f true 0).reg).g, gp := (wrGroup base d wide (f true 0).reg).gp } := by
      cases d <;> first | rfl | (cases wide <;> rfl)
    have hcl : curUnit (writeGroup n d wide (f true 0)) =
        { base with g := (wrGroup base d wide (f true 0).reg).g, gp := (wrGroup base d wide (f true 0).reg).gp,
                    vrcl := (curUnit (writeGroup n d wide (f true 0))).vrcl,
                    grcl := (curUnit (writeGroup n d wide (f true 0))).grcl } := by
      rw [hcu, clearRcl_eq, hfree]
    apply commit_results hf' _ _ _ _ hb
    · unfold RegsKept
      rw [hcl]
      refine ⟨fun n l _ _ => by unfold rdV; rw [hbv], fun n hn => ?_, fun k l _ _ => by unfold rdP; rw [hbp], fun k hk => ?_⟩
      · have hsame : rdG base n = rdG (curUnit s) n := by unfold rdG; rw [hbg]
        rw [← hsame]
        cases d with
        | g j =>
          cases wide with
          | false =>
            simp only [namesG, Bool.false_eq_true, false_and, or_false] at hn
            show rdG (wrG base j.val _) n = _
            rw [rdG_wrG, if_neg hn]
          | true =>
            simp only [namesG, true_and, not_or] at hn
            show rdG (wrGG base j.val _) n = _
            unfold wrGG
            rw [rdG_wrG, if_neg hn.2, rdG_wrG, if_neg hn.1]
        | gp j => rfl
        | v j => rfl
        | p j => rfl
        | none => rfl
        | acc j => rfl
        | reserved c => rfl
      · have hsame : rdGp base k.val = rdGp (curUnit s) k.val := by unfold rdGp; rw [hbgp]
        rw [← hsame]
        cases d with
        | gp j =>
          show rdGp (wrGp base j.val _) k.val = _
          rw [rdGp_wrGp, if_neg]
          intro e; exact hk (by rw [Fin.ext e])
        | g j => cases wide <;> rfl
        | v j => rfl
        | p j => rfl
        | none => rfl
        | acc j => rfl
        | reserved c => rfl
    · rw [if_pos hg]
      refine ⟨?_, fun l hl => latchAll_get _ hl⟩
      rw [← held_group base d wide (f true 0).reg hg]
      apply held_regs
      · rw [hcl, hfree]
      · rw [hcl, hfree]
      · rw [hcl]
      · rw [hcl]
    · have e : (writeGroup n d wide (f true 0)).cur =
          { n.cur with produced := true, result := (List.range 32).map fun l => (l, (f true 0).lat) } := rfl
      rw [e, hcur]
    · rw [writeGroup_eq]
      exact outsideKept_modCur (outsideKept_modCurUnit ho _) (fun k => { k with produced := true, result := _ }) rfl rfl rfl
    · exact latchAll_sorted _
    · rw [hcl]
  · rw [if_neg hg] at hm
    subst hm
    have hg : d.isGroup = false := by simpa using hg
    let rs : List (Nat × Res) := (execLanes s).map fun l => (l, f false l)
    have hfst : rs.map Prod.fst = execLanes s := by
      show ((execLanes s).map fun l => (l, f false l)).map Prod.fst = _
      rw [List.map_map]
      exact List.map_id _
    have hlt : ∀ r ∈ rs, r.1 < 32 := by
      intro r hr
      exact execLanes_lt (s := s) (hfst ▸ List.mem_map_of_mem hr)
    have hnd : (rs.map Prod.fst).Nodup := by rw [hfst]; exact execLanes_nodup s
    have hcu : curUnit (writeLanes n d wide rs) = clearRcl (wrLanes base d wide rs) d wide (maskOf (rs.map Prod.fst)) := by
      rw [writeLanes_eq, curUnit_modCur _ rfl rfl, curUnit_modCurUnit, hn]
    have hcl : curUnit (writeLanes n d wide rs) =
        { base with v := (wrLanes base d wide rs).v, p := (wrLanes base d wide rs).p,
                    vrcl := (curUnit (writeLanes n d wide rs)).vrcl,
                    grcl := (curUnit (writeLanes n d wide rs)).grcl } := by
      rw [hcu, clearRcl_eq, wrLanes_eq]
    have hres : (writeLanes n d wide rs).cur.result = rs.foldl (fun m r => mset m r.1 r.2.lat) [] := by
      show rs.foldl (fun m r => mset m r.1 r.2.lat) n.cur.result = _
      rw [hres0]
    apply commit_results hf' _ _ _ _ hb
    · unfold RegsKept
      rw [hcl]
      refine ⟨fun n l hl hh => ?_, fun n _ => by unfold rdG; rw [hbg], fun k l hl hh => ?_, fun n _ => by unfold rdGp; rw [hbgp]⟩
      · have hsame : rdV base n l = rdV (curUnit s) n l := by unfold rdV; rw [hbv]
        rw [← hsame]
        exact rdV_wrLanes_other base d wide rs hl hlt (hfst ▸ hh)
      · have hsame : rdP base k.val = rdP (curUnit s) k.val := by unfold rdP; rw [hbp]
        rw [← hsame]
        exact rdP_wrLanes_other base d wide rs k hl hlt (hfst ▸ hh)
    · rw [if_neg (by simp [hg])]
      intro l hl
      have hmem : (l, f false l) ∈ rs := List.mem_map_of_mem (f := fun l => (l, f false l)) hl
      constructor
      · rw [← held_lane base d wide rs hg hlt hnd hmem]
        apply held_regs
        · rw [hcl]
        · rw [hcl]
        · rw [hcl, wrLanes_eq]
        · rw [hcl, wrLanes_eq]
      · rw [hres]
        exact mgetD_results rs Res.lat [] hnd hmem
    · have e : (writeLanes n d wide rs).cur =
          { n.cur with produced := true, result := rs.foldl (fun m r => mset m r.1 r.2.lat) n.cur.result } := rfl
      show (writeLanes n d wide rs).cur = _
      rw [e, hcur]
    · rw [writeLanes_eq]
      exact outsideKept_modCur (outsideKept_modCurUnit ho _) (fun k => { k with produced := true, result := _ }) rfl rfl rfl
    · rw [hres]; exact sorted_results rs Res.lat [] rfl
    · rw [hcl]

/-- A word that computes a value, once or in each lane of Exec(slot) (14 R344 to R346; 17 R387). -/
theorem valueWord_computes (i : Instr) {s : State} (d : Dst) (wide : Bool) (f : Bool → Nat → Res) (hf : Fresh s) :
    Computes s (finishWord (valueWord (noteOps s i) d wide f)) d wide f :=
  write_results (n := noteOps s i) d wide f hf rfl (outsideKept_noteOps s i) (curUnit_noteOps s i) rfl _ rfl

/-- The same where the word has read the destination none (notes/assumptions/11.md). -/
theorem spendFree_computes (i : Instr) {s : State} (d : Dst) (wide : Bool) (f : Bool → Nat → Res) (hf : Fresh s) :
    Computes s (finishWord (spendFree (valueWord (noteOps s i) d wide f) d)) d wide f := by
  by_cases hd : d = .none
  · have e : spendFree (valueWord (noteOps s i) d wide f) d =
        valueWord { noteOps s i with free := s.free + 32 } d wide f := by
      unfold spendFree; rw [if_pos hd, hd]; rfl
    rw [e]
    exact write_results (n := { noteOps s i with free := s.free + 32 }) d wide f hf rfl (outsideKept_free (outsideKept_noteOps s i) _) rfl rfl _ rfl
  · unfold spendFree; rw [if_neg hd]
    exact valueWord_computes i d wide f hf

/-! ## Floating words -/

theorem filter_all {A : Type} {l : List A} {p : A → Bool} (h : ∀ x ∈ l, p x = true) : l.filter p = l :=
  List.filter_eq_self.mpr h

theorem filter_none {A : Type} {l : List A} {p : A → Bool} (h : ∀ x ∈ l, p x = false) : l.filter p = [] := by
  rw [List.filter_eq_nil_iff]
  intro x hx; rw [h x hx]; simp

/-- The generators after the steps of some lanes. -/
theorem laneSr_steps (t u : Thread) (b : Bool) (g : Nat → Bool) (ls : List Nat) (m : Map Word) (l : Nat) (hn : ls.Nodup)
    (hc : u.crewId = t.crewId) (hm : u.num = t.num)
    (hu : u.sr = ls.foldl (fun m l => if b && g l then mset m l (srStep (laneSr t l)) else m) m) :
    laneSr u l = if l ∈ ls ∧ b = true ∧ g l = true then srStep (laneSr t l)
      else laneSr { t with sr := m } l := by
  have hlc : laneCrew u l = laneCrew t l := by unfold laneCrew; rw [hc, hm]
  have key : ∀ (d : Word), mgetD (ls.foldl (fun m l => if b && g l then mset m l (srStep (laneSr t l)) else m) m) l d =
      if l ∈ ls ∧ b = true ∧ g l = true then srStep (laneSr t l) else mgetD m l d := by
    intro d
    clear hu
    induction ls generalizing m with
    | nil => simp
    | cons a rest ih =>
      rw [List.nodup_cons] at hn
      rw [List.foldl_cons, ih _ hn.2]
      by_cases hl : l = a
      · subst hl
        have hnot : ¬ (l ∈ rest ∧ b = true ∧ g l = true) := fun hh => hn.1 hh.1
        rw [if_neg hnot]
        by_cases hbg : b = true ∧ g l = true
        · rw [if_pos (by simp [hbg]), mgetD_mset, if_pos rfl, if_pos ⟨List.mem_cons_self, hbg⟩]
        · rw [if_neg (by simpa using hbg), if_neg (fun hh => hbg hh.2)]
      · have hiff : (l ∈ a :: rest ∧ b = true ∧ g l = true) ↔ (l ∈ rest ∧ b = true ∧ g l = true) := by
          simp [List.mem_cons, hl]
        have hval : mgetD (if b && g a then mset m a (srStep (laneSr t a)) else m) l d = mgetD m l d := by
          split
          · rw [mgetD_mset, if_neg hl]
          · rfl
        rw [hval]
        by_cases hin : l ∈ rest ∧ b = true ∧ g l = true
        · rw [if_pos hin, if_pos (hiff.mpr hin)]
        · rw [if_neg hin, if_neg (fun hh => hin (hiff.mp hh))]
  unfold laneSr
  rw [hu, key, hlc]
  rfl

/-- The lanes of a floating word, by their outcomes. -/
def floatTail (s : State) (d : Dst) (wide : Bool) (en : Flags) (sr : Bool) (outs : List (Nat × FOut)) : State :=
  let t := curUnit s
  let bad := outs.filter fun o => decide (o.2.flags &&& en ≠ 0)
  let good := outs.filter fun o => decide (o.2.flags &&& en = 0)
  let s := modCurUnit s fun t =>
    { t with
      sticky := t.sticky ||| orFlags (good.map fun o => o.2.flags)
      sr := good.foldl (fun m o => if sr && o.2.step then mset m o.1 (srStep (laneSr t o.1)) else m) t.sr }
  let s := writeLanes s d wide (good.map fun o => (o.1, o.2.res))
  if bad.isEmpty then s
  else
    let all := orFlags (bad.map fun o => o.2.flags)
    let p := lowPlane t (maskOf (bad.map Prod.fst))
    let low := orFlags ((bad.filter fun o => decide (lanePlane t o.1 % 8 = p)).map fun o => o.2.flags)
    addFault s (floatFault s (low &&& en) all (maskOf (bad.map Prod.fst)))

theorem floatWord_tail {s : State} {d : Dst} (h : d.isGroup = false) (wide : Bool) (rm : Nat)
    (f : Bool → Nat → RCtx → FOut) :
    floatWord s d wide rm f = floatTail s d wide (trapEnables (curUnit s).mode) (decide (rm = 5))
      ((execLanes s).map fun l => (l, floatOut s rm f false l)) := by
  unfold floatWord
  rw [if_neg (by simp [h])]; rfl

theorem floatTail_good (s : State) (d : Dst) (wide : Bool) (en : Flags) (sr : Bool) (outs : List (Nat × FOut))
    (h : ∀ x ∈ outs, x.2.flags &&& en = 0) :
    floatTail s d wide en sr outs = writeLanes (modCurUnit s fun t =>
      { t with
        sticky := t.sticky ||| orFlags (outs.map fun o => o.2.flags)
        sr := outs.foldl (fun m o => if sr && o.2.step then mset m o.1 (srStep (laneSr t o.1)) else m) t.sr })
      d wide (outs.map fun o => (o.1, o.2.res)) := by
  have h1 : (outs.filter fun o => decide (o.2.flags &&& en ≠ 0)) = [] :=
    filter_none fun x hx => decide_eq_false fun hh => hh (h x hx)
  have h2 : (outs.filter fun o => decide (o.2.flags &&& en = 0)) = outs := filter_all fun x hx => decide_eq_true (h x hx)
  unfold floatTail
  rw [h1, h2]; rfl

/-- A floating word at which no lane traps (13 R334; 15 R372, R374). -/
theorem floatWord_computes (i : Instr) {s : State} (d : Dst) (wide : Bool) (rm : Nat) (f : Bool → Nat → RCtx → FOut)
    (hf : Fresh s) (ht : NoTrap s d (floatOut s rm f)) :
    FloatComputes s (finishWord (floatWord (noteOps s i) d wide rm f)) d wide rm (floatOut s rm f) := by
  unfold NoTrap at ht
  by_cases hg : d.isGroup = true
  · rw [if_pos hg] at ht
    let o := floatOut s rm f true 0
    let n := modCurUnit (noteOps s i) fun t =>
      { t with sticky := t.sticky ||| o.flags, sg := if decide (rm = 5) && o.step then srStep (curUnit s).sg else t.sg }
    have e : floatWord (noteOps s i) d wide rm f = writeGroup n d wide o.res := by
      unfold floatWord
      simp only [hg, if_true]
      rw [if_neg]
      · rfl
      · intro hh; exact hh ht
    rw [e]
    have hn : curUnit n = { curUnit s with
        sticky := (curUnit s).sticky ||| o.flags
        sg := if decide (rm = 5) && o.step then srStep (curUnit s).sg else (curUnit s).sg } := by
      show curUnit (modCurUnit (noteOps s i) _) = _
      rw [curUnit_modCurUnit, curUnit_noteOps]
    obtain ⟨r1, r2, r3, r4, r5, r6, r7⟩ := write_results (n := n) d wide (fun g l => (floatOut s rm f g l).res) hf rfl
      (outsideKept_modCurUnit (outsideKept_noteOps s i) _) hn rfl (writeGroup n d wide o.res) (by rw [if_pos hg])
    have hk := r7.2
    have hst : (curUnit (finishWord (writeGroup n d wide o.res))).sticky = (curUnit s).sticky ||| o.flags := by rw [hk]
    have hsg : (curUnit (finishWord (writeGroup n d wide o.res))).sg =
        if decide (rm = 5) && o.step then srStep (curUnit s).sg else (curUnit s).sg := by rw [hk]
    have hsr : (curUnit (finishWord (writeGroup n d wide o.res))).sr = (curUnit s).sr := by rw [hk]
    have hcr : (curUnit (finishWord (writeGroup n d wide o.res))).crewId = (curUnit s).crewId := by rw [hk]
    have hnm : (curUnit (finishWord (writeGroup n d wide o.res))).num = (curUnit s).num := by rw [hk]
    refine ⟨r1, r2, r3, r4, r5, r6, ?_, ?_, ?_, ?_⟩
    · rw [hst, hsg, hsr]; exact r7
    · rw [hst, if_pos hg]
    · rw [hsg]
      show (if decide (rm = 5) && o.step then _ else _) = if d.isGroup = true ∧ rm = 5 ∧ o.step = true then _ else _
      by_cases h5 : rm = 5 <;> cases o.step <;> simp [hg, h5]
    · intro l
      rw [if_neg (by simp [hg])]
      unfold laneSr laneCrew
      rw [hsr, hcr, hnm]
  · rw [if_neg hg] at ht
    have hg : d.isGroup = false := by simpa using hg
    let n := modCurUnit (noteOps s i) fun t =>
      { t with sticky := t.sticky ||| orFlags ((execLanes s).map fun l => (floatOut s rm f false l).flags)
               sr := (execLanes s).foldl (fun m l => if decide (rm = 5) && (floatOut s rm f false l).step then
                 mset m l (srStep (laneSr (curUnit s) l)) else m) t.sr }
    have e : floatWord (noteOps s i) d wide rm f =
        writeLanes n d wide ((execLanes s).map fun l => (l, (floatOut s rm f false l).res)) := by
      rw [floatWord_tail hg, floatTail_good]
      · simp only [List.map_map, List.foldl_map]
        rfl
      · intro x hx
        simp only [List.mem_map] at hx
        obtain ⟨l, hl, rfl⟩ := hx
        exact ht l hl
    rw [e]
    have hn : curUnit n = { curUnit s with
        sticky := (curUnit s).sticky ||| orFlags ((execLanes s).map fun l => (floatOut s rm f false l).flags)
        sr := (execLanes s).foldl (fun m l => if decide (rm = 5) && (floatOut s rm f false l).step then
                 mset m l (srStep (laneSr (curUnit s) l)) else m) (curUnit s).sr } := by
      show curUnit (modCurUnit (noteOps s i) _) = _
      rw [curUnit_modCurUnit, curUnit_noteOps]
    obtain ⟨r1, r2, r3, r4, r5, r6, r7⟩ := write_results (n := n) d wide (fun g l => (floatOut s rm f g l).res) hf rfl
      (outsideKept_modCurUnit (outsideKept_noteOps s i) _) hn rfl
      (writeLanes n d wide ((execLanes s).map fun l => (l, (floatOut s rm f false l).res)))
      (by rw [if_neg (by simp [hg])])
    have hk := r7.2
    generalize finishWord (writeLanes n d wide ((execLanes s).map fun l => (l, (floatOut s rm f false l).res))) = t at *
    refine ⟨r1, r2, r3, r4, r5, r6, ?_, ?_, ?_, ?_⟩
    · have hst : (curUnit t).sticky = (curUnit s).sticky ||| orFlags ((execLanes s).map fun l => (floatOut s rm f false l).flags) := by rw [hk]
      have hsg : (curUnit t).sg = (curUnit s).sg := by rw [hk]
      have hsr : (curUnit t).sr = (execLanes s).foldl (fun m l => if decide (rm = 5) && (floatOut s rm f false l).step then
                 mset m l (srStep (laneSr (curUnit s) l)) else m) (curUnit s).sr := by rw [hk]
      rw [hst, hsg, hsr]; exact r7
    · rw [if_neg (by simp [hg]), hk]
    · rw [if_neg (by simp [hg]), hk]
    · intro l
      rw [laneSr_steps (curUnit s) (curUnit t) (decide (rm = 5)) (fun l => (floatOut s rm f false l).step) (execLanes s)
        (curUnit s).sr l (execLanes_nodup s) (by rw [hk]) (by rw [hk]) (by rw [hk])]
      by_cases h : l ∈ execLanes s ∧ rm = 5 ∧ (floatOut s rm f false l).step = true
      · rw [if_pos ⟨h.1, decide_eq_true h.2.1, h.2.2⟩, if_pos ⟨hg, h⟩]
      · rw [if_neg (fun hh => h ⟨hh.1, of_decide_eq_true hh.2.1, hh.2.2⟩), if_neg (fun hh => h hh.2)]

/-! ## Putting a statement together -/

/-- A word that passes its checks has a legal form. -/
theorem ok_of_wordFault {s : State} {i : Instr} (h : wordFault s i = none) :
    (shape (curUnit s).mode (isCrew s.cur.unit) i).ok = true := by
  unfold wordFault at h
  split at h
  · cases h
  · split at h
    · cases h
    · next h1 h2 =>
      simp only [Bool.not_eq_true, Bool.not_eq_false'] at h2
      unfold operandsOk at h2
      simp only [Bool.and_eq_true] at h2
      exact h2.1.1.1.1.1.1

/-- A word that passes its checks answers what its effect makes of the state. -/
theorem answers_word {i : Instr} {s : State} {e : State → State} {P : State → Prop} (he : exec i s = runWord i s e)
    (h : Runs i s) (hp : P (finishWord (e (noteOps s i)))) : Answers i s P := ⟨_, he.trans (runWord_ok h.1 _), hp⟩

theorem notGroup_of_vn {d : Dst} (h : d.isVN = true) : d.isGroup = false := by
  cases d <;> first | rfl | cases h

/-- A group-scope result. -/
theorem writeGroup_computes (i : Instr) {s : State} (d : Dst) (wide : Bool) (r : Res) (hf : Fresh s) (hd : d.isGroup = true) :
    Computes s (finishWord (writeGroup (noteOps s i) d wide r)) d wide fun _ _ => r := by
  have := valueWord_computes i d wide (fun _ _ => r) hf
  unfold valueWord at this
  rw [hd] at this
  exact this

/-- Lane exchange. -/
theorem exchange_computes (i : Instr) {s : State} (d : Dst) (a b : Src) (pick : Nat → Nat → Option Nat) (hf : Fresh s)
    (hd : d.isGroup = false) :
    Computes s (finishWord (exchange (noteOps s i) d a b pick)) d (isWide (ictx s).ty)
      fun _ l => resTy (ictx s).ty (srcTy s false ((pick l (srcCtl s false l b)).getD l) a (ictx s).ty) := by
  have := valueWord_computes i d (isWide (ictx s).ty)
    (fun _ l => resTy (ictx s).ty (srcTy s false ((pick l (srcCtl s false l b)).getD l) a (ictx s).ty)) hf
  unfold valueWord at this
  rw [hd] at this
  exact this

end Sys2Proof.Machine
end

