-- ==== Sys2Proof/Tests/Slice0.lean ====
section
/-! SUPPORT. Tests: states that meet the premises of every obligation, words written out from the spec's encodings,
ill-formed terms for each well-formedness check, and the values of the spec's own examples. -/

namespace Sys2Proof.Tests
open Sys2Proof Sys2Proof.Machine Sys2Proof.Safety

set_option Elab.async false

/-! ## States for the tests -/

/-- A unit with all lanes in S0 at offset 0x40. -/
def thread : Thread := { live := true, s0 := { occ := true, mask := 0xFFFFFFFF, off := 0x40 } }
/-- A crew in mode m, with some registers. -/
def crew (m : Word) (g : Map Word) (v : Map Word) : Thread := { thread with mode := m, g := g, v := v }
/-- The first 8 GiB of the context's addresses, mapped to the endpoint's memory. -/
def flat : Xlat :=
  { asid := 0, va := 0, size := 2, kind := 1, pa := 0, r := true, w := true, x := true, ten := false, tclass := 0, ace := false,
    rep := none, wid := 0 }
/-- A ferry of one crew with every register row, the local-store bank and eight tiles. -/
def ferry : Ferry := { lsLen := 0x20000, acc := 8, crewSlots := [0] }
/-- The context of that ferry, in bank 0 of core 0. -/
def ctx (us : Map Thread) : Ctx := { live := true, place := .bank 0 0, ferries := [(0, ferry)], units := us }
/-- Unit u issues the word at 0x40 of its first slot; die 0 is active. -/
def W (u : Nat) (t : Thread) : State :=
  { State.reset with
    ctl := [(8, 1)], ctxs := [(0, ctx [(u, t)])], cores := [(0, { active := some 0, tlb := [flat] })]
    cur := { unit := u, off := 0x40, lanes := 0xFFFFFFFF } }
/-- What an answer's next state shows. -/
def shows {A : Type} (a : Ans) (f : State → A) : Option A :=
  match a with
  | .next t => some (f t)
  | _ => none

theorem fresh_W (u : Nat) (t : Thread) : Fresh (W u t) := ⟨rfl, rfl, rfl, rfl, rfl, rfl, rfl, rfl, rfl, rfl⟩

/-- The words of a list pass their checks at a state. -/
def pass (s : State) (l : List Instr) : Bool := l.all fun i => decide (wordFault s i = none)

theorem runs_of {s : State} {l : List Instr} (hf : Fresh s) (h : pass s l = true) : ∀ i ∈ l, Runs i s := by
  intro i hi
  exact ⟨of_decide_eq_true (List.all_eq_true.mp h i hi), hf⟩

theorem noTrap_of {s : State} (h : trapEnables (curUnit s).mode = 0) (d : Dst) (o : Bool → Nat → FOut) : NoTrap s d o := by
  unfold NoTrap; rw [h]; split
  · exact BitVec.and_zero
  · intro l _; exact BitVec.and_zero

/-! ## Witnesses: words that compute a value -/

/-- The words of the integer statements run: in lanes, and in group scope. -/
theorem test_meets_integer :
    (∀ i ∈ ([.add (.v 1) (.v 2) (.v 3), .add (.g 1) (.g 2) (.g 3), .addi (.v 1) (.v 2) 0x80, .subw (.v 1) (.v 2) (.v 3), .mul (.v 1) (.v 2) (.v 3),
        .mulh (.v 1) (.v 2) (.v 3), .minw (.v 1) (.v 2) (.v 3), .maxw (.v 1) (.v 2) (.v 3), .addc (.v 1) (.v 2) (.v 3),
        .div (.v 1) (.v 2) .zero, .rem .none (.v 2) (.v 3), .abs (.v 1) (.v 2), .neg (.g 1) (.g 2)] : List Instr), Runs i (W 0 thread)) ∧
    (∀ i ∈ ([.andw (.v 1) (.v 2) (.v 3), .andi (.v 1) (.v 2) 0xFF, .orw (.v 1) (.v 2) (.v 3), .ori (.v 1) (.v 2) 1, .xorw (.v 1) (.v 2) (.v 3),
        .xori (.v 1) (.v 2) 1, .andn (.v 1) (.v 2) (.v 3), .notw (.v 1) (.v 2), .mov (.v 1) .lane, .mov (.g 5) .zero] : List Instr),
      Runs i (W 0 thread)) ∧
    (∀ i ∈ ([.shl (.v 1) (.v 2) (.v 3), .shli (.v 1) (.v 2) 32, .shr (.v 1) (.v 2) (.v 3), .shri (.v 1) (.v 2) 255, .sra (.v 1) (.v 2) (.v 3),
        .srai (.v 1) (.v 2) 31, .rol (.v 1) (.v 2) (.v 3), .clz (.v 1) (.v 2), .popc (.v 1) (.v 2), .brev (.v 1) (.v 2),
        .bfx (.v 1) (.v 2) (.v 3), .bfi (.v 1) (.v 2) (.v 3)] : List Instr), Runs i (W 0 thread)) ∧
    (∀ i ∈ ([.mad (.v 1) (.v 2) (.v 3), .clamp (.v 1) (.v 2) (.v 3), .sel (.v 1) (.v 2) (.p 0), .sel (.g 1) (.g 2) (.gp 0), .lih (.v 1) 0xFFFF,
        .lih (.g 1) 1, .li (.v 1) 0x8000, .lea (.v 2) (.v 4) (.v 6), .mad .none (.v 2) (.v 3)] : List Instr), Runs i (W 0 thread)) :=
  ⟨runs_of (fresh_W _ _) (by decide +kernel), runs_of (fresh_W _ _) (by decide +kernel), runs_of (fresh_W _ _) (by decide +kernel), runs_of (fresh_W _ _) (by decide +kernel)⟩

/-- A floating TYPE at which arithmetic words are no instruction. -/
theorem test_meets_integer_types : 7 < (ictx (W 0 (crew 0x5000 [] []))).ty := by decide +kernel

theorem test_meets_predicates :
    ∀ i ∈ ([.pand (.p 1) (.p 2) (.p 3), .por (.gp 1) (.gp 2) .zero, .pxor (.p 1) (.p 2) (.gp 3), .pnot (.p 1) (.p 2), .pmov (.p 1) (.p 2),
        .psetg (.gp 1) (.g 3), .pgetg (.g 3), .cmpeq (.p 1) (.v 2) (.v 3), .cmpne (.gp 1) (.g 2) (.g 3), .cmplt (.p 1) (.v 2) (.v 3),
        .cmple (.p 1) (.v 2) (.v 3), .cmpeqi (.p 1) (.v 2) 0xFF, .cmplti (.p 1) .lane 8] : List Instr), Runs i (W 0 thread) :=
  runs_of (fresh_W _ _) (by decide +kernel)

theorem test_meets_lanes :
    ∀ i ∈ ([.vget (.g 1) (.v 2) (.g 3), .vput (.v 1) (.g 2) (.g 3), .vote (.g 1) (.p 7), .vote (.g 1) (.gp 3), .shfl (.v 1) (.v 2) (.v 3),
        .shflx (.v 1) (.v 2) (.v 3), .shflup (.v 1) (.v 2) (.v 3), .shfldn .none (.v 1) (.g 8), .bcast (.v 1) (.v 2) (.g 3),
        .cred (.g 6) .lane 0, .cred (.g 6) (.v 1) 5] : List Instr), Runs i (W 0 thread) :=
  runs_of (fresh_W _ _) (by decide +kernel)

/-- Floating words run under TYPE f32 with no trap enabled, so that no outcome traps. -/
theorem test_meets_floating :
    (∀ i ∈ ([.fadd (.v 1) (.v 2) (.v 3), .fadd (.g 1) (.g 2) (.g 3), .fsub (.v 1) (.v 2) (.v 3), .fmul (.v 1) (.v 2) (.v 3),
        .fdiv (.v 1) (.v 2) (.v 3), .fsqrt (.v 1) (.v 2), .fma (.v 1) (.v 2) (.v 3), .fms (.v 1) (.v 2) (.v 3), .fnma .none (.v 2) (.v 3),
        .fmin (.v 1) (.v 2) (.v 3), .fmax (.v 1) (.v 2) (.v 3), .fabs (.v 1) (.v 2), .fneg (.v 1) (.v 2), .fcps (.v 1) (.v 2) (.v 3),
        .fcmpeq (.p 1) (.v 2) (.v 3), .fcmplt (.gp 1) (.g 2) (.g 3), .fcmple (.p 1) (.v 2) (.v 3), .fcmpun (.p 1) (.v 2) (.v 3),
        .fclass (.v 1) (.v 2), .frnd (.v 1) (.v 2), .fscale (.v 1) (.v 2) (.v 3), .fgete (.v 1) (.v 2), .fcvt (.v 2) (.v 4) 11 0,
        .fcvti (.v 1) (.v 2) 2 4, .frcp (.v 1) (.v 2), .frsq (.v 1) (.v 2), .fexp2 (.v 1) (.v 2), .flog2 (.v 1) (.v 2),
        .fsin (.v 1) (.v 2), .fcos (.v 1) (.v 2), .ftanh (.v 1) (.v 2)] : List Instr), Runs i (W 0 (crew 0x5000 [] []))) ∧
    (∀ i ∈ ([.icvtf (.v 1) (.v 2) 10 5] : List Instr), Runs i (W 0 thread)) ∧
    (∀ i ∈ ([.fdot4 (.v 7) (.v 6) (.v 5), .packn (.v 6) (.v 1) 3 0, .unpkn (.v 8) (.v 6) 3] : List Instr), Runs i (W 0 (crew 0x7800 [] []))) ∧
    (∀ i ∈ ([.fdot2 (.v 7) (.v 6) (.v 5)] : List Instr), Runs i (W 0 (crew 0x4000 [] []))) ∧
    (∀ i ∈ ([.ternp (.v 1) (.v 2) (.v 3), .ternu (.v 1) (.v 2) (.v 3)] : List Instr), Runs i (W 0 (crew 0x5000 [] []))) ∧
    (∀ d o, NoTrap (W 0 (crew 0x5000 [] [])) d o) :=
  ⟨runs_of (fresh_W _ _) (by decide +kernel), runs_of (fresh_W _ _) (by decide +kernel), runs_of (fresh_W _ _) (by decide +kernel), runs_of (fresh_W _ _) (by decide +kernel),
    runs_of (fresh_W _ _) (by decide +kernel), noTrap_of (by decide +kernel)⟩

/-- The premises about numbers: each rounding mode, a value that a type holds, special and positive operands. -/
theorem test_meets_numbers :
    isFB 10 = true ∧ valOf 10 false false 0x3F800000 = .fin false 0x800000 (-23) ∧ isIeee 8 = true ∧
    isFB 12 = true ∧ valOf 12 false false 0x01 = .fin false 1 (-63) ∧
    ltNum (.fin false 1 20) (.fin false 3 20) = true ∧ (Machine.Num.fin true 3 1).isNan = false ∧ (Machine.Num.fin true 3 1).isInf = false := by
  decide +kernel

theorem test_meets_rounding_state :
    ∀ i ∈ ([.srseed (.g 2) (.g 4), .srseed (.v 2) (.v 4), .srseed .none (.v 1), .fflags (.g 2) .zero] : List Instr), Runs i (W 0 thread) :=
  runs_of (fresh_W _ _) (by decide +kernel)

/-- Under enabled traps, a lane divides by zero, and so does a group. -/
theorem test_meets_float_traps :
    let s := W 0 (crew 0x01F05000 [(2, 0x3F800000)] [(32 * 2 + 3, 0x3F800000)])
    (∀ i ∈ ([.fdiv (.v 1) (.v 2) (.v 3), .fdiv (.g 1) (.g 2) (.g 3), .fadd (.v 1) (.v 2) (.v 3), .fcmplt (.p 1) (.v 2) (.v 3)] : List Instr), Runs i s) ∧
    chPos (noteOps s (.fdiv (.v 1) (.v 2) (.v 3))) = 0 ∧ 3 ∈ execLanes s ∧
    (divNum (numIn s false 3 (.v 2)) (numIn s false 3 (.v 3))).2 &&& trapEnables (curUnit s).mode ≠ 0 ∧
    (divNum (numIn s true 0 (.g 2)) (numIn s true 0 (.g 3))).2 &&& trapEnables (curUnit s).mode ≠ 0 :=
  ⟨runs_of (fresh_W _ _) (by decide +kernel), by decide +kernel, by decide +kernel, by decide +kernel, by decide +kernel⟩

/-! ## Witnesses: control -/

/-- A crew with lanes 0 to 3 in p1, all in p2, gp1 set, and g5. -/
def brancher : Thread := { thread with p := [(1, 0xF), (2, 0xFFFFFFFF)], gp := [(1, true)], g := [(5, 0x123)] }

theorem test_meets_branches :
    (∀ i ∈ ([.nop, .yield, .bra 0xFFFFF, .bany (.p 1) 2, .bany (.p 0) 2, .ball (.p 2) 2, .ball (.p 1) 2, .bnone (.p 0) 2, .bnone (.p 1) 2,
        .bany (.gp 1) 2, .ball (.gp 0) 2, .bnone (.gp 1) 2, .ret (.g 5), .jmpg .none (.g 5), .call 2, .jmpg (.g 62) (.g 5)] : List Instr),
      Runs i (W 0 brancher)) ∧
    0 ∈ execLanes (W 0 brancher) ∧ (rdP (curUnit (W 0 brancher)) 1).getLsbD 3 = true ∧ (rdP (curUnit (W 0 brancher)) 1).getLsbD 31 = false ∧
    rdP (curUnit (W 0 brancher)) 0 = 0 ∧ rdP (curUnit (W 0 brancher)) 2 = 0xFFFFFFFF :=
  ⟨runs_of (fresh_W _ _) (by decide +kernel), by decide +kernel⟩

/-- S1 with some lanes at an offset, with a hold. -/
def second (o : Word) (h : Hold) : Slot := { occ := true, off := o, mask := 0x0000F0F0, hold := h }
/-- S0 with the other lanes. -/
def first : Slot := { occ := true, off := 0x40, mask := 0xFFFF0F0F }
/-- A crew with both slots and a stack. -/
def forked (o : Word) (h : Hold) (st : List Slot) : Thread := { brancher with s0 := first, s1 := second o h, stack := st }


theorem test_meets_divergence :
    (curSlot (W 0 brancher)).off = (W 0 brancher).cur.off ∧ (curSlot (W 0 brancher)).occ = true ∧
    (curSlot (W 0 (forked 0x80 .none []))).off = 0x40 ∧
    (∀ i ∈ ([.split (.p 0) 4, .split (.p 1) 4, .split (.p 2) 0xFFFFF, .join, .exit] : List Instr), Runs i (W 0 brancher)) ∧
    (∀ n ∈ [0, 63, 64], pass (W 0 (forked 0x80 .none (List.replicate n (second 0 .none)))) [.split (.p 0) 4, .split (.p 1) 4, .join, .exit] = true) ∧
    chPos (noteOps (W 0 (forked 0x80 .none (List.replicate 64 (second 0 .none)))) (.split (.p 1) 4)) = 0 ∧
    execMask (W 0 brancher) &&& rdP (curUnit (W 0 brancher)) 1 = 0xF ∧ execMask (W 0 brancher) &&& rdP (curUnit (W 0 brancher)) 0 = 0 ∧
    (curSlot (W 0 brancher)).mask &&& ~~~ (execMask (W 0 brancher) &&& rdP (curUnit (W 0 brancher)) 2) = 0 ∧
    (second 0x40 .join).off = first.off ∧ joinable (second 0x40 .join) = true ∧ first.off.toNat < (second 0x80 .join).off.toNat ∧
    first.off + 4 ≠ (second 0x80 .join).off ∧ (second 0x20 .join).off.toNat < first.off.toNat ∧
    (second 0x80 .none).hold ≠ .join ∧ (second 0x80 .none).off ≠ first.off ∧ joinable (second 0x40 .supervised) = false ∧
    ([0x20, 0x40, 0x80].all fun o => pass (W 0 (forked o .join [second 0 .none])) [.join, .exit]) = true :=
  ⟨by decide +kernel, by decide +kernel, by decide +kernel, runs_of (fresh_W _ _) (by decide +kernel), by decide +kernel⟩

/-- A context of two crews, of which crew 0 issues, with barrier 3 as given. -/
def W2 (t : Thread) (b : Bar) : State :=
  { W 0 t with
    ctxs := [(0, { ctx [(0, t), (1, { thread with num := 1 })] with
      ferries := [(0, { ferry with crews := 2, crewSlots := [0, 1], bars := [(3, b)] })] })] }

theorem fresh_W2 (t : Thread) (b : Bar) : Fresh (W2 t b) := ⟨rfl, rfl, rfl, rfl, rfl, rfl, rfl, rfl, rfl, rfl⟩

/-- An instance at which crew 1 has arrived. -/
def halfway : Bar := { opened := 7, inst := some { num := 7, expected := [0, 1], arrived := [1], plain := true, slots := [(1, {}, 0)] } }

theorem test_meets_barriers :
    (∀ i ∈ ([.bar 3, .bara 3, .barw 3, .hbar (.g 0) 0 3, .hbar (.g 0) 1 3, .hbar (.g 0) 5 15, .repack 3, .exset (.g 0), .exget (.g 5)] : List Instr),
      Runs i (W 0 thread)) ∧
    (∀ i ∈ ([.bar 3, .bara 3, .barw 3, .hbar (.g 0) 0 3, .hbar (.g 0) 1 3, .repack 3] : List Instr), Runs i (W2 thread {})) ∧
    arriveNow (W 0 thread) false = true ∧ arriveNow (W 0 thread) true = true ∧ coxFails (W 0 thread) 0 0 = false ∧
    arriveBad (W 0 thread) 0 0 3 .plain = false ∧ arriveBad (W 0 thread) 0 0 3 (.repack 0x40) = false ∧
    instDone (W 0 thread) 0 { num := 1, expected := [0], arrived := [0], plain := true } = true ∧
    expectedAt (W 0 thread) 0 0 3 = [0] ∧ expectedAt (W2 thread {}) 0 0 3 = [0, 1] ∧
    instDone (W2 thread {}) 0 { num := 1, expected := [0, 1], arrived := [0], plain := true } = false ∧
    arriveNow (W2 thread {}) true = true ∧ arriveBad (W2 thread halfway) 0 0 3 .plain = false ∧ repackReady (W2 thread {}) = true ∧
    0 ∈ ferryUnits (W 0 thread) 0 0 ∧ (curSlot (W 0 thread)).occ = true ∧ (curSlot (W 0 thread)).off = (W 0 thread).cur.off ∧
    barOver (getBar (W2 thread halfway) 0 0 3) 6 = true ∧ barOver (getBar (W2 thread halfway) 0 0 3) 7 = false := by
  exact ⟨runs_of (fresh_W _ _) (by decide +kernel), runs_of (fresh_W2 _ _) (by decide +kernel), by decide +kernel⟩

theorem test_meets_hierarchical_barriers :
    hbarLost (W 0 thread) (hbarOf (W 0 thread) 1 3 0) = false ∧ hbarLost (W 0 thread) (hbarOf (W 0 thread) 5 15 0) = false ∧
    isCrew (W 0 thread).cur.unit = true ∧ arriveNow (W 0 thread) false = true ∧
    1 ∈ ferryUnits (W2 thread {}) 0 0 ∧ isCrew 1 = true ∧ goesOn (W2 thread {}) 0 1 = true ∧ (getFerry (W2 thread {}) 0 0).hcrews = [] ∧
    ferryUnits (W 0 thread) 0 0 = [0] ∧
    wordFault (W 0x40 thread) (.hbar (.g 0) 2 3) = none ∧ hbarLost (W 0x40 thread) (hbarOf (W 0x40 thread) 2 3 0) = false ∧
    isCrew (W 0x40 thread).cur.unit = false := by decide +kernel

/-- An access in flight on some paths. -/
def access (k : AccKind) (paths : List Nat) : Access :=
  { id := 0, paths := paths, kind := k, ty := 2, dst := 0x80, pieces := [], word := 0, off := 0x40, plane := 0, slot := false,
    mask := 0xFFFFFFFF, chainOff := 0, chpos := 0, age := 0 }

theorem test_meets_waits :
    (∀ i ∈ ([.sleep (.g 5), .sleep (.g 0), .waitc (.g 0) 3, .waitc (.g 5) 3, .modea 0x1844, .modeb 0x4100, .modeg (.g 3), .plset (.v 1),
        .plsetp (.p 1) 7, .plocc (.g 3)] : List Instr), Runs i (W 0 { brancher with flight := [access .store [3]] })) ∧
    rdG brancher 5 ≠ 0 ∧ rdG brancher 0 = 0 ∧ rdG brancher 0 < 1 ∧
    ([access .store [3]].filter fun x => decide (3 ∈ x.paths)).length = 1 :=
  ⟨runs_of (fresh_W _ _) (by decide +kernel), by decide +kernel⟩

theorem test_meets_regroup :
    let ts := [(0, { thread with plane := [(5, 1)] }), (1, { thread with num := 1 }), (2, { thread with num := 2, plane := [(5, 1)] })]
    (ts.map Prod.fst).Nodup ∧ (ts.map Prod.fst).Pairwise (· < ·) ∧ laneOrder ts 5 = [1, 0, 2] := by decide +kernel

/-! ## Witnesses: memory -/

/-- A crew at TYPE u32 whose lanes hold an address in v4 and v5. -/
def at4 (lo hi : Word) : Thread :=
  crew 0x1000 [(4, 0x80), (10, 2), (11, 0)] ((List.range 32).map (fun l => (128 + l, lo)) ++ (List.range 32).map fun l => (160 + l, hi))

/-- The lanes' accesses of a load through v4. -/
def accs (s : State) : List LaneAcc := (execLanes s).map fun l => { lane := l, ea := srcIn s false l (.v 4) true }

/-- Words of the memory statements. -/
def memWords : List Instr :=
  [.ld (.v 2) (.v 4) 0, .ld (.g 2) (.g 4) 0xFF, .st (.v 2) (.v 4) 0, .st (.g 2) (.g 4) 0, .ldacq (.v 2) (.v 4) 0, .strel (.v 2) (.v 4) 0,
    .atadd (.v 2) (.v 4) (.v 3), .atadd .none (.v 4) (.v 3), .atmin (.v 2) (.v 4) (.v 3), .atmax (.v 2) (.v 4) (.v 3), .atand (.v 2) (.v 4) (.v 3),
    .ator (.v 2) (.v 4) (.v 3), .atxor (.v 2) (.v 4) (.v 3), .atxch (.v 2) (.v 4) (.v 3), .atcas (.v 2) (.v 4) (.v 3)]

/-- No lane executes; a non-canonical address; a misaligned one; and a word that passes every check. -/
theorem test_meets_accesses :
    (∀ i ∈ memWords, Runs i (W 0 (crew 0x1040 [] []))) ∧ (∀ i ∈ memWords, Runs i (W 0 (at4 0x80 0))) ∧
    accs (W 0 (crew 0x1040 [] [])) = [] ∧ accs (W 0 (at4 0x80 0)) ≠ [] ∧
    (accs (W 0 (at4 0 0x100000))).filter (fun e => !canonAccess e.ea 4) ≠ [] ∧ (accs (W 0 (at4 2 0))).filter (fun e => decide (e.ea.toNat % 4 ≠ 0)) ≠ [] ∧
    (accs (W 0 (at4 0x80 0))).filter (fun e => !canonAccess e.ea 4) = [] ∧
    (accs (W 0 (at4 0x80 0))).filter (fun e => decide (e.ea.toNat % 4 ≠ 0)) = [] ∧
    ((accs (W 0 (at4 0x80 0))).all fun e => decide (haloRedirect (curCtx (W 0 (at4 0x80 0))) e.ea 4 = none)) = true ∧
    ((accs (W 0 (at4 0x80 0))).all fun e => !haloForeign (curCtx (W 0 (at4 0x80 0))) 0 e.ea 4) = true ∧
    (let q := xlatLanes 0 0 4 { r := true, w := true } (accs (W 0 (at4 0x80 0))) (W 0 (at4 0x80 0))
     q.1.bad = [] ∧ farFault q.2 q.1.ok = none ∧ (q.1.ok.all fun e => e.2.all fun p => !p.2.2.2.ace) = true) :=
  ⟨runs_of (fresh_W _ _) (by decide +kernel), runs_of (fresh_W _ _) (by decide +kernel), by decide +kernel⟩

/-- Nothing that the word must wait for. -/
theorem test_meets_accesses_free :
    accessWait (W 0 (at4 0x80 0)) false [0, 2, 4] false = (none, W 0 (at4 0x80 0)) ∧
    accessWait (W 0 (at4 0x80 0)) false [3, 4] true = (none, W 0 (at4 0x80 0)) ∧
    accessWait (W 0 (at4 0 0x100000)) true [2, 4] true = (none, W 0 (at4 0 0x100000)) ∧
    accessWait (W 0 (at4 2 0)) false [2, 4] true = (none, W 0 (at4 2 0)) := ⟨rfl, rfl, rfl, rfl⟩

/-- The local-store words: aligned inside the bank up to its last word, misaligned, outside the bank, and in a cluster bank. -/
theorem test_meets_local_store :
    let last := W 0 (at4 0x1FFFC 0)
    let ws : List Instr := [.ldl (.v 2) (.v 4) 0, .stl (.v 2) (.v 4) 0, .ldx (.v 2) (.v 4) 0, .stx (.v 2) (.v 4) 0]
    (∀ i ∈ ws, Runs i last) ∧ (∀ i ∈ ws, Runs i (W 0 (at4 2 0))) ∧ (∀ i ∈ ws, Runs i (W 0 (at4 0x20000 0))) ∧
    execLanes last ≠ [] ∧ ((accs last).all fun e => decide (e.ea.toNat % 4 = 0) && decide (e.ea.toNat + 4 ≤ 0x20000)) = true ∧
    ((accs last).all fun e => (clusterCtx last e.ea 4).isSome) = true ∧
    (accs (W 0 (at4 2 0))).filter (fun e => decide (e.ea.toNat % 4 ≠ 0)) ≠ [] ∧
    (accs (W 0 (at4 0x20000 0))).filter (fun e => decide (0x20000 < e.ea.toNat + 4)) ≠ [] ∧
    ((accs (W 0 (at4 0x20000 0))).all fun e => decide (e.ea.toNat % 4 = 0)) = true :=
  ⟨runs_of (fresh_W _ _) (by decide +kernel), runs_of (fresh_W _ _) (by decide +kernel), runs_of (fresh_W _ _) (by decide +kernel), by decide +kernel⟩
theorem test_meets_local_store_free :
    accessWait (W 0 (at4 0x1FFFC 0)) false [0] false = (none, W 0 (at4 0x1FFFC 0)) ∧
    accessWait (W 0 (at4 2 0)) false [1] false = (none, W 0 (at4 2 0)) := ⟨rfl, rfl⟩

theorem test_meets_atomic_values :
    (0xFFFFFFFF : Nat) < 2 ^ tyBits 6 ∧ isInt 6 = true ∧ valOf 10 true false 0x3F800000 = .fin false 0x800000 (-23) ∧
      valOf 11 true false 0x3FF0000000000000 = .fin false 0x10000000000000 (-52) ∧ (0 : Nat) < 2 ^ tyBits 11 := by decide +kernel

/-- A load to v2 whose parts have come, one whose wide value goes to a pair, and a store to another bank. -/
def piece (l : Nat) (x : Dword) : Piece := { lane := l, pa := 0, va := 0, len := 4, pos := 0, data := x, done := true }
/-- Unit 0 with one access in flight. -/
def flying (a : Access) : State := W 0 { thread with flight := [a] }
/-- A load of lanes 0 and 31. -/
def came (ty : Nat) : Access := { access .load [2] with ty := ty, dst := 2, pieces := [piece 0 5, piece 31 7] }
/-- A store of one lane to the bank of context 0. -/
def sentOver : Access := { access .stx [1] with pieces := [{ piece 0 5 with served := .bank 0, pa := 0x1FFFC, done := false }] }

theorem test_meets_access_ends :
    let r : AccRef := ⟨0, 0, 0⟩
    getAcc (flying (came 6)) r = some (came 6) ∧ getAcc (flying (came 7)) r = some (came 7) ∧ (came 6).done = false ∧
    returnsValue (came 6) = true ∧ (came 6).pieces.all (fun p => p.done && p.failed.isNone) = true ∧ (came 6).kind ≠ .release ∧
    isWide (came 7).ty = true ∧ (came 7).dst < 0x80 ∧ ((came 7).pieces.all fun p => decide (p.lane < 32)) = true ∧
    ((getUnit (flying (came 7)) 0 0).flight.map Access.id).Nodup ∧
    getAcc (flying sentOver) r = some sentOver ∧ sentOver.pieces = [{ piece 0 5 with served := .bank 0, pa := 0x1FFFC, done := false }] ∧
    (sentOver.pieces.all fun p => !heldBack (flying sentOver) (getUnit (flying sentOver) 0 0) sentOver p) = true := by
  decide +kernel

theorem test_meets_fences :
    (∀ i ∈ ([.fence 0, .fence 31, .pref (.v 4) 0, .resid (.v 4) 0] : List Instr),
      Runs i (W 0 (at4 0x80 0)) ∧ Runs i (W 0 (at4 0 0x100000)) ∧ Runs i (flying (access .store [3])) ∧ Runs i (W 0 { thread with invs := [3] })) ∧
    dirtyLines (W 0 thread) 0 = [] ∧ (curSlot (flying (access .store [3]))).waited = false ∧
    ((curUnit (flying (access .store [3]))).flight.filter fun x => !x.done && x.paths.any fun p => decide (p < 5)) ≠ [] ∧
    ((accs (W 0 (at4 0 0x100000))).all fun e => !canonAccess e.ea 4) = true ∧
    ((hintLines 0 0 4 (accs (W 0 (at4 0x80 0))) (W 0 (at4 0x80 0))).1.all fun e => decide (e.2.kind ≠ 2)) = true := by
  refine ⟨?_, by decide +kernel⟩
  intro i hi
  have h (s : State) (hf : Fresh s) (h : pass s [.fence 0, .fence 31, .pref (.v 4) 0, .resid (.v 4) 0] = true) : Runs i s :=
    runs_of hf h i hi
  exact ⟨h _ (fresh_W _ _) (by decide +kernel), h _ (fresh_W _ _) (by decide +kernel), h _ (fresh_W _ _) (by decide +kernel),
    h _ (fresh_W _ _) (by decide +kernel)⟩

/-! ## Witnesses: landing names -/

/-- A landing table with n live entries of context 0, each bound to v16. -/
def table (n : Nat) (r w : Nat) : Map LEntry :=
  (List.range n).map fun e => (e, { state := .live, reg := r, lane := 31, width := w, nonce := 9 })
/-- Unit 0's state with that table, and with a control word in g3. -/
def named (t : Thread) (c : Word) (l : Map LEntry) : State :=
  { W 0 { t with g := t.g ++ [(200, c)] } with cores := [(0, { active := some 0, tlb := [flat], landing := l })] }
theorem fresh_named (t : Thread) (c : Word) (l : Map LEntry) : Fresh (named t c l) := ⟨rfl, rfl, rfl, rfl, rfl, rfl, rfl, rfl, rfl, rfl⟩

/-- Mints with room, with none, and for a storer with which there is no session; the control word with and without a pair. -/
theorem test_meets_mints :
    let t (c : Word) : Thread := crew 0x1000 [(3, c)] []
    let ws : List Instr := [.lmintc (.g 20) (.v 16) (.g 3), .lmintg (.g 20) (.g 30) (.g 3), .lmint (.v 20) (.v 16) (.g 3)]
    (∀ i ∈ ws, Runs i (named (t 0) 0 [])) ∧ (∀ i ∈ ws, Runs i (named (t 0x57) 0 [])) ∧ (∀ i ∈ ws, Runs i (named (t 7) 0 (table 256 16 4))) ∧
    (∀ i ∈ ws, Runs i (named (t 0x58) 0 [])) ∧ Runs (.lmint (.v 20) (.v 16) (.g 3)) (named (crew 0x1040 [] []) 0 []) ∧
    mintRoom (named (t 0) 0 []) 0 0 1 = true ∧ mintRoom (named (t 0) 0 []) 0 0 32 = true ∧
    mintRoom (named (t 0) 0 (table 256 16 4)) 0 0 1 = false ∧
    (srcGroup (named (t 0x58) 0 []) (.g 3) false).toNat.testBit 3 = true ∧ sessLive (named (t 0x58) 0 []) 5 = false ∧
    ownEp (named (t 0x58) 0 []) ≠ 5 ∧ execLanes (named (crew 0x1040 [] []) 0 []) = [] :=
  ⟨runs_of (fresh_named _ _ _) (by decide +kernel), runs_of (fresh_named _ _ _) (by decide +kernel),
    runs_of (fresh_named _ _ _) (by decide +kernel), runs_of (fresh_named _ _ _) (by decide +kernel),
    runs_of (l := [.lmint (.v 20) (.v 16) (.g 3)]) (fresh_named _ _ _) (by decide +kernel) _ (List.mem_singleton.mpr rfl), by decide +kernel⟩

/-- Every lane's name in v4 and v5, and in g4: entry 3 of core 0, with nonce 9. -/
def holder (w : Nat) : Thread :=
  let n := mkName 0 0 3 9 w
  { at4 (n.setWidth 32) (n.extractLsb' 32 32) with g := [(4, n.setWidth 32), (5, n.extractLsb' 32 32), (6, 0x80)] }

/-- The landing words: stores and requests whose names and addresses pass, drops of live, other and foreign names, waits. -/
theorem test_meets_landing_words :
    let ws : List Instr := [.lsto (.v 4) (.v 2), .lsto (.g 4) (.v 2), .lsto (.g 4) (.g 8), .lreq (.g 6) (.g 4), .ldrop (.g 4), .ldrop (.v 4),
      .lstat (.g 7) (.v 16), .lwait (.v 16)]
    let s := named (holder 4) 0 (table 8 16 4)
    let b := named (holder 6) 0 []
    (∀ i ∈ ws, Runs i s) ∧ (∀ i ∈ ws, Runs i b) ∧ (∀ i ∈ ws, Runs i (named (holder 4) 0 [])) ∧
    (lstoStores s (.g 4) (.v 2)).length = 1 ∧ (lstoStores s (.v 4) (.v 2)).length = 32 ∧
    ((lstoStores s (.g 4) (.v 2)).all fun e => decide (storerCheck s e.2.name e.2.width = none ∧ nmEp e.2.name = ownEp s)) = true ∧
    (let reqs := lreqLanes s (.g 6) (.g 4)
     let q := lreqXlat 0 0 reqs s
     reqs ≠ [] ∧ (reqs.all fun x => canonAccess x.ea x.size && decide (x.ea.toNat % x.size = 0) && decide (nameCheck s x.name = none)) = true ∧
     q.2.1 = [] ∧ (q.1.all fun e => decide (farBad q.2.2 e.2 e.1.ea = none ∧ e.2.ace = false) && ownLine s (xlatPa e.2 e.1.ea / 128)) = true) ∧
    dropBad s (srcGroup s (.g 4) true) = false ∧ (getEntry s 0 3).state = .live ∧ (getEntry s 0 3).nonce = nmNonce (srcGroup s (.g 4) true) ∧
    dropBad b (srcGroup b (.g 4) true) = true ∧ dropBad (named (holder 4) 0 []) (srcGroup b (.g 4) true) = true ∧
    dropBad (named (holder 4) 0 []) (srcGroup s (.g 4) true) = false ∧ (getEntry (named (holder 4) 0 []) 0 3).state ≠ .live ∧
    isPend (curUnit s) 16 (execMask s) = false ∧ isPend { thread with vpend := [(16, 0x80000000)] } 16 0xFFFFFFFF = true :=
  ⟨runs_of (fresh_named _ _ _) (by decide +kernel), runs_of (fresh_named _ _ _) (by decide +kernel),
    runs_of (fresh_named _ _ _) (by decide +kernel), by decide +kernel⟩
theorem test_meets_landing_free :
    accessWait (named (holder 4) 0 (table 8 16 4)) true [4] true = (none, named (holder 4) 0 (table 8 16 4)) ∧
    accessWait (named (holder 4) 0 (table 8 16 4)) true [4] false = (none, named (holder 4) 0 (table 8 16 4)) := ⟨rfl, rfl⟩

/-- Deliveries to entries in each state, of each width. -/
theorem test_meets_delivery :
    let m (w : Nat) (n : Word) : LandMsg :=
      { name := mkName 0 0 3 n w, data := List.replicate 256 7, width := w, cls := 0, clock := some 5, origin := .unit ⟨0, 0, 0⟩ 0 }
    let at1 (e : LEntry) : State := named thread 0 [(3, e)]
    ([(0, 16), (1, 16), (2, 0xC8), (3, 0xC8), (4, 16), (5, 16)].all fun (e : Nat × Nat) =>
      decide ((landAt (at1 { state := .live, reg := e.2, lane := 31, width := e.1, nonce := 9 }) (m e.1 9)).2 = none)) = true ∧
    (landAt (at1 {}) (m 4 9)).2 = some .lnStale ∧ (landAt (at1 { state := .live, width := 5, nonce := 9 }) (m 4 9)).2 = some .lnForeign ∧
    (landAt (at1 { state := .reclaimed, width := 4, nonce := 9 }) (m 4 9)).2 = some .lnStale ∧
    (landAt (at1 { state := .spent, width := 4, nonce := 9 }) (m 4 9)).2 = some .lnSecondUse ∧
    (landAt (at1 { state := .live, width := 4, nonce := 9 }) (m 4 8)).2 = some .lnSecondUse := by decide +kernel

/-! ## Witnesses: the carter -/

/-- Unit u's state with bytes in the context's local store. -/
def banked (u : Nat) (t : Thread) (l : Map Byte) : State :=
  { W u t with ctxs := [(0, { ctx [(u, t)] with ls := l })] }
theorem fresh_banked (u : Nat) (t : Thread) (l : Map Byte) : Fresh (banked u t l) := ⟨rfl, rfl, rfl, rfl, rfl, rfl, rfl, rfl, rfl, rfl⟩

/-- A copy of two elements. -/
def someCopy : Copy :=
  { id := 0, word := 0, off := 0, name := 0, src := 0, dst := 0x1000, esz := 4, dims := [⟨2, 4, 4⟩], flags := 0, waits := [], segs := [] }
/-- The carter, with n copies and one that is suspended, and G5 as given. -/
def carter (n : Nat) (g : Word) : Thread := crew 0x1000 [(5, g)] [] |> fun t => { t with copies := List.replicate n someCopy, susp := [(1, someCopy)] }
/-- A CPYT descriptor of one dimension: 2 elements of 4 bytes. -/
def cpytBytes : Map Byte := [(0x10, 2), (0x11, 1), (0x20, 2), (0x24, 4), (0x28, 4)]

def gotSome (r : Fetched × State) (n : Nat) : Bool :=
  match r.1 with
  | .got d => decide (d.length = n)
  | _ => false

def isBytes (r : List Byte ⊕ LaneFault) : Bool :=
  match r with
  | .inl _ => true
  | .inr _ => false

/-- Copy words with room and without; a descriptor in memory, one in the bank; a suspended copy that is released, resumed or is not there. -/
theorem test_meets_copies :
    let ws : List Instr := [.cpy (.g 2) (.g 8), .cpyt (.g 6) (.g 8), .cpyres (.g 5) (.g 8)]
    (∀ i ∈ ws, Runs i (banked 0x44 (carter 7 1) cpytBytes)) ∧ (∀ i ∈ ws, Runs i (banked 0x44 (carter 8 1) cpytBytes)) ∧
    (∀ i ∈ ws, Runs i (banked 0x44 (carter 0 0x101) cpytBytes)) ∧ (∀ i ∈ ws, Runs i (banked 0x44 (carter 0 2) cpytBytes)) ∧
    (∀ i ∈ ws, Runs i (banked 0x44 (carter 0 0x200) cpytBytes)) ∧
    engineNameFault (banked 0x44 (carter 7 1) cpytBytes) (ggOf (banked 0x44 (carter 7 1) cpytBytes) (.g 8)) true [2, 3] = none ∧
    gotSome (issueRead (noteOps (banked 0x44 (carter 7 1) cpytBytes) (.cpy (.g 2) (.g 8))) (ggOf (banked 0x44 (carter 7 1) cpytBytes) (.g 2)) 32) 32 = true ∧
    cpytLen (banked 0x44 (carter 7 1) cpytBytes) 0 = 48 ∧ isBytes (bankRead (banked 0x44 (carter 7 1) cpytBytes) 0 32 48) = true ∧
    copyBad (banked 0x44 (carter 7 1) cpytBytes) 0 someCopy = false ∧ dimsCount someCopy.dims = 2 ∧
    copyBad (banked 0x44 (carter 7 1) cpytBytes) 0 { someCopy with dims := [⟨0x10000, 4, 4⟩, ⟨0x10000, 4, 4⟩] } = true ∧
    dimsCount [⟨0, 1, 1⟩] = 0 ∧ copyBad (banked 0x44 (carter 7 1) cpytBytes) 0 { someCopy with dims := [⟨0, 1, 1⟩] } = false :=
  ⟨runs_of (fresh_banked _ _ _) (by decide +kernel), runs_of (fresh_banked _ _ _) (by decide +kernel), runs_of (fresh_banked _ _ _) (by decide +kernel),
    runs_of (fresh_banked _ _ _) (by decide +kernel), runs_of (fresh_banked _ _ _) (by decide +kernel), by decide +kernel⟩
theorem test_meets_copy_free : cpyWait (.g 2) (.g 8) (banked 0x44 (carter 7 1) cpytBytes) = (none, banked 0x44 (carter 7 1) cpytBytes) := rfl

theorem test_meets_segments :
    dimsCount someCopy.dims < 3 ∧ 0 < someCopy.esz ∧ someCopy.dims ≠ [] ∧ (someCopy.dims.all fun d => decide (0 < d.count)) = true ∧
    (someCopy.cut 3 0).map Seg.len = [2] ∧ (({ someCopy with dst := 0x1FFC } : Copy).cut 3 0).map Seg.len = [1, 1] := by decide +kernel

/-- A halo of one tile of one row and 32 columns, at frame offset 0. -/
def haloBytes : List Byte :=
  leBytes 8 0 ++ leBytes 4 128 ++ leBytes 2 1 ++ leBytes 2 32 ++ leBytes 2 1 ++ leBytes 2 32 ++ [0, 1] ++ List.replicate 42 0
/-- The carter with that descriptor in the bank, a window's entry in memory, and G6 as given. -/
def windowed (e : List Host.Cell) (g : Word) (h : Map Halo) : State :=
  let t := crew 0x1000 [(5, g), (8, (mkName 0 0 3 9 2).setWidth 32), (9, (mkName 0 0 3 9 2).extractLsb' 32 32)] []
  { W 0x44 t with
    mem := e, ctxs := [(0, { ctx [(0x44, t)] with ls := (List.range 64).map fun k => (k, haloBytes.getD k 0), halos := h })] }
theorem fresh_windowed (e : List Host.Cell) (g : Word) (h : Map Halo) : Fresh (windowed e g h) :=
  ⟨rfl, rfl, rfl, rfl, rfl, rfl, rfl, rfl, rfl, rfl⟩

/-- Windows that are not the context's, closed, open, or busy; halos declared, refused and removed; hints. -/
theorem test_meets_windows :
    let ws : List Instr := [.shopen (.g 10) (.g 5), .shdisc (.g 10) (.g 5), .publ (.g 5) (.g 8), .halo (.g 10) (.g 5), .halop, .replh (.g 4)]
    let closed := windowed [⟨0x3C, 1⟩] 1 []
    let opened := windowed [⟨0x3C, 5⟩] 1 []
    (∀ i ∈ ws, Runs i closed) ∧ (∀ i ∈ ws, Runs i opened) ∧ (∀ i ∈ ws, Runs i (windowed [⟨0x3C, 9⟩] 1 [])) ∧
    (∀ i ∈ ws, Runs i (windowed [⟨0x36, 1⟩, ⟨0x3C, 1⟩] 1 [])) ∧ (∀ i ∈ ws, Runs i (windowed [] 0x10000 [])) ∧
    (∀ i ∈ ws, Runs i (windowed [] 0x80000000 [(0, ⟨haloBytes, 0⟩)])) ∧ (∀ i ∈ ws, Runs i (windowed [] 0 [])) ∧
    (fieldB (winEntry closed 1) 0x1C 1).testBit 0 = true ∧ fieldB (winEntry closed 1) 0x16 2 = (curCtx closed).asid ∧
    (fieldB (winEntry closed 1) 0x1C 1).testBit 2 = false ∧ (fieldB (winEntry opened 1) 0x1C 1).testBit 2 = true ∧
    (fieldB (winEntry opened 1) 0x1C 1).testBit 3 = false ∧ (fieldB (winEntry (windowed [⟨0x3C, 9⟩] 1 []) 1) 0x1C 1).testBit 3 = true ∧
    fieldB (winEntry (windowed [⟨0x36, 1⟩, ⟨0x3C, 1⟩] 1 []) 1) 0x16 2 = 1 ∧ (fieldB (winEntry (windowed [] 0 []) 0) 0x1C 1).testBit 0 = false ∧
    haloDesc (windowed [] 0 []) (.g 5) = (.inl haloBytes, false) ∧ haloDesc (windowed [] 0x80000000 []) (.g 5) = (.inl haloBytes, true) ∧
    haloCode (curCtx (windowed [] 0 [])) 0 haloBytes = 0 ∧ haloCode (curCtx (windowed [] 0 [(0, ⟨haloBytes, 0⟩)])) 0 haloBytes = 5 ∧
    (mget? (curCtx (windowed [] 0x80000000 [(0, ⟨haloBytes, 0⟩)])).halos (haloOf haloBytes).base).isSome = true ∧
    (mget? (curCtx (windowed [] 0x80000000 [])).halos (haloOf haloBytes).base).isNone = true ∧
    (fillFrame 0 (haloOf haloBytes) 0 ((haloOf haloBytes).frameElems 0) (noteOps (windowed [] 0 []) (.halo (.g 10) (.g 5))) []).1 = .done ∧
    canonical (ggOf (windowed [] 0x100000 []) (.g 4)) = false ∧ engineNameFault opened (ggOf opened (.g 8)) false [2] = none ∧
    opened.winFaulted = [] ∧ opened.publs = [] :=
  ⟨runs_of (fresh_windowed _ _ _) (by decide +kernel), runs_of (fresh_windowed _ _ _) (by decide +kernel), runs_of (fresh_windowed _ _ _) (by decide +kernel),
    runs_of (fresh_windowed _ _ _) (by decide +kernel), runs_of (fresh_windowed _ _ _) (by decide +kernel), runs_of (fresh_windowed _ _ _) (by decide +kernel),
    runs_of (fresh_windowed _ _ _) (by decide +kernel), by decide +kernel⟩
theorem test_meets_halo_free : haloWait (.g 5) (windowed [] 0 []) = (none, windowed [] 0 []) := rfl

/-! ## Witnesses: the cox -/

/-- A format block of types a, b and accumulator c, with flags f. -/
def fmtBytes (a b c f : Nat) : List Byte :=
  [BitVec.ofNat 8 a, BitVec.ofNat 8 b, 0, 0, 0, 0, BitVec.ofNat 8 c, BitVec.ofNat 8 f] ++ List.replicate 8 0 ++ leBytes 4 512 ++ leBytes 4 512 ++
    List.replicate 8 0
/-- A command on tile 0. -/
def someCmd : CoxCmd := { op := 0xD0, tile := 0, a := 0, b := 0, name := 0, word := 0, off := 0, fmt := [], scaleA := [], scaleB := [], zmap := [], policy := 0 }
/-- The cox with a format, commands and G5, and bytes at the start of the bank. -/
def coxed (f : Option (List Byte)) (cs : List CoxCmd) (g : Word) (b : List Byte) : State :=
  banked 0x40 { crew 0x1000 [(5, g)] [] with cox := { fmt := f, cmds := cs } } ((List.range b.length).map fun k => (k, b.getD k 0))
theorem fresh_coxed (f : Option (List Byte)) (cs : List CoxCmd) (g : Word) (b : List Byte) : Fresh (coxed f cs g b) := fresh_banked _ _ _

/-- A MILL descriptor: 1 row of 128 binary8p4s elements, its result through entry 3, its status through none. -/
def millBytes : List Byte :=
  leBytes 8 0 ++ leBytes 4 128 ++ leBytes 2 1 ++ [12, 12] ++ leBytes 4 128 ++ leBytes 4 1024 ++ List.replicate 16 0 ++
    leBytes 8 (mkName 0 0 3 9 4).toNat ++ List.replicate 16 0

/-- The cox's words with a format and no command, with a command that names the tile, and with the other block. -/
def coxWords : List Instr :=
  [.fmtb (.g 5), .acz (.acc 0), .mma (.acc 0) (.g 6) (.g 6), .mmas (.acc 0) (.g 6) (.g 6), .acld (.acc 0) (.g 6), .acst (.acc 0) (.g 6) (.g 6),
    .accvt (.acc 0) (.g 5) (.g 6), .finj (.acc 0) (.g 6) (.g 6), .acchk (.g 9) (.g 5), .mill (.g 5)]

theorem test_meets_cox_runs :
    (∀ i ∈ coxWords, Runs i (coxed (some (fmtBytes 12 12 0 0)) [] 0 (fmtBytes 12 12 0 0))) ∧
    (∀ i ∈ coxWords, Runs i (coxed (some (fmtBytes 12 12 0 1)) [] 0 (fmtBytes 0 0 3 0))) ∧
    (∀ i ∈ coxWords, Runs i (coxed (some (fmtBytes 11 11 1 0)) [] 0 millBytes)) ∧
    (∀ i ∈ coxWords, Runs i (coxed (some (fmtBytes 12 12 0 0)) [someCmd] 3 [])) ∧
    (∀ i ∈ coxWords, Runs i (coxed (some (fmtBytes 12 12 0 0)) [] 0x04200000 [])) :=
  ⟨runs_of (fresh_coxed _ _ _ _) (by decide +kernel), runs_of (fresh_coxed _ _ _ _) (by decide +kernel), runs_of (fresh_coxed _ _ _ _) (by decide +kernel),
    runs_of (fresh_coxed _ _ _ _) (by decide +kernel), runs_of (fresh_coxed _ _ _ _) (by decide +kernel)⟩
theorem test_meets_cox_words :
    let s := coxed (some (fmtBytes 12 12 0 0)) [] 0 (fmtBytes 12 12 0 0)
    let sp := coxed (some (fmtBytes 12 12 0 1)) [] 0 (fmtBytes 0 0 3 0)
    let f64 := coxed (some (fmtBytes 11 11 1 0)) [] 0 millBytes
    bankRead s 0 32 32 = .inl (fmtBytes 12 12 0 0) ∧ fmtBad (fmtBytes 12 12 0 0) = false ∧
    bankRead sp 0 32 32 = .inl (fmtBytes 0 0 3 0) ∧ fmtBad (fmtBytes 0 0 3 0) = true ∧
    (tileWait 0 (fun _ => 0) s).1 = none ∧ (tileWait 0 (fun _ => 1) f64).1 = none ∧
    (tileWait 0 (fun _ => 0) (coxed (some (fmtBytes 12 12 0 0)) [someCmd] 3 [])).1 ≠ none ∧
    pairBad s 0 0 = false ∧ pairBad f64 6 1 = false ∧ tileTy s 0 = 0 ∧ tileTy f64 0 = 1 ∧
    (∀ p ∈ [0, 1, 2], p ≠ 3) ∧ (gOf (coxed (some (fmtBytes 12 12 0 0)) [someCmd] 3 []) (.g 5)).toNat % 4 = 3 ∧
    fbSparse (fmtBytes 12 12 0 0) = false ∧ fbSparse (fmtBytes 12 12 0 1) = true ∧
    isBytes (issueBytes s 0 (scaleBytes (fmtBytes 12 12 0 0) false)) = true ∧ rangeFault s 0 16 (sideBytes (fmtBytes 12 12 0 0) true) = none ∧
    isBytes (issueBytes sp 0 (fbK (fmtBytes 12 12 0 1) / 8)) = true ∧ rangeFault s 0 128 (4096 * accSize 0) = none ∧
    rangeFault f64 0 128 (4096 * accSize 1) = none ∧ engineNameFault s (ggOf s (.g 6)) true [2] = none ∧
    cvtTarget (0x04200000 / 2 ^ 19 % 32) = true ∧ 0x04200000 / 2 ^ 24 % 8 ≤ 4 ∧ rangeFault s (0x04200000 % 2 ^ 17) 128 (4096 * tySize 4) = none ∧
    millsOut f64 0 0x40 < 4 ∧ bankRead f64 0 64 64 = .inl millBytes ∧ engineNameFault f64 (mlRname millBytes) false [4, 5] = none ∧
    engineNameFault f64 (mlSname millBytes) true [2] = none ∧ mlBad millBytes = false ∧ mlXoff millBytes % 16 = 0 ∧
    isBytes (issueBytes f64 (mlXoff millBytes) (mlK millBytes * tySize (mlXty millBytes))) = true := by decide +kernel

/-- Four jobs of the cox. -/
theorem test_meets_mills_out :
    let j : MillJob := { ctx := 0, unit := 0x40, core := 0, span := 0, index := 0, asid := 0, cls := 0, desc := [], x := [], word := 0, off := 0, due := 0 }
    let s := { coxed (some (fmtBytes 12 12 0 0)) [] 0 [] with mills := [(0, List.replicate 4 j)] }
    4 ≤ millsOut s 0 0x40 ∧ wordFault s (.mill (.g 5)) = none := by decide +kernel

theorem test_meets_groups : (63 : Nat) < 64 ∧ ({} : Tile).el = [] ∧ (List.replicate 4096 (0 : Dword)).length = 4096 := by decide +kernel

/-- A kept tile (elements past the first read as 0): its sums agree, one row and one column are off, and two rows are. -/
def kept (rs cs : List (Nat × Int)) : Tile :=
  let sums (xs : List (Nat × Int)) : List (Option Int × Option Int) :=
    (List.range 64).map fun n => (some (((xs.find? fun e => decide (e.1 = n)).map Prod.snd).getD 0), some 0)
  { el := [0], kept := true, rows := sums rs, cols := sums cs }
def linesOf (t : Tile) : List Nat × List Nat :=
  let el := t.elems.map (accVal t.ty)
  ((linesOut t.ty el t.rows false).map Prod.fst, (linesOut t.ty el t.cols true).map Prod.fst)
theorem test_meets_drains :
    linesOf (kept [] []) = ([], []) ∧ linesOf (kept [(63, 1)] [(5, 1)]) = ([63], [5]) ∧ linesOf (kept [(0, 1), (63, 1)] [(5, 1)]) = ([0, 63], [5]) ∧
    linesOf (kept [(0, 1)] []) = ([0], []) ∧ someCmd.policy = 0 ∧ ({} : Tile).kept = false ∧
    (sumTerms (([.fin false 1 0, .fin false 3 0] : List Machine.Num).map termOf)).1.isSome = true := by decide +kernel

theorem test_meets_dots :
    let ps : List (Machine.Num × Machine.Num) := [(.fin false 3 (-1), .fin true 5 2), (.fin false 1 0, .fin false 0 0)]
    (∀ p ∈ ps, (p.1.isNan = false ∧ p.1.isInf = false) ∧ p.2.isNan = false ∧ p.2.isInf = false) ∧ (Machine.Num.fin true 7 0).isNan = false ∧
    (Machine.Num.fin true 7 0).isInf = false ∧ ((-1 : Int) ≤ -1 ∧ (-1 : Int) ≤ 0) ∧ ((-1 : Int) + 0 ≤ 0) ∧ 0 < 3 ∧ true ≠ false := by decide +kernel

/-! ## Witnesses: work and system words -/

/-- Unit 0 with the ferry's cox and carter started. -/
def started : State :=
  { W 0 brancher with
    ctxs := [(0, { ctx [(0, brancher)] with ferries := [(0, { ferry with coxStarted := true, carStarted := true })] })] }
/-- A ticket: its span, LSKB, priority and class, die mask and flags. -/
def ticketBytes (span lskb pri die : Nat) : List Byte :=
  List.replicate 24 0 ++ leBytes 4 span ++ leBytes 4 (256 * lskb) ++ [0x11, BitVec.ofNat 8 pri, BitVec.ofNat 8 die] ++ List.replicate 29 0

/-- A crew and the carter of its ferry; the carter issues. -/
def paired : State := { W 0x44 thread with ctxs := [(0, ctx [(0, thread), (0x44, thread)])] }

theorem test_meets_work_words :
    let ws : List Instr := [.fork .zero (.g 5), .fork (.g 5) .zero, .fork (.g 5) (.g 5), .spawn (.g 9) (.g 2)]
    (∀ i ∈ ws, Runs i (W 0 brancher)) ∧ (∀ i ∈ ws, Runs i started) ∧ (∀ i ∈ ([.rdv 3] : List Instr), Runs i paired) ∧
    (curFerry started).coxStarted = true ∧ (curFerry started).carStarted = true ∧ (curFerry (W 0 brancher)).coxStarted = false ∧
    (curFerry (W 0 brancher)).carStarted = false ∧ (curUnit (W 0 brancher)).ferry < 4 ∧ (W 0 brancher).cur.unit < 64 ∧
    isCrew paired.cur.unit = false ∧ arriveNow paired false = true ∧ coxFails paired 0 0x44 = false ∧
    instDone paired 0 { num := 1, expected := expectedAt paired 0 0 3, arrived := [0x44] } = false ∧
    gotSome (issueRead (noteOps (W 0 brancher) (.spawn (.g 9) (.g 2))) (ggOf (W 0 brancher) (.g 2)) 64) 64 = true ∧
    (∀ t ∈ [ticketBytes 0 0 0 1, ticketBytes 1 0 0 0, ticketBytes 1 129 0 1], tkShapeBad t = true) ∧
    (∀ t ∈ [ticketBytes 1 128 0 1, ticketBytes 1 0 4 1, ticketBytes 1 0 1 1, ticketBytes 1 0 0 0x41], tkShapeBad t = false) ∧
    tkClass (ticketBytes 1 0 4 1) = 1 ∧ (curCtx (W 0 brancher)).cls = 0 ∧ (curFerry (W 0 brancher)).pri < tkPri (ticketBytes 1 0 1 1) ∧
    tkPinned (ticketBytes 1 0 0 0x41) = true ∧ tkPinned (ticketBytes 1 128 0 1) = false ∧ tkPri (ticketBytes 1 128 0 1) = 0 ∧
    qSize (W 0 brancher) 0 = 64 ∧ qLen (W 0 brancher) 0 = 0 ∧ qLen { W 0 brancher with ctl := [(0x100C, 63 * 65536)] } 0 + 1 = 64 := by
  exact ⟨runs_of (fresh_W _ _) (by decide +kernel), runs_of ⟨rfl, rfl, rfl, rfl, rfl, rfl, rfl, rfl, rfl, rfl⟩ (by decide +kernel),
    runs_of ⟨rfl, rfl, rfl, rfl, rfl, rfl, rfl, rfl, rfl, rfl⟩ (by decide +kernel), by decide +kernel⟩
theorem test_meets_spawn_free : spawnWait (.g 2) (W 0 brancher) = (none, W 0 brancher) := rfl

/-- A crew with a pending trap, in its handler. -/
def trapped : Thread :=
  let f : PendingFault := { record := { cause := 3 }, cause := .nv, sup := false, held := false, slot := false, age := 0 }
  { thread with inh := true, pendTrap := some f, bkptPass := some 0x40 }
/-- That crew, with a handler at offset 0xF00. -/
def handled : State := { W 0 trapped with ctxs := [(0, { ctx [(0, trapped)] with tvec := 0xF00 })] }

/-- Every special register is read under TYPE s32 and under TYPE s64. -/
theorem test_meets_specials :
    (∀ i ∈ (([0x00, 0x01, 0x02, 0x03, 0x08, 0x10, 0x11, 0x12, 0x13, 0x14, 0x15, 0x16, 0x17, 0x20, 0x21, 0x22, 0x23, 0x24, 0x28].map fun n =>
        Instr.srd (.g 2) (BitVec.ofNat 8 n)) ++ [.swr (.g 4) 8, .swr (.g 4) 0x11, .swr (.g 4) 0x24, .swr (.g 4) 0x28, .swr (.g 4) 0, .rdtim (.g 2), .rdlc (.g 2)]),
      Runs i (W 0 thread)) ∧
    (∀ i ∈ ([.srd (.g 2) 0x10, .rdlc (.g 2)] : List Instr), Runs i (W 0 { thread with mode := 0x1800, flight := [access .store [3]] })) ∧
    (curUnit (W 0 { thread with mode := 0x1800, flight := [access .store [3]] })).flight ≠ [] ∧
    (curSlot (W 0 thread)).waited = false :=
  ⟨runs_of (fresh_W _ _) (by decide +kernel), runs_of (fresh_W _ _) (by decide +kernel), by decide +kernel⟩

theorem test_meets_system_words :
    (∀ i ∈ ([.trap 31, .bkpt 7, .lpinv, .scrub (.g 9) (.g 2), .scrub (.g 9) (.g 4)] : List Instr), Runs i (W 0 (crew 0x1000 [(2, 0x1FF80), (3, 0x80), (4, 4)] []))) ∧
    Fresh (W 0 thread) ∧ (∀ i ∈ ([.bkpt 7, .tret] : List Instr), Runs i handled) ∧ (∀ i ∈ ([.tret] : List Instr), Runs i (W 0 { thread with inh := true })) ∧
    (curUnit handled).bkptPass = some handled.cur.off ∧ (curUnit (W 0 thread)).bkptPass ≠ some 0x40 ∧ (curUnit (W 0 { thread with inh := true })).pendTrap = none ∧
    ((curUnit handled).pendTrap.map PendingFault.sup) = some false ∧ (curCtx handled).tvec ≠ 0 ∧
    handlerOff (curCtx handled) (curFerry handled) = some 0xF00 ∧
    (let g := (ggOf (W 0 (crew 0x1000 [(2, 0x1FF80), (3, 0x80), (4, 4)] [])) (.g 2)).toNat
     g % 2 ^ 32 % 128 = 0 ∧ g / 2 ^ 32 % 128 = 0 ∧ g % 2 ^ 32 + g / 2 ^ 32 = 0x20000) ∧
    (ggOf (W 0 (crew 0x1000 [(2, 0x1FF80), (3, 0x80), (4, 4)] [])) (.g 4)).toNat % 128 ≠ 0 := by
  exact ⟨runs_of (fresh_W _ _) (by decide +kernel), fresh_W _ _, runs_of ⟨rfl, rfl, rfl, rfl, rfl, rfl, rfl, rfl, rfl, rfl⟩ (by decide +kernel),
    runs_of (fresh_W _ _) (by decide +kernel), by decide +kernel⟩

/-! ## Witnesses: events -/

/-- The machine after reset, with registers of the control space as given. -/
def regs (c : Map Dword) : State := { State.reset with ctl := c, planActive := ⟨1, [(0, 5)], [(0, 5)]⟩ }

/-- The header of an image of type 2. -/
def header : List Byte := leBytes 4 0x39444D4E ++ leBytes 2 2 ++ List.replicate 6 0 ++ leBytes 4 64 ++ List.replicate 304 0
/-- An image passes when the fused values, which have no value here, say so: the rest of the check passes for this header. -/
theorem test_meets_images : imageOk [] 2 = false ∧ imageOk header 2 =
    (decide (Config.sha384 (sliceB header 0x20 97) = Config.rootKey) && decide (Config.minVersion 2 ≤ fieldB header 8 4) &&
      Config.verify (sliceB header 0x20 97) (sliceB header 0xA0 96) (imageHash header)) := by
  have h : (decide (fieldB header 0 4 = 0x39444D4E) && decide (fieldB header 4 2 = 2) && allZeroB (sliceB header 6 2) &&
      allZeroB (sliceB header 0x18 8) && decide (1 ≤ fieldB header 12 4) && decide (fieldB header 12 4 ≤ 2 ^ 26) &&
      decide (fieldB header 16 8 < fieldB header 12 4) && allZeroB (sliceB header 0x81 31)) = true := by decide +kernel
  refine ⟨by decide +kernel, ?_⟩
  unfold imageOk
  rw [h, Bool.true_and]

/-- Each phase of the boot, and the log's commands. -/
theorem test_meets_boot :
    let e : AuditEntry := ⟨7, 0, 1, 0, [], 0⟩
    (∀ b ∈ [Boot.rom, .refused, .firstStage, .fetching 0 2, .fetching 1 2, .fetching 0 0, .supervisor, .running], ({ regs [] with boot := b }).boot = b) ∧
    (0x80000003 : Word).getLsbD 31 = true ∧ (0x80000003 : Word).toNat % 8 < 4 ∧ 4 ≤ (0x80000004 : Word).toNat % 8 ∧ (3 : Word).getLsbD 31 = false ∧
    fieldB ([0xFF, 0] : List Byte) 0 2 < 0x100 ∧ 0x100 ≤ fieldB ([0, 1] : List Byte) 0 2 ∧
    ctlGet (regs [(0x748, 7)]) 0x0748 ≤ 7 ∧ 6 < ctlGet (regs [(0x748, 7)]) 0x0748 ∧ (regs []).home = [] ∧
    ([e].find? fun e => decide (e.seq = ctlGet (regs [(0x748, 7)]) 0x0748)) = some e ∧ (∀ x ∈ [e], x.seq ≠ ctlGet (regs []) 0x0748) := by
  decide +kernel

/-- Die 1 active, drained with a context, drained with none, fenced; the command registers free and busy; a stack's states. -/
theorem test_meets_service :
    let busy (c : Map Dword) : State := regs (c ++ [(0xA10, 0x80000000), (0xA18, 0x80000000)])
    ctlField (regs [(8, 4)]) 8 2 2 = 1 ∧ ctlField (regs [(8, 8)]) 8 2 2 = 2 ∧ ctlField (regs [(8, 12)]) 8 2 2 = 3 ∧
    ctlField (regs []) 0xA10 31 1 = 0 ∧ ctlField (busy [(8, 4)]) 0xA10 31 1 = 1 ∧ ctlField (busy [(8, 4)]) 0xA18 31 1 = 1 ∧
    dieCtxs { regs [(8, 8)] with ctxs := [(0, { live := true, place := .bank 80 0 })] } 1 = [0] ∧ dieCtxs (regs [(8, 8)]) 1 = [] ∧
    dieOwned (regs [(8, 8)]) 1 = [] ∧ (regs [(8, 8)]).wb = [] ∧
    ctlField (regs [(8, 0x1000)]) 8 12 2 = 1 ∧ ctlField (regs [(8, 0x2000)]) 8 12 2 = 2 ∧
    mgetD ({ regs [] with recal := [(0, true)] }).recal 0 false = true ∧ mgetD (regs []).linkRuns 10 0 < 16 ∧
    16 ≤ mgetD ({ regs [] with linkRuns := [(10, 16)] }).linkRuns 10 0 ∧
    (0 / 2 ^ 38 % 128 = ctlField (regs []) 0 0 7) ∧ (regInfo 0x18).isSome = true ∧ (0x18 : Nat) < 0x600 ∧
    0x18 ∉ [0x0108, 0x0200, 0x0220, 0x0230, 0x0248, 0x0300, 0x0330, 0x0334, 0x0338, 0x033C] := by decide +kernel

/-! ### The fabric -/

/-- The machine with a session with endpoint 5. -/
def peer (x : Session) : State := { regs [] with sess := [(5, x)], peerCell := [(5, x.cell)] }
/-- A packet of endpoint 5 for endpoint 0 under tag 9. -/
def from5 (stream stag : Nat) (t : BitVec 128) : Packet :=
  { pseq := 0, pctr := 0, src := 5, dst := 0, ndata := 1, stream := stream, kslot := false, stag := stag, tag := t, payload := .rds ⟨0, 5, 5, none, false, false, false, 0⟩ }
/-- A session under tag 9, with one message waiting in stream 0, or one packet not acknowledged, or packets received. -/
def linked (st : Stream) : Session := { tag := 9, cell := 2, streams := [(0, st)] }
/-- A plan image with number 1 and no channel. -/
def dark : List Byte := 1 :: List.replicate 1087 0
theorem dark_get (k : Nat) (h : 0 < k) : dark.getD k 0 = 0 := by
  obtain ⟨n, rfl⟩ : ∃ n, k = n + 1 := ⟨k - 1, by omega⟩
  show (List.replicate 1087 (0 : Byte)).getD n 0 = 0
  rw [List.getD_eq_getElem?_getD, List.getElem?_replicate]
  split <;> rfl
theorem dark_field (o : Nat) (h : 0 < o) : fieldB dark o 2 = 0 := by
  have e : sliceB dark o 2 = [dark.getD (o + 0) 0, dark.getD (o + 1) 0] := rfl
  rw [fieldB, e, dark_get (o + 0) h, dark_get (o + 1) (by omega)]
  rfl
theorem dark_half (o : Nat) (h : 0 < o) : planHalf dark o = [] := by
  simp [planHalf, List.filterMap_eq_nil_iff, fun k => dark_field (o + 2 * k) (by omega), bitN]
theorem test_meets_plans : planCheck (regs []) [] = 1 ∧ planCheck (regs [(0, 0x80)]) dark = 0 ∧
    hwRead { regs [(0, 0x80)] with mem := [⟨0, 1⟩] } 0 1088 = dark := by
  refine ⟨by decide +kernel, ?_, ?_⟩
  · have h : planReserved dark = false := by
      simp only [planReserved, fun k => dark_field (0x40 + 2 * k) (by omega)]
      decide +kernel
    simp only [planCheck, dark_half 0x40 (by decide), dark_half 0x240 (by decide), h]
    decide +kernel
  · rw [hwRead_plain rfl rfl]
    decide +kernel

theorem test_meets_fabric :
    let q : Packet := from5 0 9 0
    (regs []).planPending = none ∧ (regs []).armed = none ∧ (regs []).switching = none ∧ (regs []).sess = [] ∧
    fabTime (regs []) < 1 ∧ 0 ≤ fabTime (regs []) ∧
    rxTuned (regs []) 0 5 = true ∧ ownEp (regs []) = 0 ∧ (from5 0 9 0).ndata ≤ 8 ∧ rxTuned (regs []) 1 5 = false ∧
    mget? (regs []).sess 5 = none ∧ mget? (peer (linked {})).sess 5 = some (linked {}) ∧ (from5 7 8 0).stag ≠ 9 ∧ (from5 7 9 0).stag = 9 ∧
    (from5 0 9 0).kslot = (linked {}).rxSlot ∧ (from5 0 9 0).pctr ≤ 2 ^ 47 ∧
    ((0 + 65536 - 0 % 65536) % 65536 < 32768 ∧ 0 ∉ (mgetD (linked {}).streams 0 {}).rxSeen) ∧
    (0 ∈ (mgetD (linked { rxSeen := [0] }).streams 0 {}).rxSeen) ∧
    txPorts (regs []) 5 = [0] ∧ txPorts (regs []) 6 = [] ∧ (linked {}).halted = false ∧ (linked {}).ctr ≠ 2 ^ 48 - 1 ∧
    ({ linked {} with pctr0 := 2 ^ 48 - 1 }).ctr = 2 ^ 48 - 1 ∧
    ([(none, Msg.sessionEnd)].find? (admitted (peer (linked { waiting := [(none, .sessionEnd)] })) 0)) = some (none, .sessionEnd) ∧
    ([(0, q)].find? fun u => decide (u.2.pseq = 0)) = some (0, q) ∧ (mgetD (linked { rxSinceAck := 1 }).streams 0 {}).rxSinceAck ≠ 0 ∧
    (mgetD (linked {}).streams 0 {}).rxSinceAck = 0 ∧ ((10 : Nat) < 1 * 100000 ∧ (5, 0) ∉ (regs []).removedRx) ∧ sessLive (peer (linked {})) 5 = true := by
  decide +kernel
/-- A packet with the tag of its own bytes, and one with another tag. -/
theorem test_meets_tags : ∀ (k : Nat) (iv : BitVec 96),
    (∃ p : Packet, p.tag = Config.packetTag k iv (packetHeader p) p.payload) ∧
      ∃ p : Packet, p.tag ≠ Config.packetTag k iv (packetHeader p) p.payload := by
  intro k iv
  have hd (t : BitVec 128) : packetHeader (from5 0 9 t) = packetHeader (from5 0 9 0) := rfl
  refine ⟨⟨from5 0 9 (Config.packetTag k iv (packetHeader (from5 0 9 0)) (from5 0 9 0).payload), rfl⟩,
    ⟨from5 0 9 (~~~ Config.packetTag k iv (packetHeader (from5 0 9 0)) (from5 0 9 0).payload), ?_⟩⟩
  intro h
  rw [hd] at h
  have g := congrArg (fun x : BitVec 128 => x.getLsbD 0) h
  have x (t : BitVec 128) : (from5 0 9 t).tag = t := rfl
  have y (t : BitVec 128) : (from5 0 9 t).payload = (from5 0 9 0).payload := rfl
  simp only [hd, x, y, BitVec.getLsbD_not] at g
  revert g
  cases (Config.packetTag k iv (packetHeader (from5 0 9 0)) (from5 0 9 0).payload).getLsbD 0 <;> decide

/-! ### Sessions and cells -/

theorem test_meets_sessions :
    let p := peer { linked {} with heard := 10 }
    let full : State := { regs [] with tags := List.replicate 256 (1, 0) }
    mget? (regs []).sess 5 = none ∧ (regs []).departed.Nodup ∧ ctlField (regs [(0x200, 0x80000000)]) 0x200 31 1 = 1 ∧
    ¬ 256 ≤ (regs []).sess.length + (regs []).tags.length ∧ 256 ≤ full.sess.length + full.tags.length ∧
    mget? ({ regs [] with setups := [(5, 9)] }).setups 5 = some 9 ∧ mget? (regs []).setups 5 = none ∧
    (∀ n ∈ [1, 0xFFFE], ¬ (n = 0 ∨ 0xFFFF ≤ n)) ∧
    mget? p.sess 5 = some { linked {} with heard := 10 } ∧ (0 : Int) ≤ ((p.now * 125 / 288 : Nat) : Int) + p.fabAdj ∧ 5 ∉ p.departed ∧
    p.now < 10 + 144000 ∧ 10 + 144000 ≤ ({ p with now := 144010 }).now ∧ ({ linked {} with leaving := true }).leaving = true ∧
    (linked {}).leaving = false ∧ (0x7F : Word).getLsbD 7 = false ∧
    ctlField (regs [(0x200, 0x200)]) 0x200 8 3 = 2 ∧ ctlField (regs [(0x200, 0x300)]) 0x200 8 3 = 3 ∧ ctlField (regs [(0x200, 0x100)]) 0x200 8 3 = 1 ∧
    ownedAway (regs []) = [] ∧ (regs []).asks = [] ∧ flightRefs (regs []) = [] ∧ recoverLines (regs []) = [] ∧
    (let s := { regs [] with sweepCells := [2], filt := [(7, { st := .m, owner := 2, vec := 4 })] }
     recoverLines s = [7] ∧ (getFilt s 7).st = .m ∧ (getFilt s 7).pend = false ∧ (getFilt s 7).evicting = false ∧
       (s.sweepCells ++ s.queuedCells).any (fun c => decide (c < 64 ∧ (getFilt s 7).owner = c)) = true) ∧
    (getFilt { regs [] with filt := [(7, { recovering := [2] })] } 7).recovering = [2] ∧ (getFilt (regs []) 7).recovering = [] := by
  decide +kernel
/-- An access with one part at another endpoint and one here, and none. -/
theorem test_meets_timeouts :
    let away : Piece := { piece 0 5 with pa := 2 ^ 45, done := false }
    let a : Access := { access .load [4] with pieces := [away, { away with pa := 0 }] }
    getAcc (flying a) ⟨0, 0, 0⟩ = some a ∧ getAcc (flying a) ⟨0, 0, 1⟩ = none ∧ a.kind ≠ .lsto ∧ a.kind ≠ .lreq ∧
    (a.pieces.any fun p => p.isOpen && !(decide (p.served = .mem) && !ownLine (flying a) p.line)) = true := by decide +kernel

/-! ### Lines -/

/-- A machine in cell 1 with a session with endpoint 5 of cell 2, a filter entry and a home entry for line 7, and a line in die 0. -/
def lines (f : Map FiltEntry) (h : Map HomeLine) (l : Map L2Line) : State :=
  { peer (linked {}) with ctl := [(0x200, 0x80000001)], filt := f, home := h, l2 := l }
/-- A line that die 0 holds. -/
def held7 (st : PkgSt) : Map L2Line := [(28, { st := st, wts := 3, rts := 9, data := List.replicate 128 7, poison := false })]
/-- A message of endpoint 5 about a line. -/
def about (l : Nat) (d : Option (List Byte)) (own : Bool) : XMsg := ⟨l, 5, 5, d, own, false, false, 0⟩
theorem lineFree_of {s : State} {line : Nat} (a : decide ((getHome s line).turn = none ∧ (getHome s line).held = [] ∧ (getHome s line).fwd = none ∧
    (getHome s line).got = none ∧ (getFilt s line).pend = false ∧ (getFilt s line).awaitEps = [] ∧ (getFilt s line).awaitHosts = [] ∧
    (getFilt s line).evicting = false ∧ (getFilt s line).recovering = [] ∧ (getFilt s line).orphan = false ∧ (getFilt s line).hown = false ∧
    (getFilt s line).st ≠ .m ∧ (getFilt s line).st ≠ .o ∧ mgetD s.recal (stackOf line) false = false) = true)
    (b : s.sweepCells ++ s.queuedCells = []) : LineFree s line := by
  have h := of_decide_eq_true a
  refine ⟨h.1, h.2.1, h.2.2.1, h.2.2.2.1, h.2.2.2.2.1, h.2.2.2.2.2.1, h.2.2.2.2.2.2.1, h.2.2.2.2.2.2.2.1, h.2.2.2.2.2.2.2.2.1,
    h.2.2.2.2.2.2.2.2.2.1, h.2.2.2.2.2.2.2.2.2.2.1, h.2.2.2.2.2.2.2.2.2.2.2.1, h.2.2.2.2.2.2.2.2.2.2.2.2.1,
    h.2.2.2.2.2.2.2.2.2.2.2.2.2, ?_⟩
  simp [b]

/-- Requests of another cell for a line that nothing else uses; a line that does not exist; the firewall; an owner that writes back;
an eviction; answers of sharers and owners; data and refusals; an atomic at its home. -/
theorem test_meets_cross_cell :
    let s := lines [(7, { st := .s, vec := 4 })] [] []
    let owned := lines [(7, { st := .m, owner := 2, vec := 4, grantee := 5, pend := true })] [] []
    let here := lines [] [(7, { st := .m, owner := .die 0 })] (held7 .m)
    let far := { lines [] [] [] with ctl := [(0, 0xD0090005), (0x200, 0x80000001)], sess := [(0, linked {})] }
    LineFree s 7 ∧ LineFree here 7 ∧ (7 / 2 ^ 38 % 128 = ownEp s ∧ 7 % 2 ^ 38 < 2 ^ 32 ∧ ¬ 2 ^ 32 % 2 ^ 38 < 2 ^ 32 ∧ 2 ^ 32 / 2 ^ 38 % 128 = ownEp s) ∧
    (cellOf s 5 = some 2 ∧ sameCell s 5 = false ∧ sessLive s 5 = true) ∧ (mget? s.filt 7).isSome = true ∧ (getHome s 7).st = .i ∧
    ctlField s 0x248 0 1 = 0 ∧ mget? s.reps 0 = none ∧ (getFilt s 7).host = 0 ∧ (getFilt s 7).vec = cellBit 2 ∧ (getHome s 7).lastGrant = 0 ∧
    ctlField { s with ctl := (0x248, 1) :: s.ctl } 0x248 0 1 = 1 ∧ (getHome s 7).turn = none ∧
    (fwEntry { s with ctl := [(0x248, 1)] } 7).1.getLsbD 2 = false ∧
    (getFilt owned 7).owner = 2 ∧ (getFilt owned 7).st = .m ∧ (getFilt owned 7).awaitEps = [] ∧ (about 7 (some (List.replicate 128 1)) true).data.isSome = true ∧
    (getFilt s 7).owner ≠ 2 ∧ (getFilt owned 7).way < waysOf owned ∧ owned.recallPage = none ∧ (getFilt owned 7).grantee = 5 ∧
    (getL2 here 0 7).isSome = true ∧ sessLive here 5 = true ∧ sessLive far 0 = true ∧ ownEp far = 5 ∧ 7 / 2 ^ 38 % 128 ≠ ownEp far ∧
    heldDirty s 7 = none ∧ waitersOf s 7 = [] ∧ mget? { s with asks := [(56, 0)] }.asks (8 * 7) ≠ none ∧ getL2 s 0 7 = none ∧
    (getFilt { s with filt := [(7, { evicting := true, awaitEps := [5] })] } 7).awaitEps ≠ [] ∧
    (∀ e ∈ s.filt, e.2.way < 16) ∧ ({ s with recallPage := some 3 }).recallPage ≠ none ∧ (∀ e ∈ far.filt, e.1 / 2 ^ 38 % 128 ≠ ownEp far) ∧
    mayStore here (homeDie 7) 7 = true ∧ 0x380 % tySize 6 = 0 ∧ 0x380 / 128 = 7 :=
  ⟨lineFree_of (by decide +kernel) rfl, lineFree_of (by decide +kernel) rfl, by decide +kernel⟩

/-- The package protocol: a line at rest, one that a die owns, one that a forward is pending for, and one whose request waits. -/
theorem test_meets_package :
    let s := lines [] [(7, { st := .s, rts := 5 })] []
    let owned := lines [] [(7, { st := .e, owner := .die 0 })] (held7 .e)
    let fwd := lines [] [(7, { st := .m, owner := .die 0, fwd := some ⟨true, false, .die 1, false⟩ })] []
    let recl := lines [] [(7, { st := .m, owner := .die 0, fwd := some ⟨false, true, .die 0, true⟩ })] []
    LineFree s 7 ∧ LineFree owned 7 ∧ later 6 (getHome s 7).rts = true ∧ later 5 (getHome s 7).rts = false ∧
    (s.home.filter fun e => e.2.st.owned && sameOwnSet e.1 7).length < 16 ∧ (getHome owned 7).st = .e ∧ (getFilt owned 7).vec = 0 ∧
    (getHome owned 7).owner = .die 0 ∧ (getL2 owned 0 7).any (fun x => decide (x.st ≠ .s)) = true ∧
    (getL2 s 0 7 = none ∧ mget? s.wb 28 = none) ∧ (getHome s 7).fwd = none ∧ (getHome fwd 7).fwd.isSome = true ∧
    (getHome recl 7).fwd.map Fwd.recalls = some true ∧ (getHome s 7).st.owned = false ∧ waitersOf s 7 = [] ∧
    mget? { s with asks := [(56, 0)] }.asks (2 * (0 + 4 * 7)) ≠ none ∧ ((getL2 (lines [] [] (held7 .s)) 0 7).map L2Line.st) = some .s ∧
    ((getHome { s with home := [(7, { turn := some .clockSync })] } 7).turn = some .clockSync ∧ (getHome s 7).held = []) ∧
    (let a : Access := { access .load [4] with pieces := [{ piece 0 5 with done := false }, { piece 1 5 with va := 0x80, done := false }] }
     getAcc (flying a) ⟨0, 0, 0⟩ = some a ∧ (a.pieces.any fun p => p.isOpen && !(((1 : Mask).getLsbD p.lane || decide (p.lane = 32)) && decide (p.va.toNat / 128 = 0))) = true) :=
  ⟨lineFree_of (by decide +kernel) rfl, lineFree_of (by decide +kernel) rfl, by decide +kernel⟩

/-! ### Hosts -/

/-- Port 0 up with CXL, and one extent of it: 8 MiB at offset 0 of the host's and of the domain's memory. -/
def hosted (st : Nat) (w : Bool) (f : Map FiltEntry) : State :=
  { lines f [] [] with
    ports := [(0, { up := true, width := 16, rate := 64, cxl := true })], extents := [(0, { size := 1, state := st, write := w, canWrite := w })] }
/-- A ticket that passes every check, of class 1. -/
def bound : Map Dword := [(0xC00, 0x1000000001)]
theorem test_meets_hosts :
    let s := hosted 1 true [(0, { st := .s })]
    LineFree s 0 ∧ (mgetD s.ports 0 {}).up = true ∧ (mgetD s.ports 0 {}).cxl = true ∧ (mgetD s.ports 1 {}).up = false ∧
    (findExt s 0 0).map (extLine s · 0) = some 0 ∧ findExt s 0 (2 ^ 23) = none ∧ (findExt s 0 (2 ^ 23 - 1)).isSome = true ∧
    (findExt (hosted 2 true []) 0 0).map Extent.state = some 2 ∧ (findExt (hosted 1 false []) 0 0).map Extent.canWrite = some false ∧
    ctlField s 0x248 0 1 = 0 ∧ (mget? s.filt 0).isSome = true ∧ (getHome s 0).st = .i ∧ (getFilt s 0).host = 0 ∧ (getFilt s 0).vec = 0 ∧
    (getFilt (hosted 1 true [(0, { st := .s, host := 1, hown := true })]) 0).hown = true ∧
    (getFilt (hosted 1 true [(0, { st := .s, host := 1, hown := true })]) 0).host &&& hostBit 0 ≠ 0 ∧
    (0 ∈ (getFilt (hosted 1 true [(0, { host := 1, hown := true, awaitHosts := [0] })]) 0).awaitHosts) ∧ 0 ∉ (getFilt s 0).awaitHosts ∧
    (getExt (hosted 0 true []) 0 0).state = 0 ∧ (getExt (hosted 0 true []) 0 0).size ≠ 0 ∧
    (getExt { hosted 0 true [] with extents := [(0, {})] } 0 0).size = 0 ∧
    ctlField (hosted 0 true []) 0x600 0 6 = 0 ∧ extHeld (hosted 2 true []) 0 (getExt (hosted 2 true []) 0 0) = [] ∧
    extAsked (hosted 2 true []) 0 (getExt (hosted 2 true []) 0 0) = false ∧
    extHeld (hosted 2 true [(0, { host := 1 })]) 0 (getExt (hosted 2 true []) 0 0) ≠ [] ∧
    (let o := { hosted 0 true [] with extents := [(0, { size := 1 }), (1, { size := 1, state := 1 })] }
     (o.extents.any fun y => decide (y.1 ≠ 0 ∧ y.2.state ≠ 0 ∧ (getExt o 0 0).base.toNat < y.2.base.toNat + y.2.bytes ∧
       y.2.base.toNat < (getExt o 0 0).base.toNat + (getExt o 0 0).bytes)) = true) := by
  exact ⟨lineFree_of (by decide +kernel) rfl, by decide +kernel⟩
theorem test_meets_command_windows :
    let s := { hosted 0 true [] with ctl := bound }
    let tk := ticketBytes 1 0 4 1
    ctlField (hosted 0 true []) 0xC00 0 1 = 0 ∧ ctlField s 0xC00 0 1 = 1 ∧ tk.length = 64 ∧ tkPinned (ticketBytes 1 0 4 0x41) = true ∧
    tkClass tk = ctlField s 0xC00 36 6 ∧ tkClass (ticketBytes 1 0 8 1) ≠ ctlField s 0xC00 36 6 ∧ ctlField s 0xC00 34 2 < tkPri (ticketBytes 1 0 5 1) ∧
    tkPri tk = 0 ∧ tkShapeBad (ticketBytes 0 0 4 1) = true ∧ tkShapeBad tk = false ∧ qFull s 0 = false ∧
    qFull { s with ctl := bound ++ [(0x100C, 63 * 65536)] } 0 = true := by decide +kernel

/-! ### Scheduling -/

/-- A ticket of one ferry on die 0, of the given priority and class, for one core. -/
def job (pri : Nat) : List Byte := ticketBytes 1 0 pri 1
/-- Queue 0 holds that ticket at 0x1000; address space 0 is valid; one save slot. -/
def queued (pri : Nat) (ad : Byte) : State :=
  { regs [(8, 1), (0x1000, 0x1000), (0x1008, 0x80060000), (0x100C, 0x10000), (0x2218, 1)] with
    mem := [⟨0xC, ad⟩, ⟨0x1018, 1⟩, ⟨0x1020, 0x11⟩] ++ (if pri = 0 then [] else [⟨0x1021, BitVec.ofNat 8 pri⟩]) ++ [⟨0x1022, 1⟩] }
theorem head_queued : headTicket (queued 0 1) 0 = job 0 ∧ headTicket (queued 1 1) 0 = job 1 := by
  refine ⟨?_, ?_⟩ <;> (unfold headTicket; rw [hwRead_plain rfl rfl]; decide +kernel)
/-- Every bank of die 0 is withheld, but for one that context 0 occupies. -/
def crowded (s : State) (x : Ctx) : State :=
  { s with ctxs := [(0, x)], withheld := (List.range 320).filter fun k => decide (k ≠ 0) }
/-- Context 0, of another address space, with or without a ferry. -/
def sitting (f : Map Ferry) : Ctx := { live := true, place := .bank 0 0, asid := 1, ferries := f }

def firstSeat (s : State) (t : List Byte) : Option Seat := seatOn s t 0
theorem test_meets_dispatch_queue :
    qLen (queued 0 1) 0 = 1 ∧ queueOpen (queued 0 1) 0 = true ∧ queueOpen (regs []) 0 = false ∧ (getQueue (queued 0 1) 0).head = none ∧
    headPoisoned (queued 0 1) 0 = false ∧ headPoisoned { queued 0 1 with poison := [(32, true)] } 0 = true ∧
    tkInvalid (job 0) = false ∧ tkInvalid (ticketBytes 0 0 0 1) = true ∧ astValid (queued 0 1) 0 = true ∧ astValid (queued 0 0) 0 = false ∧
    (getQueue (queued 0 1) 0).since + 3600 ≤ ({ queued 0 1 with now := 3600 }).now ∧ (queued 0 1).now < (getQueue (queued 0 1) 0).since + 3600 := by
  decide +kernel
theorem test_meets_dispatch_turn : queuesAt (queued 0 1) 0 = [0] := by decide +kernel
theorem test_meets_dispatch_window : chooseWindow (queued 0 1) (job 0) 1 = some [(0, .alloc 0)] := by decide +kernel
theorem test_meets_dispatch_seats :
    (seatOn { queued 0 1 with ctxs := [(0, { sitting [] with asid := 0 })] } (job 0) 0).isSome = true ∧
    seatOn (crowded (queued 0 1) (sitting [])) (job 0) 0 = some (.release 0) ∧
    (∀ k, k < 320 → seatOn (crowded (queued 1 1) (sitting [(0, ferry)])) (job 1) k = none) ∧
    victim (crowded (queued 1 1) (sitting [(0, ferry)])) (job 1) = some 0 ∧ hasSlot { crowded (queued 1 1) (sitting [(0, ferry)]) with ctl := [(0x2218, 2)] } = true ∧
    freeSlots (queued 0 1) = [0] ∧ roomIn {} (job 0) = some ⟨0, [0], [0], 0, []⟩ := by
  decide +kernel

/-- Address space 0 has one leaf, of the first 8 GiB; die 0 owns line 2, with a record, and line 3, with a ticket. -/
def tables (rec : List Byte) : State :=
  { regs [(8, 1)] with
    mem := [⟨1, 0x20⟩, ⟨0xC, 1⟩, ⟨0x2000, 1⟩, ⟨0x2001, 0x40⟩, ⟨0x4000, 0x3B⟩]
    home := [(2, { st := .m, owner := .die 0 }), (3, { st := .m, owner := .die 0 })]
    l2 := [(8, { st := .m, wts := 0, rts := 0, data := rec ++ List.replicate (128 - rec.length) 0, poison := false }),
           (12, { st := .m, wts := 0, rts := 0, data := job 0 ++ List.replicate 64 0, poison := false })] }
/-- A span that is over, whose PARENT is as given. -/
def span (parent : Nat) : Span :=
  { ticket := List.replicate 16 0 ++ leBytes 8 parent ++ (job 0).drop 24, asid := 0, queue := 0, source := 1, window := some (0, 0), entryPa := 0, total := 1, exited := 1 }
def recorded (c cont : Nat) : State := { tables (leBytes 4 c ++ leBytes 4 0 ++ leBytes 8 cont) with spans := [(3, span 0x100)] }
def readRecord (s : State) : Option (Nat × Nat) := (engineGet s 0 none [] 0x100 16).data.map fun d => (fieldB d.1 0 4, fieldB d.1 8 8)
theorem test_meets_spans :
    mget? (recorded 1 0).spans 3 = some (span 0x100) ∧ (span 0x100).abandoned = false ∧ (span 0x100).exited = (span 0x100).total ∧
    tkParent (span 0x100).ticket = 0x100 ∧ tkParent (span 0).ticket = 0 ∧ oldStoresOver (recorded 1 0) = true ∧
    oldStoresOver { recorded 1 0 with ctxs := [(0, ctx [(0, { live := false, flight := [access .store [3]] })])] } = false ∧
    (spanVisible (recorded 1 0) (span 0x100)).1 = true ∧ (spanPa (recorded 1 0) (span 0x100) 0x100 16 { r := true, w := true }).1 = some (some 0x100) ∧
    (spanPa { recorded 1 0 with mem := [] } (span 0x100) 0x100 16 { r := true, w := true }).1 = some none ∧
    readRecord (recorded 0 0) = some (0, 0) ∧ readRecord (recorded 2 0x180) = some (2, 0x180) ∧ readRecord (recorded 1 0x180) = some (1, 0x180) ∧
    (engineGet (recorded 1 0x180) 0 none [] 0x100 16).refused = none ∧
    (contRead (engineGet (recorded 1 0x180) 0 none [] 0x100 16).st (span 0x100) 0x180).1 = some (job 0) ∧
    (enginePut (recorded 2 0) 0 none (.span 3) 0x100 (leBytes 4 1)).1 = .done ∧ tkInvalid (job 0) = false ∧
    tkCheck (job 0) (tkClass (span 0).ticket) (tkPri (span 0).ticket) = 0 ∧ (0x180 : Nat) % 64 = 0 ∧ (0x181 : Nat) % 64 ≠ 0 ∧
    ctlField { recorded 1 0 with ctl := [(0xC00, 1)] } 0xC00 0 1 = 1 ∧ qFull (recorded 1 0) 0 = false ∧
    ((getQueue { recorded 1 0 with queues := [(0, { conts := [(job 0, 0, 3)] })] } 0).conts = [(job 0, 0, 3)]) := by decide +kernel

/-! ### Contexts -/

/-- A context with one crew, of a priority, that has waited since a cycle. -/
def crewed (place : Place) (pri since : Nat) : Ctx :=
  { ctx [(0, thread)] with place := place, ferries := [(0, { ferry with pri := pri })], since := since }
/-- Core 0 with context 0 active, and context 1. -/
def pair (x y : Ctx) (i : Option Nat) : State :=
  { regs [(8, 1)] with now := 20000, ctxs := [(0, x), (1, y)], cores := [(0, { active := some 0, idleSince := i })] }
theorem test_meets_contexts :
    let s := pair (crewed (.bank 0 0) 0 0) (crewed (.bank 0 1) 1 0) none
    let e := pair (crewed (.bank 0 0) 0 0) (crewed (.bank 0 1) 0 0) (some 0)
    let n := pair { crewed (.bank 0 0) 0 0 with leaving := true } (crewed .saved 0 0) none
    let chained := { thread with chainLeft := 2 }
    let c := pair { crewed (.bank 0 0) 0 0 with units := [(0, chained)] } (crewed (.bank 0 1) 1 0) none
    let p := pair { crewed (.bank 0 0) 0 0 with ferries := [(0, { ferry with pinned := true })] } (crewed (.bank 0 1) 1 0) none
    atSwitchPoint s 0 = true ∧ atSwitchPoint c 0 = false ∧ mustLeave s 0 = false ∧ mustLeave n 0 = true ∧ bestCtx n (waitingCtxs n 0) = none ∧
    bestCtx { s with cores := [] } (waitingCtxs { s with cores := [] } 0) = some 1 ∧ mustLeave { s with cores := [] } 0 = true ∧
    staysPinned s 0 = false ∧ staysPinned p 0 = true ∧ bestCtx s (readyWaiting s 0 fun y => decide (activePri s 0 < ctxPri y)) = some 1 ∧
    idleDue e 0 = true ∧ idleDue s 0 = false ∧ bestCtx e (readyWaiting e 0 fun _ => true) = some 1 ∧
    bestCtx e (readyWaiting e 0 fun y => decide (ctxPri y = activePri e 0) && decide (y.since + 18000 ≤ e.now)) = some 1 ∧
    (getCtx s 0).place = .bank 0 0 ∧ (getCtx s 0).live = true ∧ (getCtx s 0).releasing = false ∧ (getCore s 0).active = some 0 ∧
    streaming s 0 = false ∧ streamReady s 1 0 = true ∧ streaming (pair (crewed (.bank 0 0) 0 0) (crewed (.streamOut 0 1) 0 0) none) 0 = true ∧
    mayStreamIn n 1 0 = true ∧ freeBank n 0 = some 1 ∧ mayStreamIn s 1 0 = false ∧ (getCtx n 1).place = .saved ∧
    (getCtx (pair (crewed (.bank 0 0) 0 0) (crewed (.streamIn 0 1) 0 0) none) 1).place = .streamIn 0 1 ∧
    s.relReg = none ∧ bankCtx s 0 0 = some 0 ∧ bankCtx s 0 2 = none ∧ isResident (getCtx s 0) = true ∧
    ({ crewed (.bank 0 0) 0 0 with halted := true }).halted = true ∧ (crewed (.bank 0 0) 0 0).ferries ≠ [] ∧
    releaseReady s 0 0 = true ∧ releaseReady { s with mills := [(0, [{ ctx := 0, unit := 0x40, core := 0, span := 0, index := 0, asid := 0, cls := 0, desc := [], x := [], word := 0, off := 0, due := 0 }])] } 0 0 = false ∧
    qOn s 0 = false ∧ qLen { s with ctl := [(0x100C, 0x10000)] } 0 ≠ 0 ∧ qFull s 0 = false ∧ tkShapeBad (hwRead s 0 64) = true := by decide +kernel

/-! ### Upkeep -/

theorem test_meets_upkeep :
    let s := tables []
    (match walk s 0 0 0 0 {} with
     | .ok x => decide (x = { flat with r := true })
     | _ => false) = true ∧
    (match walk (regs []) 0 0 0 0 {} with
     | .bad _ _ => true
     | _ => false) = true ∧
    ctlField s 0x2408 31 1 = 0 ∧ ctlField (regs [(0x2408, 0x80000000)]) 0x2408 31 1 = 1 ∧ ctlField s 0x2428 31 1 = 0 ∧ ctlField (regs [(0x2428, 0x80000000)]) 0x2428 31 1 = 1 ∧
    sweepOver { s with sweeps := [⟨0, 0, 0, 0, 0, true, [], []⟩] } ⟨0, 0, 0, 0, 0, true, [], []⟩ = true ∧
    sweepOver (flying (access .store [3])) ⟨0, 0, 0, 0, 0, true, [⟨0, 0, 0⟩], []⟩ = false ∧
    (∀ p ∈ repPages (regs []) 3, ∀ l ∈ pageLines p, heldOutside (regs []) l = false ∧ stackStill (regs []) l = false) ∧
    ([(⟨1, 3, false⟩ : Collapse)].find? (fun y => decide (y.page = 1) && !y.swept)) = some ⟨1, 3, false⟩ ∧ collapseSwept { s with collapses := [⟨1, 3, false⟩] } 3 = true ∧
    ctlField s 0x300 0 6 ≠ 5 ∧ quadUsed s 0 0 = false ∧
    quadUsed { regs [(8, 1)] with ctxs := [(0, crewed (.bank 0 0) 0 0)], cores := [(0, { active := some 0 })] } 0 0 = true := by decide +kernel

/-! ### Faults -/

/-- A fault of unit 0 in S0. -/
def fault (sup held : Bool) : PendingFault :=
  { record := { cause := 3, off := 0x40, mask := 0xFFFFFFFF }, cause := .nv, sup := sup, held := held, slot := false, age := 0 }
/-- Context 0 in bank 0 of core 0 with a handler at 0xF00 or none, and the ring of die 0 on. -/
def faulting (t : Thread) (tv : Dword) (c : Map Dword) : State :=
  { W 0 t with ctl := (8, 1) :: c, ctxs := [(0, { ctx [(0, t)] with tvec := tv })] }
theorem test_meets_faults :
    let on : Map Dword := [(0x2608, 0x80060000)]
    let s := faulting thread 0xF00 on
    let inh := faulting { thread with inh := true } 0xF00 on
    let busy := faulting { thread with flight := [access .store [3]], chainLeft := 1 } 0xF00 on
    let entering := faulting { thread with entering := [fault false false] } 0xF00 on
    let holding := faulting { thread with helds := [fault true true] } 0xF00 on
    (getUnit s 0 0).flight = [] ∧ (getUnit s 0 0).chainLeft = 0 ∧ (getUnit s 0 0).entering = [] ∧ (getUnit s 0 0).inh = false ∧
    (getUnit inh 0 0).inh = true ∧ (getUnit inh 0 0).inhSlot = (fault false false).slot ∧ (getCtx s 0).tvec ≠ 0 ∧
    handlerOff (getCtx s 0) (getFerry s 0 0) = some 0xF00 ∧ (getCtx (faulting thread 0 on) 0).tvec = 0 ∧
    ((0xF00 : Dword).toNat = 0 + (0xF00 : Word).toNat ∧ (0xF00 : Word).toNat % 4 = 0 ∧ (0xFFC : Word).toNat + 4 ≤ 4096) ∧
    (getUnit busy 0 0).flight ≠ [] ∧ (getUnit busy 0 0).chainLeft ≠ 0 ∧ fltOn s 0 = true ∧ fltOn (faulting thread 0 []) 0 = false ∧
    (fault false false).cause ≠ .bkpt ∧ (getUnit entering 0 0).entering = [fault false false] ∧ ctxIssues entering 0 = true ∧ (getCtx entering 0).halted = false ∧
    bankCtx s 0 0 = some 0 ∧ bankCtx s 0 1 = none ∧ (getUnit holding 0 0).helds = [fault true true] ∧
    namedCtx holding 0 0 (fun k => !(getUnit holding k 0).helds.isEmpty) = some 0 ∧ namedCtx s 0 0 (fun _ => true) = some 0 ∧
    namedCtx s 0 1 (fun _ => true) = none ∧
    mgetD { s with ringRetry := [(0, [[1]])] }.ringRetry 0 [] = [[1]] ∧
    ((ctlField s 0x260C 16 16 + 1) % 64 ≠ ctlField s 0x260C 0 16 % 64) ∧
    (let f := faulting thread 0xF00 ((0x260C, 63 * 65536) :: on)
     (ctlField f 0x260C 16 16 + 1) % 64 = ctlField f 0x260C 0 16 % 64) := by decide +kernel

/-! ### Waits and landing -/

/-- An arrival of this package's ferry 0 at a barrier of a level, whose home is an endpoint. -/
def arrival (l : Level) (home count : Nat) (k : ArrKind) : HArrival :=
  { asid := 0, level := l, scope := 0, id := 3, count := count, home := home, ep := 0, cell := 0, core := 0, ctx := 0, ferry := 0, clock := 0, kind := k }
/-- Unit 0 with its slot held. -/
def holding (h : Hold) (fl : List Access) : Thread := { thread with s0 := { thread.s0 with hold := h }, flight := fl }
/-- The bars of ferry 0 in context 0, but for one, hold no instance that is over. -/
def quietBars (s : State) (n : Nat) : Bool :=
  (List.range 16).all fun k => decide (k = n) || (getBar s 0 0 k).inst.all fun i => !instDone s 0 i
/-- Unit 0's slot at a barrier whose arrival is to be recorded. -/
def atBar (b : Bar) (ids ps : List Nat) (fl : List Access) : State := W2 (holding (.arriving 3 ids ps none false) fl) b
theorem test_meets_arrivals :
    let s := atBar {} [0] [2] []
    let alone := W 0 (holding (.arriving 3 [0] [] none false) [])
    (getUnit s 0 0).s0.hold = .arriving 3 [0] [2] none false ∧ (getUnit s 0 0).s0.occ = true ∧ (getUnit s 0 0).stack = [] ∧
    (getUnit s 0 0).s1.occ = false ∧ quietBars s 16 = true ∧ quietBars alone 16 = true ∧ (getCtx s 0).pushes = [] ∧
    (getBar s 0 0 3).inst = none ∧ ((getUnit (atBar {} [0] [] [access .store [3]]) 0 0).flight.any fun y => decide (y.id ∈ [0]) && !y.done) = true ∧
    (getUnit s 0 0).flight = [] ∧ ((getUnit s 0 0).cox.cmds = [] ∧ (getUnit s 0 0).cox.sent = []) ∧
    ((getBar (atBar { inst := some { num := 7, expected := [0, 1], arrived := [0] } } [0] [] [access .store [3]]) 0 0 3).inst.any fun i =>
      decide (0 ∈ i.arrived)) = true ∧
    arriveBad s 0 0 3 .plain = false ∧ coxFails s 0 0 = false ∧
    instDone s 0 { num := 1, expected := expectedAt s 0 0 3, arrived := [0], plain := true } = false ∧
    instDone alone 0 { num := 1, expected := expectedAt alone 0 0 3, arrived := [0], plain := true } = true ∧ 0 ∈ ferryUnits alone 0 0 ∧
    arriveBad (atBar { inst := some { num := 1, expected := [0, 1], arrived := [1], repack := some 0x40 } } [] [] []) 0 0 3 .plain = true ∧
    quietBars (atBar { inst := some { num := 1, expected := [0, 1], arrived := [1], repack := some 0x40 } } [] [] []) 16 = true ∧
    (getUnit s 0 0).entering = [] := by decide +kernel

/-- Unit 0's slot at a hierarchical barrier, its ferry having arrived or not, beside a second crew or alone. -/
def atHBar (two : Bool) (fl : List Access) (made : List HArrival) : State :=
  let s := if two = true then W2 (holding (.harriving (arrival .quad 0 2 .now) [0] []) fl) {} else W 0 (holding (.harriving (arrival .quad 0 2 .now) [0] []) fl)
  modFerry s 0 0 fun f => { f with hmade := made }
theorem test_meets_hierarchical_arrivals :
    let a := arrival .quad 0 2 .now
    let missing (s : State) : Bool := (ferryUnits s 0 0).any fun k => isCrew k && goesOn s 0 k && decide (k ≠ 0)
    let made (s : State) : Bool := (getFerry s 0 0).hmade.any (sameKey a)
    ([atHBar true [] [], atHBar false [] [], atHBar true [] [a], atHBar true [access .store [3]] []].all fun s =>
      decide ((getUnit s 0 0).s0.hold = .harriving a [0] []) && decide ((getUnit s 0 0).s1.occ = false) && quietBars s 16 &&
        decide ((getUnit s 0 0).stack = [])) = true ∧
    missing (atHBar true [] []) = true ∧ missing (atHBar false [] []) = false ∧ made (atHBar true [] []) = false ∧
    made (atHBar true [] [a]) = true ∧ (getFerry (atHBar true [] []) 0 0).hcrews = [] ∧ a.kind = .now ∧ a.ctx = 0 ∧ a.ferry = 0 ∧
    ((getUnit (atHBar true [access .store [3]] []) 0 0).flight.any fun y => decide (y.id ∈ [0]) && !y.done) = true := by decide +kernel

theorem test_meets_hierarchical_homes :
    let far := { arrival .domain 5 2 .now with ep := 0 }
    let s := peer (linked {})
    let a := arrival .quad 0 2 .now
    let w (ep : Nat) : HArrival := { a with ep := ep, kind := .waiter }
    sessLive s far.home = true ∧ far.home ≠ ownEp s ∧ far.ep = ownEp s ∧ far.level = .domain ∧
    (∀ k ∈ [ArrKind.discard, .waiter, .standing, .now], (arrival .quad 0 2 k).kind = k ∧ (arrival .quad 0 2 k).level ≠ .cell ∧
      (arrival .quad 0 2 k).level ≠ .domain) ∧
    s.hbars = [] ∧ s.hstand = [] ∧ [a].length < max 1 a.count ∧ max 1 (arrival .quad 0 1 .now).count ≤ [arrival .quad 0 1 .now].length ∧
    ({ s with hwait := [w 0, w 5] }.hwait.filter fun h => sameKey h a) = [w 0, w 5] ∧ (w 5).ep ≠ ownEp s ∧ sessLive s (w 5).ep = true ∧ (w 0).ep = ownEp s ∧
    (getFerry (atHBar true [] []) 0 0).span = a.span ∧ (getFerry (atHBar true [] []) 0 0).index = a.index ∧ isCrew 0 = true ∧
    sameKey a a = true ∧ (getUnit (W 0 (holding (.hbar a) [])) 0 0).s0.hold = .hbar a ∧ (getUnit (W 0 (holding (.hbar a) [])) 0 0).s0.occ = true ∧
    (getUnit (W 0 (holding (.sleep 0) [])) 0 0).s0.hold = .sleep 0 ∧ (W 0 thread).now = 0 := by decide +kernel

/-- A halo of two tiles of one row, of cores 0 and 1. -/
def halo2 : List Byte :=
  leBytes 8 0 ++ leBytes 4 128 ++ leBytes 2 1 ++ leBytes 2 16 ++ leBytes 2 1 ++ leBytes 2 8 ++ [0, 1] ++ List.replicate 2 0 ++ leBytes 4 0 ++
    List.replicate 4 0 ++ leBytes 2 0 ++ leBytes 2 1 ++ List.replicate 28 0
def pushOf (todo : List (Nat × Nat)) (read : List (Nat × Nat × List Byte)) : Push :=
  { id := 4, halo := ⟨halo2, 0⟩, car := 0x44, word := 0, todo := todo, read := read }
/-- Contexts on cores 0 and 1 that own its tiles; the first pushes. -/
def pushing (p : Push) (l : Map L2Line) : State :=
  let own (k : Nat) (ps : List Push) : Ctx := { live := true, place := .bank k 0, halos := [(0, ⟨halo2, k⟩)], pushes := ps }
  { regs [(8, 1)] with
    ctxs := [(0, own 0 [p]), (1, own 1 [])], cores := [(0, { active := some 0, tlb := [flat] })], l2 := l
    home := if l = [] then [] else [(0, { st := .m, owner := .die 0 })] }
def line0 : Map L2Line := [(0, { st := .m, wts := 0, rts := 0, data := List.replicate 128 7, poison := false })]
/-- Cell 2 owns the line. -/
def elsewhere (s : State) : State := { s with filt := [(0, { st := .m, owner := 2, vec := 4 })] }
def readKind (s : State) (va : Nat) : Nat :=
  match (readElem s 0 [] va 4).1 with
  | .got _ => 0
  | .waits => 1
  | .bad _ _ => 2
theorem test_meets_pushes :
    let s := pushing (pushOf [] [(0, 7, [1, 2, 3, 4])]) []
    let h := haloOf halo2
    (getCtx s 0).pushes.find? (fun y => decide (y.id = 4)) = some (pushOf [] [(0, 7, [1, 2, 3, 4])]) ∧ Map.sorted s.ctxs = true ∧
    h.tiles = 2 ∧ h.inFrame 1 0 7 = true ∧ h.inFrame 1 0 0 = false ∧ frameOwner s (getCtx s 0) 0 1 = some (1, ⟨halo2, 1⟩) ∧
    frameOwner s (getCtx s 0) 0 0 = some (0, ⟨halo2, 0⟩) ∧ frameOwner s (getCtx s 0) 0 0xFFFF = none ∧
    readKind (pushing (pushOf [(0, 7)] []) line0) (h.va 0 7) = 0 ∧ readKind (elsewhere (pushing (pushOf [(0, 7)] []) [])) (h.va 0 7) = 1 ∧
    readKind (pushing (pushOf [(0, 7)] []) []) (2 ^ 52) = 2 := by decide +kernel

theorem test_meets_landing_events :
    let e : LEntry := { state := .live, reg := 16, width := 4, nonce := 9, deadline := 5, expected := some 5 }
    let s := { named thread 0 [(3, e)] with now := 5 }
    let lost : State := { s with peerCell := [(5, 2)], ctl := [(0x208, 4)] }
    let m (o : LandFrom) : LandMsg := { name := mkName 0 0 3 9 4, data := List.replicate 128 7, width := 4, cls := 0, clock := none, origin := o }
    let a : Access := { access .lsto [4] with pieces := [{ piece 0 5 with served := .own, done := false }, { piece 1 5 with served := .own, done := false }] }
    let q (pa : Nat) : LreqMsg := ⟨pa, 128, mkName 0 0 3 9 4, 0, .unit ⟨0, 0, 0⟩ 0⟩
    (landAt s (m (.unit ⟨0, 0, 0⟩ 0))).2 = none ∧ (landAt s { m (.engine 0 0x44 0) with width := 3, name := mkName 0 0 3 9 3 }).2 = some .lnForeign ∧
    sessLive (peer (linked {})) 5 = true ∧ getAcc (flying a) ⟨0, 0, 0⟩ = some a ∧ a.lands = [] ∧ (a.pieces.any fun y => y.isOpen && decide (y.lane ≠ 0)) = true ∧
    (a.pieces.find? (fun y => decide (y.lane = 0) && y.isOpen)).isSome = true ∧ getAcc (flying a) ⟨0, 0, 1⟩ = none ∧
    getAcc (flying { a with kind := .lreq }) ⟨0, 0, 0⟩ = some { a with kind := .lreq } ∧ (getUnit (flying { a with kind := .lreq }) 0 0).late = [] ∧
    (q (2 ^ 45)).pa / 128 / 2 ^ 38 % 128 = 1 ∧ (q (2 ^ 39)).pa / 128 % 2 ^ 38 = 2 ^ 32 ∧
    ((engineGet (pushing (pushOf [] []) line0) 0 none [] 0 128).data = some (List.replicate 128 7, false)) ∧
    ((engineGet (elsewhere (pushing (pushOf [] []) [])) 0 none [] 0 128).data = none) ∧
    ((engineGet (pushing (pushOf [] []) [(0, { st := .m, wts := 0, rts := 0, data := List.replicate 128 7, poison := true })]) 0 none [] 0 128).data.map Prod.snd) = some true ∧
    nmEp (q 0).name = ownEp s ∧ nmEp (mkName 5 0 3 9 4) ≠ ownEp s ∧
    (getEntry s 0 3).nonce = 9 ∧ (getEntry s 0 3).deadline ≤ s.now ∧ (getEntry s 0 3).state = .live ∧ (getEntry s 0 3).expected.any (epLost s) = false ∧
    (getEntry lost 0 3).expected.any (epLost lost) = true ∧
    (getUnit (W 0 (holding (.mint 1) [])) 0 0).s0.hold = .mint 1 ∧ (getUnit (W 0 (holding (.mint 1) [])) 0 0).s0.since + 1800 ≤ ({ W 0 thread with now := 1800 }).now := by
  decide +kernel

/-! ### Engines -/

/-- A segment of two elements at the start of the copy. -/
def seg2 : Seg := { first := 0, len := 2, dst0 := 0x1000 }
/-- The carter with one copy. -/
def copying (k : Copy) : State := W 0x44 { thread with copies := [k] }
/-- A part of the bank at 0, and one of memory. -/
def bankPart : Part := { spot := .bank 0, pos := 0, len := 8, va := 0 }
def memPart0 : Part := { bankPart with spot := .mem 0 }
def gotParts (s : State) (k : Copy) (ps : List Part) : Nat :=
  match (readParts 0 k ps s []).1 with
  | .got d => d.length
  | .bad b => 100 + b.code
  | .waits => 200
theorem test_meets_copy_events :
    let k : Copy := { someCopy with segs := [seg2] }
    let s := copying k
    let far : Copy := { k with src := 0x4000000000 }
    let r : Copy := { k with segs := [{ seg2 with issued := true, src := [bankPart], dst := [bankPart], deadline := 5 }] }
    let bad (s : State) : State := { s with ctxs := s.ctxs.map fun e => (e.1, { e.2 with lsPoison := [(0, true)] }) }
    let sides (k : Copy) (s : State) := (sideParts 0 0x44 k false (cutRuns 0 (k.srcRuns 3 0 2)) s).1.2
    getCopy s 0 0x44 0 = some k ∧ getCopy s 0 0x44 1 = none ∧ k.stopped = false ∧ k.segs.find? (fun y => !y.issued) = some seg2 ∧
    idsDone (getUnit s 0 0x44) k.waits = true ∧ copiesGo s 0 = true ∧ (k.segs.filter Seg.isOpen).length < 64 ∧
    idsDone { thread with flight := [access .store [3]] } [0] = false ∧
    sides k s = none ∧ (sideParts 0 0x44 k true (cutRuns 0 [(0x1000, 8)]) s).1.2 = none ∧
    (sides far (copying far)).map PartBad.lost = some false ∧
    (getCopy (copying r) 0 0x44 0).bind (fun k => k.segs.find? fun y => decide (y.first = 0) && y.isOpen) = r.segs.head? ∧
    gotParts (copying r) r [bankPart] = 8 ∧ gotParts (bad (copying r)) r [bankPart] = 104 ∧ gotParts (elsewhere (copying r)) r [memPart0] = 200 ∧
    (copying r).now < 5 ∧ (writeParts 0 0x44 r seg2 (List.replicate 8 1) [bankPart] (copying r)).1 = [] ∧
    (writeParts 0 0x44 r seg2 (List.replicate 8 1) [bankPart] (copying r)).2.1 = none ∧
    ((writeParts 0 0x44 r seg2 (List.replicate 8 1) [memPart0] { copying r with ctl := [(8, 1), (0x248, 1)] }).2.1.map PartBad.lost) = some false ∧
    (writeParts 0 0x44 r seg2 (List.replicate 8 1) [memPart0] { copying r with ctl := [(8, 1), (0x248, 1)] }).1 ≠ [] ∧
    lsPois (getCtx (bad (copying r)) 0) 0 = true ∧ lsPois (getCtx (copying r) 0) 0 = false ∧ laterWrote r 0 0 = false ∧
    k.over = false ∧ ({ k with segs := [{ seg2 with issued := true, done := true, wrote := 2 }] } : Copy).over = true ∧
    ({ k with segs := [{ seg2 with issued := true, done := true, wrote := 2 }] } : Copy).lead = none ∧
    ({ k with segs := [{ seg2 with issued := true, failed := some (3, 0) }] } : Copy).over = true ∧
    ({ k with segs := [{ seg2 with issued := true, failed := some (3, 0) }] } : Copy).lead = some (3, 0) ∧
    suspSlot (getUnit s 0 0x44) = some 0 ∧ suspSlot { thread with exited := true } = none ∧
    winFlag (winEntry { s with mem := [⟨0x3C, 5⟩] } 1) 2 = true ∧ publHolds s 0 0x44 0 1 = false := by decide +kernel

theorem test_meets_publishes :
    let p : Publ := ⟨1, 0, 0x44, mkName 0 0 3 9 2, 0, [], false, false⟩
    let w : Sweep := { id := 0, scope := 3, size := 0, target := 1, va := 0, reg := false }
    [p].find? (fun y => decide (y.wid = 1)) = some p ∧ (∀ y ∈ [p], y.wid ≠ 2) ∧ p.switched = false ∧ p.waits = [] ∧
    publSweeps { regs [] with sweeps := [w] } 1 = true ∧ publSweeps (regs []) 1 = false ∧ ({ p with waits := [(0, 0, 0)] } : Publ).waits ≠ [] := by
  decide +kernel

/-- The cox of context 0 with one command, in the engine or not. -/
def engined (k : CoxCmd) (g : Option (Nat × Nat)) (a : Option Nat) (l : Map Bool) : State :=
  let t := { thread with cox := { cmds := [k] } }
  { W 0x40 t with
    cores := [(0, { active := a, engine := g })], ctxs := [(0, { ctx [(0x40, t)] with lsPoison := l })] }
theorem test_meets_engine :
    let f := fmtBytes 12 12 0 0
    let mma : CoxCmd := { someCmd with op := 0xB9, fmt := f }
    let mmas : CoxCmd := { someCmd with op := 0xBA, fmt := fmtBytes 12 12 0 1, zmap := List.replicate 8 0xFF }
    let s := engined mma none (some 0) []
    let p := engined mma none (some 0) [(0, true)]
    (getCore s 0).engine = none ∧ (getCore s 0).active = some 0 ∧ (getCtx s 0).halted = false ∧ oldestCmd (readyCmds s 0) = some (0x40, mma) ∧
    (getUnit s 0 0x40).cox.cmds.head? = some mma ∧ mma.grp < 4 ∧ readyCmds (W 0 thread) 0 = [] ∧
    mma.allMarked 0 (fbG f) = false ∧ mmas.allMarked 0 (fbG mmas.fmt) = true ∧
    groupPoison (getCtx s 0) f false 0 0 (fbG f) mma.marked = none ∧ groupPoison (getCtx s 0) f true 0 0 (fbG f) (fun _ _ => false) = none ∧
    groupPoison (getCtx p 0) f false 0 0 (fbG f) mma.marked ≠ none ∧ lsPois (getCtx p 0) 0 = true ∧
    (getCore (engined mma (some (0, 0x40)) (some 0) []) 0).engine = some (0, 0x40) ∧ (getCore (engined mma (some (0, 0x40)) none []) 0).active ≠ some 0 ∧
    ({ mma with grp := 4, ti := true, tie := true }).grp = 4 ∧ someCmd.endKeep = false ∧
    (∀ o ∈ [0xBC, 0xBD, 0xBE], o ≠ 0xB9 ∧ o ≠ 0xBA) := by decide +kernel

/-- A job of the descriptor above, in stack 0, whose matrix lies at 0 in an address space that is there, or is not. -/
def milling (ph : Nat) (d : List Byte) : State :=
  let j : MillJob := { ctx := 0, unit := 0x40, core := 0, span := 0, index := 0, asid := 0, cls := 0, desc := d, x := List.replicate 128 0, word := 0, off := 0, due := 0, phase := ph }
  { tables [] with mills := [(0, [j])], ctxs := [(0, ctx [(0x40, thread)])] }
/-- How the read of the rows ends. -/
def millKind (s : State) : Nat :=
  match (mgetD s.mills 0 []).head? with
  | none => 0
  | some j => match (millRead (millsTold s 0) j).1 with
    | .inl w => w.1.length
    | .inr (.bad n _ _) => 100 + n
    | .inr (.waits _) => 200
theorem test_meets_mills :
    (mgetD (milling 0 millBytes).mills 0 []).map MillJob.phase = [0] ∧ (mgetD (milling 2 millBytes).mills 0 []).map MillJob.phase = [2] ∧
    mgetD ({ milling 0 millBytes with recal := [(0, true)] }).recal 0 false = true ∧ mgetD (milling 0 millBytes).recal 0 false = false ∧
    mgetD (regs []).mills 0 [] = [] ∧ millKind (milling 0 millBytes) = 1 ∧ millKind { milling 0 millBytes with mem := [] } = 102 ∧
    mlSname millBytes = 0 ∧ mlSname (millBytes.take 0x30 ++ leBytes 8 (mkName 0 0 3 9 2).toNat ++ List.replicate 8 0) ≠ 0 ∧
    nmEp (mlRname millBytes) = ownEp (regs []) := by decide +kernel

/-! ## Witnesses: further premises -/

/-- A slot at a JOIN's offset whose earlier words can still fail, and one whose cannot. -/
theorem test_meets_joins :
    let t := forked 0x40 .none []
    slotOpen t true = false ∧ slotOpen { t with flight := [{ access .load [3] with slot := true }] } true = true ∧
    joinable t.s1 = true ∧ t.s1.off = t.s0.off ∧ t.s1.hold ≠ .join ∧ (t.stack.headD {}).hold ≠ .join := by decide +kernel

/-- Nothing is left to record and no other instance is over; a unit that has arrived; a ferry that has arrived. -/
theorem test_meets_barrier_records :
    let h := hbarOf (W2 thread {}) 1 3 0
    let z := modFerry (W2 thread {}) 0 0 fun f => { f with hmade := [h] }
    ([W 0 thread, W2 thread {}, paired].all fun s => !anySlot (curUnit s) waitsRecord && quietBars s 16) = true ∧
    hasArrived (W2 thread { inst := some { num := 7, expected := [0, 1], arrived := [0] } }) 0 0 3 = true ∧
    (getFerry z 0 0).hmade.any (sameKey (hbarOf z 1 3 0)) = true ∧ (getFerry (W2 thread {}) 0 0).hmade.any (sameKey h) = false ∧
    hbarLost z (hbarOf z 1 3 0) = false := by decide +kernel

/-- What a word that has been planned finds: nothing to wait for, and its translations. -/
def planned (s : State) : Bool :=
  let w := planWait s false .load (accs s) false
  let z := noteOps w.2 (.ld (.v 2) (.v 4) 0)
  let q := xlatLanes 0 0 4 { r := true } (accs s) z
  w.1.isNone && !q.1.wait && q.1.bad.isEmpty && (farFault q.2 q.1.ok).isNone && q.1.ok.all fun e => e.2.all fun p => !p.2.2.2.ace
theorem test_meets_planned :
    planned (W 0 (at4 0x80 0)) = true ∧ (planWait (W 0 (at4 0 0x100000)) false .load (accs (W 0 (at4 0 0x100000))) false).1 = none ∧
    (planWait (W 0 (at4 2 0)) false .acquire (accs (W 0 (at4 2 0))) false).1 = none ∧ (W 0 (at4 0x80 0)).errs = [] := by decide +kernel

/-- A context of the same address space on core 1, which addresses with that core reach. -/
def beside : State :=
  { W 0 (at4 0x80 1) with ctxs := (W 0 (at4 0x80 1)).ctxs ++ [(1, { live := true, place := .bank 1 0 })] }
theorem test_meets_apart :
    Fresh beside ∧ ((accs beside).all fun e => decide (clusterCtx beside e.ea 4 = some 1)) = true ∧ beside.cur.ctx = 0 ∧
    ((accs beside).all fun e => decide (e.ea.toNat % 4 = 0)) = true ∧ accs beside ≠ [] ∧
    (∀ i ∈ ([.ldx (.v 2) (.v 4) 0, .stx (.v 2) (.v 4) 0] : List Instr), Runs i beside) :=
  ⟨⟨rfl, rfl, rfl, rfl, rfl, rfl, rfl, rfl, rfl, rfl⟩, by decide +kernel, rfl, by decide +kernel, by decide +kernel,
    runs_of ⟨rfl, rfl, rfl, rfl, rfl, rfl, rfl, rfl, rfl, rfl⟩ (by decide +kernel)⟩
theorem test_meets_apart_free : accessWait beside false [1] false = (none, beside) := rfl

/-- A line that the die's L2 serves: it owns it. -/
theorem test_meets_served :
    (getL2 (pushing (pushOf [] []) line0) (dieOf (ctxCore (getCtx (pushing (pushOf [] []) line0) 0))) 0).any
      (fun x => l2Serves (pushing (pushOf [] []) line0) x 0 (clk (pushing (pushOf [] []) line0) 0)) = true := by decide +kernel

/-- A request whose name and address pass. -/
theorem test_meets_requests :
    let s := named (holder 4) 0 (table 8 16 4)
    let w := lreqWait (.g 6) (.g 4) s
    let reqs := lreqLanes s (.g 6) (.g 4)
    let q := lreqXlat 0 0 reqs (noteOps w.2 (.lreq (.g 6) (.g 4)))
    w.1 = none ∧ q.1.length = reqs.length ∧ q.2.1 = [] ∧ (reqs.all fun x => decide (nameCheck q.2.2 x.name = none)) = true := by decide +kernel

/-- A copy's descriptor in the bank, an engine with room, and hints and halos that wait for nothing. -/
theorem test_meets_engine_waits :
    let s := banked 0x44 (carter 7 1) cpytBytes
    let z := readLs (noteOps s (.cpyt (.g 6) (.g 8))) 0 0 48
    cpytWait (.g 6) (.g 8) s = (none, s) ∧ isBytes (bankRead z 0 32 (cpytLen z 0)) = true ∧ cpytLen s 0 = 48 ∧
    (let w := windowed [] 0x80000000 []
     let r := readLs (noteOps w (.halo (.g 10) (.g 5))) 0 ((gOf w (.g 5)).toNat % 2 ^ 17) 64
     haloDesc r (.g 5) = (.inl haloBytes, true) ∧ haloWait (.g 5) w = (none, w)) ∧
    (let w := windowed [] 0 [(0, ⟨haloBytes, 0⟩)]
     let r := readLs (noteOps w (.halo (.g 10) (.g 5))) 0 0 64
     haloDesc r (.g 5) = (.inl haloBytes, false) ∧ haloWait (.g 5) w = (none, w)) ∧
    (let w := windowed [] 0 []
     let r := readLs (noteOps w (.halo (.g 10) (.g 5))) 0 0 64
     haloDesc r (.g 5) = (.inl haloBytes, false) ∧ haloWait (.g 5) w = (none, w) ∧
       (fillFrame 0 (haloOf haloBytes) 0 ((haloOf haloBytes).frameElems 0) r (fillAsks r)).1 = .done) ∧
    (let w := replhWait (.g 4) s
     w.1 = none ∧ (askReplica (noteOps w.2 (.replh (.g 4))) 0).cur.stay = false) := by decide +kernel

/-- A command of the mill that finds room, and one that throttling holds. -/
theorem test_meets_mill_waits :
    let s := coxed (some (fmtBytes 11 11 1 0)) [] 0 millBytes
    let z := readLs (noteOps s (.mill (.g 5))) 0 0 64
    (millWait (.g 5) s).1 = none ∧ bankRead z 0 64 64 = .inl millBytes ∧
    isBytes (issueBytes (readLs z 0 (mlXoff millBytes) (mlK millBytes * tySize (mlXty millBytes))) (mlXoff millBytes)
      (mlK millBytes * tySize (mlXty millBytes))) = true ∧
    ({ s with throttle := 1 } : State).throttle ≠ 0 ∧ wordFault { s with throttle := 1 } (.mill (.g 5)) = none ∧
    (let f := coxed (some (fmtBytes 12 12 0 0)) [] 0 (fmtBytes 12 12 0 0)
     let z := readLs (noteOps f (.fmtb (.g 5))) 0 0 32
     bankRead z 0 32 32 = .inl (fmtBytes 12 12 0 0)) := by decide +kernel

/-- Each phase of an update, with the image that is current or another; what the log has exported. -/
theorem test_meets_updates :
    let at_ (b : Boot) (u : Update) : State := { regs [(0x748, 6)] with boot := b, update := u, auditExported := some 6 }
    (∀ u ∈ [Update.fetching 0 2, .fetching 1 2, .fetching 0 0, .idle, .replacing 3 false, .replacing 3 true, .replacing 16 false],
      (at_ .running u).boot = .running ∧ (at_ .running u).update = u ∧ (at_ .running u).image = [] ∧ (at_ .running u).image ≠ [0]) ∧
    (at_ .refused .idle).boot = .refused ∧ (at_ .firstStage .idle).inletHot = false ∧ ({ at_ .firstStage .idle with inletHot := true }).inletHot = true ∧
    (at_ .running .idle).auditExported = some 6 ∧ ctlGet (at_ .running .idle) 0x0748 ≤ 6 ∧
    (regs [(0x748, 7)]).auditExported = none ∧ (6 : Nat) < ctlGet (regs [(0x748, 7)]) 0x0748 := by decide +kernel

/-- Storage with an error that nothing has met, lines of a stack that recalibrates, stacks in use and quiet, fences that wait. -/
theorem test_meets_service_waits :
    let e (u : Bool) : State := { regs [(8, 0x2000), (0xA18, 0x80000000)] with errs := [(.hbm 7, u)] }
    let r : State := { regs [] with recal := [(0, true)] }
    (∀ u ∈ [true, false], errAt (e u) (.hbm 7) = some u) ∧ errAt (regs []) (.hbm 7) = none ∧
    (7 / 2 ^ 38 % 128 = ctlField r 0 0 7 ∧ mgetD r.recal (7 / 2 ^ 29 % 8) false = true) ∧ mgetD (e true).recal (7 / 2 ^ 29 % 8) false = false ∧
    ctlField (e true) 8 12 2 = 2 ∧ ctlField (e true) 0xA18 31 1 = 1 ∧ mgetD (e true).recal 0 false = false ∧
    stackInUse { e true with hwPend := [(0, [1])] } 0 = true ∧ stackInUse (e true) 0 = false ∧ (e true).now < (e true).stkQuiet + 1800 ∧
    (e true).stkQuiet + 1800 ≤ ({ e true with now := 1800 }).now ∧
    (let f := { regs [(8, 4), (0xA10, 0x80000000)] with fences := [1] }
     1 ∈ f.fences ∧ ctlField f 0xA10 31 1 = 1 ∧ ctlField f 8 2 2 = 1) ∧ 1 ∉ (regs [(8, 12)]).fences ∧
    (let w := regs [(8, 0x1000)]
     ctlField w 8 12 2 ≠ 0 ∧ ([0, 1, 2, 3].all fun k => decide (ctlField w 8 (2 * k) 2 = 0)) = true) ∧
    mgetD ({ regs [] with linkRuns := [(0, 15)] }).linkRuns 0 0 + 1 = 16 ∧ (fencedBy 0).isSome = true ∧ (fencedBy 6).isSome = true := by decide +kernel

/-- Packets that pass under each key slot, and one that does not; the heartbeat's key. -/
def goodPacket (slot : Bool) : Packet :=
  let p := { from5 0 9 0 with kslot := slot }
  let key := keyNum 5 0 9 1
  let iv := ivOf 0 0
  { p with tag := Config.packetTag key iv (packetHeader p) p.payload, crypt := some { key := key, iv := iv } }
def goodSession (slot : Bool) : Session := { linked {} with gen1 := 1, rxSlot := slot, installed := true }
theorem test_meets_packets : ∀ slot : Bool,
    let p := goodPacket slot
    let s := peer (goodSession slot)
    let iv := ivOf (if p.stream = 7 then 0 else if p.kslot = true then (goodSession slot).rxSalt1 else (goodSession slot).rxSalt0) p.pctr
    let key := keyNum p.src (ownEp s) (goodSession slot).tag (if p.kslot = true then (goodSession slot).gen1 else (goodSession slot).gen0)
    p.tag = Config.packetTag key iv (packetHeader p) p.payload ∧ p.crypt = (if p.stream = 7 then none else some { key := key, iv := iv }) ∧
    rxTuned s 0 p.src = true ∧ p.dst = ownEp s ∧ p.ndata ≤ 8 ∧ p.stream < 4 ∧ mget? s.sess p.src = some (goodSession slot) ∧
    p.stag = (goodSession slot).tag ∧ p.kslot = (goodSession slot).rxSlot ∧ p.kslot ≠ (goodSession (!slot)).rxSlot ∧
    (goodSession slot).installed = true := by
  intro slot
  cases slot <;> exact ⟨rfl, rfl, by decide +kernel, by decide +kernel, by decide, by decide, rfl, rfl, rfl, by decide, rfl⟩
theorem test_meets_bad_packets :
    let hb := { from5 7 9 0 with crypt := some { key := 0, iv := 0 } }
    (from5 0 9 0).crypt = none ∧ hb.crypt ≠ none ∧ hb.stream = 7 ∧ ({ from5 6 0 0 with payload := .spdm .start }).payload = .spdm .start ∧
    (from5 6 1 0).stag ≠ 0 ∧ (linked {}).installed = false ∧ (linked {}).rxOld = false ∧ ({ from5 0 9 0 with kslot := true }).kslot ≠ (linked {}).rxSlot := by
  decide

/-- The budget's period: not reached with and without an event for it, and reached; a switch whose time has come. -/
theorem test_meets_periods :
    let s := { regs [] with budgetAt := 100 }
    fabTime s < s.budgetAt ∧ (∀ e ∈ s.pending, e.ev ≠ .fabBudgetPeriod) ∧
    (∃ e ∈ ({ s with pending := [⟨0, .fabBudgetPeriod⟩] } : State).pending, e.ev = .fabBudgetPeriod) ∧ s.budgetAt ≤ fabTime { s with now := 300 } ∧
    ({ s with armed := some 3 }).armed = some 3 ∧ s.switching = none ∧ fabTime s < 3 ∧ 3 ≤ fabTime { s with now := 300 } ∧
    ({ s with switching := some ⟨1, [], []⟩ }).switching = some ⟨1, [], []⟩ :=
  ⟨by decide +kernel, by decide, ⟨_, List.mem_singleton.mpr rfl, rfl⟩, by decide +kernel, rfl, rfl, by decide +kernel, by decide +kernel, rfl⟩

/-- A member of a cell that is being set up with endpoint 5, full or not; a peer that departed; silence; the steps of leaving. -/
theorem test_meets_cells :
    let c (v : Dword) : State := regs [(0x200, v)]
    let m := { c 0x80000001 with setups := [(5, 9)] }
    let p := peer { linked {} with heard := 10 }
    ctlField m 0x200 31 1 = 1 ∧ ctlField (regs []) 0x200 31 1 = 0 ∧ mget? m.sess 5 = none ∧ mget? m.setups 5 = some 9 ∧
    ¬ 256 ≤ m.sess.length + m.tags.length ∧ (∀ e ∈ m.sess, e.2.tag ≠ 9) ∧ (∀ e ∈ m.tags, e.1 ≠ 9) ∧ (9 ≠ 0 ∧ ¬ 0xFFFF ≤ 9) ∧
    txPorts m 5 = [0] ∧ txPorts m 6 = [] ∧ 5 ∈ ({ p with departed := [5] }).departed ∧ (3 : Nat) ≠ (linked {}).cell ∧ 5 ∉ p.departed ∧
    p.now < 10 + 144000 ∧ 10 + 144000 ≤ ({ p with now := 144010 }).now ∧
    (let l := { p with ctl := [(0x200, 0x300)] }
     ctlField l 0x200 8 3 = 3 ∧ ownedAway l = [] ∧ l.asks = [] ∧ flightRefs l = [] ∧ (∀ e ∈ l.wb, ownLine l (e.1 / 4) = true) ∧
       (l.sess.any fun e => !e.2.flagged && decide (txPorts l e.1 ≠ [])) = true) ∧
    ((peer { linked {} with flagged := true }).sess.all fun e => e.2.flagged) = true ∧
    ctlField (c 0) 0x200 8 3 = 0 ∧ ctlField (c 0x400) 0x200 8 3 = 4 ∧ ctlField (c 0x100) 0x200 8 3 = 1 ∧
    ({ linked {} with oldTill := 5 }).oldTill ≤ ({ p with now := 5 }).now ∧ ¬ ({ linked {} with oldTill := 5 }).oldTill ≤ p.now := by decide +kernel

/-- Accesses of which one part is late; a landing store, a request, a holder and a write-back that timers watch, and none. -/
theorem test_meets_timers :
    let late : Piece := { piece 0 5 with pa := 2 ^ 45, deadline := 1, done := false }
    let a : Access := { access .load [4] with pieces := [late, { late with pa := 0, deadline := 0 }] }
    let s := { flying a with now := 2 }
    getAcc s ⟨0, 0, 0⟩ = some a ∧ a.kind ≠ .lreq ∧
    (a.pieces.any fun p => p.isOpen && !(decide (p.deadline ≠ 0) && decide (p.deadline ≤ s.now))) = true ∧
    mget? (regs []).landTxns 3 = none ∧ mget? ({ regs [] with asks := [(askKey 0 7 false, 4)] }).asks (askKey 0 7 false) = some 4 ∧
    mget? (regs []).asks (askKey 0 7 false) ≠ some 4 ∧ 5 ∈ (getFilt { regs [] with filt := [(7, { awaitEps := [5] })] } 7).awaitEps ∧
    (let p := { peer (linked {}) with filt := [(7, { awaitEps := [5] })] }
     invAwaited p (getFilt p 7) 5 = true ∧ sessLive p 5 = true ∧ invAwaited p { awaitEps := [5], evicting := true } 5 = false) ∧
    5 ∉ (getFilt (regs []) 7).awaitEps ∧ mget? (regs []).wb (l2Key 0 7) = none ∧
    (let b := { regs [] with wb := [(l2Key 0 (2 ^ 38), { st := .m, wts := 0, rts := 0, data := [], poison := false })] }
     (mget? b.wb (l2Key 0 (2 ^ 38))).isSome = true ∧ ownLine b (2 ^ 38) = false) := by decide +kernel

/-- The cross-cell statements' other premises: nothing has an error, a filter entry within its ways, owners' dies, a refill that is
busy, pages that are recalled, holders to ask again, and copies that run. -/
theorem test_meets_cross_cell_states :
    let s := lines [(7, { st := .s, vec := 4 })] [] []
    let here := lines [] [(7, { st := .m, owner := .die 0 })] (held7 .m)
    let away := lines [] [] [(4 * (2 ^ 38 + 7) + 2, { st := .m, wts := 3, rts := 9, data := List.replicate 128 7, poison := false })]
    s.errs = [] ∧ (getFilt s 7).way < waysOf s ∧ s.recallPage = none ∧ ownerDie here 7 = 0 ∧ (getL2 here (ownerDie here 7) 7).map L2Line.st = some .m ∧
    ownerDie away (2 ^ 38 + 7) = 2 ∧ (getL2 away (ownerDie away (2 ^ 38 + 7)) (2 ^ 38 + 7)).map L2Line.st = some .m ∧
    getL2 away 0 (2 ^ 38 + 7) = none ∧ getL2 away 1 (2 ^ 38 + 7) = none ∧ waitersOf away (2 ^ 38 + 7) = [] ∧
    mget? { away with asks := [(askKey 0 (2 ^ 38 + 7) false, 0)] }.asks (askKey 0 (2 ^ 38 + 7) false) ≠ none ∧
    mgetD ({ s with recal := [(0, true)] }).recal (7 / 2 ^ 29 % 8) false = true ∧ ({ s with sfBusy := true }).sfBusy = true ∧ s.sfBusy = false ∧
    (let e := { s with filt := [(7, { st := .m, owner := 2, vec := 4, pend := true })] }
     (7, getFilt e 7) ∈ e.filt ∧ 7 % 2 ^ 38 / 64 = ctlField e 0x22C 0 13 * 2 ^ 19 + ctlField e 0x228 13 19 ∧ (getFilt e 7).pend = true) ∧
    copiesRun (copying someCopy) = true ∧ copiesRun s = false ∧ (getFilt s 7).evicting = false ∧
    (let e := { s with filt := [(7, { evicting := true, awaitEps := [5] })] }
     (getFilt e 7).evicting = true ∧ (getFilt e 7).awaitEps ≠ [] ∧ sessLive e 5 = true) := by decide +kernel
/-- An atomic at its home: a line that nothing holds, poisoned or not, at an aligned address. -/
theorem test_meets_home_atomics :
    let s := lines [] [] []
    LineFree s 7 ∧ ctlField s 0x248 0 1 = 0 ∧ mget? s.reps (7 / 64) = none ∧ s.errs = [] ∧ (getFilt s 7).vec = 0 ∧ (getFilt s 7).host = 0 ∧
    (getHome s 7).st.owned = false ∧ (getHome s 7).lastGrant = 0 ∧ mgetD s.poison 7 false = false ∧
    mgetD ({ s with poison := [(7, true)] }).poison 7 false = true ∧ 0x384 % tySize 6 = 0 ∧ 0x384 / 128 = 7 ∧ sessLive s 5 = true :=
  ⟨lineFree_of (by decide +kernel) rfl, by decide +kernel⟩

/-- The package statements' other premises: the owner's die and what it holds, nothing that an owner holds, a home that is busy with
its own request, stacks that recalibrate, kinds of forwards. -/
theorem test_meets_package_states :
    let owned := lines [] [(7, { st := .e, owner := .die 0 })] (held7 .e)
    let s := lines [] [(7, { st := .s, rts := 5 })] []
    let turn := { s with home := [(7, { turn := some .clockSync })] }
    let fwd (o h : Bool) : State := lines [] [(7, { st := .m, owner := .die 0, fwd := some ⟨o, false, .die 1, h⟩ })] []
    ownerDie owned 7 = 0 ∧ ((getL2 owned 0 7).map fun x => decide (x.st ≠ .s)) = some true ∧ owned.errs = [] ∧
    (ownerLine s (ownerDie s 7) 7).isNone = true ∧ ctlField s 0x248 0 1 = 0 ∧ mget? s.reps (7 / 64) = none ∧ (getFilt s 7).host = 0 ∧ (getFilt s 7).vec = 0 ∧
    mgetD ({ s with recal := [(0, true)] }).recal (7 / 2 ^ 29 % 8) false = true ∧ mgetD s.recal (7 / 2 ^ 29 % 8) false = false ∧
    (getHome turn 7).turn = some .clockSync ∧ (getHome turn 7).fwd = none ∧ (getFilt turn 7).awaitEps = [] ∧ (getFilt turn 7).awaitHosts = [] ∧
    (getFilt turn 7).evicting = false ∧
    (∀ o ∈ [true, false], ∀ h ∈ [true, false], (getHome (fwd o h) 7).fwd = some ⟨o, false, .die 1, h⟩) ∧
    mget? ({ s with asks := [(askKey 0 7 false, 0)] }).asks (askKey 0 7 false) ≠ none ∧
    (let m : DMsg := { line := 7, src := .die 0, req := .die 0, toHome := false, pts := 0, wts := 0, rts := 0, grant := .s, data := none
                       poison := false, lastGrant := 0, die := 2 }
     dmsgDie s m = dmsgDie s m ∧ dmsgDie s m < 4) ∧
    getL2 s 0 7 = none ∧ ((getL2 (lines [] [] (held7 .s)) 0 7).map L2Line.st) = some .s := by decide +kernel

/-- An owning host whose line's stack is still, or not; a timer that is due or has a fellow; the window's status. -/
theorem test_meets_host_states :
    let s := hosted 1 true [(0, { st := .s, host := 1, hown := true, awaitHosts := [0] })]
    ownLine s 0 = true ∧ mgetD ({ s with recal := [(0, true)] }).recal (0 / 2 ^ 29 % 8) false = true ∧ mgetD s.recal (0 / 2 ^ 29 % 8) false = false ∧
    (getHome s 0).turn = none ∧ s.errs = [] ∧ 0 ∈ (getFilt s 0).awaitHosts ∧ (∀ u ∈ s.pending, u.ev ≠ .hostBinvTimeout 0 0) ∧
    (∃ u ∈ ({ s with pending := [⟨0, .hostBinvTimeout 0 0⟩] } : State).pending, u.ev = .hostBinvTimeout 0 0) ∧
    (getFilt s 0).evicting = false ∧ (getHome s 0).lastGrant = 0 ∧ (mgetD s.ports 0 {}).up = true ∧
    ¬ (65536 < (getExt s 0 0).size.toNat ∨ 2 ^ 39 < (getExt s 0 0).base.toNat + (getExt s 0 0).size.toNat * 2 ^ 23) ∧
    2 ^ 39 < ({ getExt s 0 0 with hoff := 2 ^ 39 } : Extent).hoff.toNat + (getExt s 0 0).size.toNat * 2 ^ 23 := by
  refine ⟨by decide +kernel, by decide +kernel, by decide +kernel, by decide +kernel, by decide +kernel, by decide +kernel, by decide +kernel,
    ⟨_, List.mem_singleton.mpr rfl, rfl⟩, by decide +kernel⟩

/-- The distributor's other premises: nothing to serve first, no victim on its way, what a span's reads answer. -/
theorem test_meets_dispatch_states :
    let s := crowded (queued 1 1) (sitting [(0, ferry)])
    serveFirst s [0] = none ∧ victimLeaves s 0 = false ∧ (queued 0 1).errs = [] ∧ queuesAt s 1 = [0] ∧ queuesAt s 0 = [] ∧
    (spanVisible (recorded 1 0) (span 0)).1 = true ∧ tkParent (span 0).ticket = 0 ∧
    (spanVisible { recorded 1 0 with spans := [(3, span 0)], ctxs := [(0, ctx [(0, { live := false, invs := [3] })])] } (span 0)).1 = false ∧
    (contRead (engineGet (recorded 1 0x180) 0 none [] 0x100 16).st (span 0x100) 0x180).1 = some (job 0) ∧
    (spanPa { recorded 1 0 with mem := [], home := [(0, { st := .m, owner := .mate 5 })] } (span 0x100) 0x100 16 { r := true, w := true }).1 = none := by
  decide +kernel

/-- A context on its way in; caches of a core with and without dirty lines. -/
theorem test_meets_context_states :
    let s := pair (crewed (.bank 0 0) 0 0) (crewed (.streamIn 0 1) 0 0) none
    (getCtx s 1).place = .streamIn 0 1 ∧ dirtyLines (flushCore s 0) 0 = [] ∧
    (let d : State := { s with writers := [(28, [0])], wb := [(l2Key 0 28, { st := .m, wts := 0, rts := 0, data := [], poison := false })] }
     dirtyLines (flushCore d 0) 0 ≠ []) ∧
    ({ s with ctxs := [(0, { crewed (.bank 0 0) 0 0 with releasing := true })] }.ctxs.any fun e => e.2.releasing) = true := by decide +kernel

/-- Walks with each outcome; hints that wait for one, or not; sweeps that are first and over; armed pages that were written. -/
theorem test_meets_upkeep_states :
    let s := tables []
    let z : State := { s with free := s.free + 1 }
    let hint : Hint := { unit := 0, size := 4, resid := false, lanes := [(0, 0x80)] }
    let w : Sweep := { id := 0, scope := 0, size := 0, target := 0, va := 0, reg := false }
    ((getCtx s 0).hints.find? fun h => decide (h.lanes.head?.map Prod.snd = some (0x80 : Dword))) = none ∧
    ((getCtx (modCtx s 0 fun x => { x with hints := [hint] }) 0).hints.find? fun h => decide (h.lanes.head?.map Prod.snd = some (0x80 : Dword))) = some hint ∧
    s.errs = [] ∧ (match walkVia z 0 0 0 0 { r := true } with | .ok _ => true | _ => false) = true ∧
    (match walkVia { z with mem := [] } 0 0 0 0 { r := true } with | .bad _ _ => true | _ => false) = true ∧
    (match walkVia { z with home := [(0, { st := .m, owner := .mate 5 })] } 0 0 0 0 { r := true } with | .waits _ => true | _ => false) = true ∧
    sweepFirst { s with sweeps := [w] } w = true ∧ sweepFirst { s with sweeps := [{ w with id := 7 }, w] } w = false ∧
    sweepOver { s with sweeps := [w] } w = true ∧
    ({ s with arming := some (3, true) } : State).arming = some (3, true) ∧
    (∀ p ∈ repPages (regs []) 3, ∀ l ∈ pageLines p, homeHas (regs []) l = true) ∧
    (∀ r ∈ s.repQueue, r ≠ 3 ∧ homeDie (64 * repPage s r) ≠ homeDie (64 * 1)) ∧ repWaits s 3 = [] ∧ (∀ y ∈ s.pending, y.ev ≠ .leaseTransitionEnd) ∧
    (({ s with pending := [⟨0, .leaseTransitionEnd⟩] } : State).pending.any fun y => decide (y.ev = .leaseTransitionEnd)) = true := by decide +kernel
theorem test_meets_replicas_held :
    repWaits { regs [] with repHeld := [(3, .span 1)], spans := [(1, span 0)] } 3 ≠ [] := by decide +kernel

/-- The other states of a fault: late ones that its slot's entry discards, a second one for a pending trap, halted contexts. -/
theorem test_meets_fault_states :
    let on : Map Dword := [(0x2608, 0x80060000)]
    let f := fault false false
    let g : PendingFault := { f with slot := true, record := { f.record with skid := 0x1000, lanes := 0 } }
    let pend := faulting { thread with inh := true, inhSlot := true, pendTrap := some g } 0xF00 on
    let halted (fl : List Access) : State := modCtx (faulting { thread with entering := [fault true false], flight := fl } 0xF00 on) 0 fun x => { x with halted := true }
    (getUnit pend 0 0).inh = true ∧ (getUnit pend 0 0).inhSlot ≠ f.slot ∧ (getUnit pend 0 0).pendTrap = some g ∧
    (getUnit (faulting { thread with inh := true, inhSlot := true } 0xF00 on) 0 0).pendTrap = none ∧ (getUnit pend 0 0).flight = [] ∧
    (getUnit (faulting { thread with chainLeft := 1, chainSlot := false } 0xF00 on) 0 0).chainSlot = f.slot ∧
    (getCtx (halted []) 0).halted = true ∧ (getUnit (halted []) 0 0).entering = [fault true false] ∧ (fault true false).sup = true ∧
    (fault true false).held = false ∧ (getUnit (halted []) 0 0).flight = [] ∧ (getUnit (halted [access .store [3]]) 0 0).flight ≠ [] ∧
    (getUnit (faulting { thread with chainLeft := 2, helds := [fault true true] } 0xF00 on) 0 0).chainLeft ≠ 0 ∧
    bankCtx (halted []) 0 0 = some 0 ∧ namedCtx (halted []) 0 0 (fun k => (getCtx (halted []) k).halted) = some 0 ∧ fltOn (halted []) 0 = true := by decide +kernel

/-- A push of a machine that runs; reads that wait and that fail; a mint's slot whose context is active. -/
theorem test_meets_push_states :
    let s := pushing (pushOf [(0, 7)] []) []
    s.stopped = false ∧ (match readElem (elsewhere s) 0 [] ((haloOf halo2).va 0 7) 4 with
      | (.waits, _, z) => decide ((getCtx z 0).pushes = (getCtx (elsewhere s) 0).pushes)
      | _ => false) = true ∧
    (match readElem (pushing (pushOf [(0, 7)] []) line0) 0 [] ((haloOf halo2).va 0 7) 4 with
      | (.got _, _, z) => decide ((getCtx z 0).pushes = (getCtx (pushing (pushOf [(0, 7)] []) line0) 0).pushes) && Map.sorted z.ctxs
      | _ => false) = true ∧
    (engineGet { pushing (pushOf [] []) line0 with ctl := [(8, 1)] } 0 none [] (2 ^ 39) 128).refused = some .page ∧
    (getCore (W 0 (holding (.mint 1) [])) (getCtx (W 0 (holding (.mint 1) [])) 0).home).active = some 0 := by decide +kernel

/-- The engines' other premises: copies between banks, sides that fail and sides that wait, deadlines, errors in the banks, and what
throttling and a stopped package hold. -/
theorem test_meets_engine_states :
    let k : Copy := { someCopy with segs := [seg2] }
    let b : Copy := { k with src := 0, dst := 0, flags := 3 }
    let out : Copy := { k with src := 0x4000000000 }
    let sides (k : Copy) (s : State) := (sideParts 0 0x44 k false (cutRuns 0 (k.srcRuns 3 0 2)) s).1.2
    b.sls = true ∧ b.dls = true ∧ getCopy (copying b) 0 0x44 0 = some b ∧ (sides out (copying out)).map (fun x => (x.walks, x.lost)) = some (false, false) ∧
    (sides k { copying k with cores := [(0, { active := some 0 })], home := [(0, { st := .m, owner := .mate 5 })] }).map PartBad.walks = some true ∧
    (copying k).stopped = false ∧ ({ copying k with stopped := true }).stopped = true ∧ seg2.deadline = 0 ∧ (getCtx (copying k) 0).lsErr = [] ∧
    (let f := fmtBytes 12 12 0 0
     let mma : CoxCmd := { someCmd with op := 0xB9, fmt := f }
     let s := engined mma none (some 0) []
     let xr := getCtx (readSide (readSide s 0 f false mma.a.toNat) 0 f true mma.b.toNat) 0
     groupPoison xr f false 0 0 (fbG f) mma.marked = none ∧ groupPoison xr f true 0 0 (fbG f) (fun _ _ => false) = none ∧ s.throttle = 0 ∧
       ({ s with throttle := 2 }).throttle ≠ 0 ∧ s.stopped = false ∧
     (let p := engined mma none (some 0) [(0, true)]
      groupPoison (getCtx (readSide (readSide p 0 f false 0) 0 f true 0) 0) f false 0 0 (fbG f) mma.marked ≠ none)) ∧
    (let l := engined { someCmd with op := 0xBC } none (some 0) []
     let p := engined { someCmd with op := 0xBC } none (some 0) [(0, true)]
     lsPois (getCtx (readLs l 0 0 16384) 0) 0 = false ∧ (getCtx (readLs l 0 0 16384) 0).lsPoison = [] ∧ lsPois (getCtx (readLs p 0 0 16384) 0) 0 = true) ∧
    millKind { milling 0 millBytes with home := [(0, { st := .m, owner := .mate 5 })] } = 200 ∧ (milling 0 millBytes).stopped = false := by decide +kernel

/-! ## Witnesses: decoding and steps -/

/-- Words that decoding rejects by each of its checks, in a crew and under each TYPE that the premises name. -/
theorem test_meets_illegal :
    Fresh (W 0 thread) ∧ decodeWord 0xFFFFFFFF = .reservedOpcode ∧ decodeWord 0x01000000 = .fixedField ∧
    decodeWord 0xB9A1C2C4 = .instr (.mma (.acc 1) (.g 2) (.g 4)) ∧ opAllowed (W 0 thread) 0xB9 = false ∧ opAllowed (W 0 thread) 0x28 = true ∧
    decodeWord 0x28C00102 = .instr (.add (.g 0) (.v 1) (.v 2)) ∧ operandsOk (W 0 thread) (.add (.g 0) (.v 1) (.v 2)) = false ∧
    (W 0 thread).cur.unit < 64 ∧ inHandler (W 0 thread) = false ∧ bitsN (curUnit (W 0 (crew 0x5800 [] []))).mode.toNat 11 5 = 11 ∧
    bitsN (curUnit (W 0 (crew 0x5000 [] []))).mode.toNat 11 5 = 10 ∧ (curUnit (W 0 thread)).chain = 0 :=
  ⟨fresh_W _ _, by decide +kernel⟩

/-- The instruction that is placed at reset: the state once its turn has begun, before it is fetched. -/
def placed : State := State.reset.withFetchWord 32 0x01808484
def fetching0 (s : State) : Option Bool × State := readRegs (setCur (tick { s with agenda := [] } 1) 0 0 false) 0 0
/-- The L1 copy from which a state's word comes, and its translation. -/
def fetchCopy (q : State) : Option (Nat × L1Line × Bool) :=
  let va := fetchVa (getFerry q 0 0) 0 q.cur.off
  match tlbGet q (curCore q) (getCtx q 0).asid (getCtx q 0).cls va { x := true } with
  | (.ok x, z) =>
    let l := xlatPa x va / 128
    let ok := decide (farBad z x va = none) && !pageRefused z l && z.errs.isEmpty && cellLine z l
    (mget? z.l1 (l1Key (sliceOf z (curCore q) l) l)).map fun cp => (fieldB cp.data (xlatPa x va % 128) 4, cp, ok && !later (clk z (curCore q)) cp.rts)
  | _ => none
/-- A word is fetched from memory, decoded and executed in one step. -/
theorem test_meets_steps :
    let s0 : State := { placed with agenda := [] }
    let q := (fetching0 placed).2
    let f := fetchPlanes 0 0 q.cur.off [0] q
    placed.agenda = [.issue 0 0] ∧ ctxIssues s0 0 = true ∧ (getUnit s0 0 0).live = true ∧ (getUnit s0 0 0).exited = false ∧
    hasTurn s0 0 0 = true ∧ nextSlot s0 0 0 = some false ∧ (fetching0 placed).1 = none ∧
    slotPlanes (getUnit q 0 0) 0 (slotOf (getUnit q 0 0) false).mask = [0] ∧ f.1 = [(0, 0x01808484)] ∧ f.2.1 = none ∧
    (getUnit f.2.2 0 0).chainLeft = 0 ∧ (fetchAhead 0 0 (slotOf (getUnit f.2.2 0 0) false).mask 3 (anyProduces f.1) (f.2.2.cur.off + 4) f.2.2).1 = true ∧
    alignBreak [(0, 0x01808484)] = none ∧ distinctWords [(0, 0x01808484)] = [(0, 0x01808484)] ∧ anyProduces [(0, 0x01808484)] = false ∧
    decodeWord 0x01808484 = .instr .nop ∧ alignBreak [(0, 0x02000001), (1, 0x01808484)] ≠ none ∧
    q.cur.off.toNat < (getFerry q 0 (getUnit q 0 0).ferry).stride ∧
    ((fetchCopy q).map fun e => (e.1, e.2.1.poison, e.2.2)) = some (0x01808484, false, true) ∧
    ([⟨5, .clockSync⟩] : List Timed)[0]? = some ⟨5, .clockSync⟩ := by decide +kernel
/-- Chains in progress, registers that hold an error, and a unit that has no turn. -/
theorem test_meets_step_kinds :
    let chained := modUnit placed 0 0 fun t => { t with chainLeft := 2 }
    (getUnit (fetching0 chained).2 0 0).chainLeft = 2 ∧
    (fetching0 { placed with errs := [(.regs 0 0, true)] }).1 = some true ∧ (fetching0 { placed with errs := [(.regs 0 0, false)] }).1 = some false ∧
    hasTurn { placed with stopped := true } 0 0 = true ∧ ctxIssues { placed with stopped := true } 0 = false := by decide +kernel

/-- A well-formed instruction with its word, and reset's memory. -/
theorem test_meets_encode :
    (Instr.sel (.g 63) .lane (.gp 3)).wf = true ∧ encode (.sel (.g 63) .lane (.gp 3)) = some 0x48FF8593 ∧ decodeWord 0x48FF8593 = .instr (.sel (.g 63) .lane (.gp 3)) ∧
    Memory.wf State.reset.mem = true := by decide +kernel

/-! ## Words written out from the encodings -/

/-- Words with the opcodes 0x00 to 0x0B, put together from the fields of spec/opcode_table.json and the codes of 14 R343. -/
theorem test_decode_00_to_0B :
    decodeWord 0x0078F63A = .instr (.ill 0x78F63A) ∧
    decodeWord 0x01808484 = .instr .nop ∧
    decodeWord 0x020733C9 = .instr (.bra 0x733C9) ∧
    decodeWord 0x03B3AEE6 = .instr (.bany (.gp 3) 0x3AEE6) ∧
    decodeWord 0x04A02A03 = .instr (.ball (.gp 2) 0x2A03) ∧
    decodeWord 0x05BCA521 = .instr (.bnone (.gp 3) 0xCA521) ∧
    decodeWord 0x06A9203E = .instr (.split (.gp 2) 0x9203E) ∧
    decodeWord 0x07808484 = .instr .join ∧
    decodeWord 0x08075DCD = .instr (.call 0x75DCD) ∧
    decodeWord 0x09809384 = .instr (.ret (.gp 3)) ∧
    decodeWord 0x0A04CA84 = .instr (.jmpg (.v 4) (.g 10)) ∧
    decodeWord 0x0B808484 = .instr .exit := by
  decide

/-- Words with the opcodes 0x0C to 0x17, put together from the fields of spec/opcode_table.json and the codes of 14 R343. -/
theorem test_decode_0C_to_17 :
    decodeWord 0x0C808484 = .instr .yield ∧
    decodeWord 0x0D800784 = .instr (.bar 0x7) ∧
    decodeWord 0x0E800684 = .instr (.bara 0x6) ∧
    decodeWord 0x0F800584 = .instr (.barw 0x5) ∧
    decodeWord 0x10808F21 = .instr (.hbar (.p 7) 0x2 0x1) ∧
    decodeWord 0x11808784 = .instr (.sleep .crew) ∧
    decodeWord 0x12807F84 = .instr (.exset (.v 127)) ∧
    decodeWord 0x13C08484 = .instr (.exget (.g 0)) ∧
    decodeWord 0x14807E0B = .instr (.modea 0x7E0B) ∧
    decodeWord 0x1580BB9A = .instr (.modeb 0xBB9A) ∧
    decodeWord 0x168B8484 = .instr (.modeg (.p 3)) ∧
    decodeWord 0x1780CA46 = .instr (.waitc (.g 10) 0x46) := by
  decide

/-- Words with the opcodes 0x18 to 0x28, put together from the fields of spec/opcode_table.json and the codes of 14 R343. -/
theorem test_decode_18_to_28 :
    decodeWord 0x18808584 = .instr (.plset .lane) ∧
    decodeWord 0x19808402 = .instr (.plsetp .zero 0x2) ∧
    decodeWord 0x1A008484 = .instr (.plocc (.v 0)) ∧
    decodeWord 0x1B800F84 = .instr (.repack 0xF) ∧
    decodeWord 0x208F7FFF = .instr (.pand (.p 7) (.v 127) (.g 63)) ∧
    decodeWord 0x21049310 = .instr (.por (.v 4) (.gp 3) (.v 16)) ∧
    decodeWord 0x22928285 = .instr (.pxor (.gp 2) (.q 2) .lane) ∧
    decodeWord 0x23FF8F84 = .instr (.pnot (.g 63) (.p 7)) ∧
    decodeWord 0x24938684 = .instr (.pmov (.gp 3) .plane) ∧
    decodeWord 0x25C07F84 = .instr (.psetg (.g 0) (.v 127)) ∧
    decodeWord 0x26048484 = .instr (.pgetg (.v 4)) ∧
    decodeWord 0x288B9310 = .instr (.add (.p 3) (.gp 3) (.v 16)) := by
  decide

/-- Words with the opcodes 0x29 to 0x34, put together from the fields of spec/opcode_table.json and the codes of 14 R343. -/
theorem test_decode_29_to_34 :
    decodeWord 0x297E8252 = .instr (.addi (.v 126) (.q 2) 0x52) ∧
    decodeWord 0x2A008F91 = .instr (.subw (.v 0) (.p 7) (.gp 1)) ∧
    decodeWord 0x2BC0877F = .instr (.mul (.g 0) .crew (.v 127)) ∧
    decodeWord 0x2C8B8093 = .instr (.mulh (.p 3) (.q 0) (.gp 3)) ∧
    decodeWord 0x2D7ECA82 = .instr (.mad (.v 126) (.g 10) (.q 2)) ∧
    decodeWord 0x2E00848F = .instr (.div (.v 0) .zero (.p 7)) ∧
    decodeWord 0x2FC08687 = .instr (.rem (.g 0) .plane .crew) ∧
    decodeWord 0x308BFF80 = .instr (.minw (.p 3) (.g 63) (.q 0)) ∧
    decodeWord 0x317E10CA = .instr (.maxw (.v 126) (.v 16) (.g 10)) ∧
    decodeWord 0x32008584 = .instr (.abs (.v 0) .lane) ∧
    decodeWord 0x338F8F84 = .instr (.neg (.p 7) (.p 7)) ∧
    decodeWord 0x34D48687 = .instr (.andw (.g 20) .plane .crew) := by
  decide

/-- Words with the opcodes 0x35 to 0x40, put together from the fields of spec/opcode_table.json and the codes of 14 R343. -/
theorem test_decode_35_to_40 :
    decodeWord 0x3580FF44 = .instr (.andi .none (.g 63) 0x44) ∧
    decodeWord 0x36A610CA = .instr (.orw (.acc 6) (.v 16) (.g 10)) ∧
    decodeWord 0x3793859C = .instr (.ori (.gp 3) .lane 0x9C) ∧
    decodeWord 0x38D49186 = .instr (.xorw (.g 20) (.gp 1) .plane) ∧
    decodeWord 0x39807FF4 = .instr (.xori .none (.v 127) 0xF4) ∧
    decodeWord 0x3AA69310 = .instr (.andn (.acc 6) (.gp 3) (.v 16)) ∧
    decodeWord 0x3B938284 = .instr (.notw (.gp 3) (.q 2)) ∧
    decodeWord 0x3CC0848F = .instr (.shl (.g 0) .zero (.p 7)) ∧
    decodeWord 0x3D8B8615 = .instr (.shli (.p 3) .plane 0x15) ∧
    decodeWord 0x3E7EFF80 = .instr (.shr (.v 126) (.g 63) (.q 0)) ∧
    decodeWord 0x3F00106D = .instr (.shri (.v 0) (.v 16) 0x6D) ∧
    decodeWord 0x40C08584 = .instr (.sra (.g 0) .lane .zero) := by
  decide

/-- Words with the opcodes 0x41 to 0x4C, put together from the fields of spec/opcode_table.json and the codes of 14 R343. -/
theorem test_decode_41_to_4C :
    decodeWord 0x418B91C5 = .instr (.srai (.p 3) (.gp 1) 0xC5) ∧
    decodeWord 0x427E7FFF = .instr (.rol (.v 126) (.v 127) (.g 63)) ∧
    decodeWord 0x43009384 = .instr (.clz (.v 0) (.gp 3)) ∧
    decodeWord 0x448FCA84 = .instr (.popc (.p 7) (.g 10)) ∧
    decodeWord 0x45D48584 = .instr (.brev (.g 20) .lane) ∧
    decodeWord 0x468B8F91 = .instr (.bfx (.p 3) (.p 7) (.gp 1)) ∧
    decodeWord 0x477E877F = .instr (.bfi (.v 126) .crew (.v 127)) ∧
    decodeWord 0x48008093 = .instr (.sel (.v 0) (.q 0) (.gp 3)) ∧
    decodeWord 0x49C0CA84 = .instr (.mov (.g 0) (.g 10)) ∧
    decodeWord 0x4A04D407 = .instr (.li (.v 4) 0xD407) ∧
    decodeWord 0x4B804F25 = .instr (.lih .none 0x4F25) ∧
    decodeWord 0x4C7E8687 = .instr (.lea (.v 126) .plane .crew) := by
  decide

/-- Words with the opcodes 0x4D to 0x59, put together from the fields of spec/opcode_table.json and the codes of 14 R343. -/
theorem test_decode_4D_to_59 :
    decodeWord 0x4D00FF80 = .instr (.addc (.v 0) (.g 63) (.q 0)) ∧
    decodeWord 0x4EC010CA = .instr (.clamp (.g 0) (.v 16) (.g 10)) ∧
    decodeWord 0x4F8B8584 = .instr (.cmpeq (.p 3) .lane .zero) ∧
    decodeWord 0x507E9186 = .instr (.cmpne (.v 126) (.gp 1) .plane) ∧
    decodeWord 0x51007FFF = .instr (.cmplt (.v 0) (.v 127) (.g 63)) ∧
    decodeWord 0x52C09310 = .instr (.cmple (.g 0) (.gp 3) (.v 16)) ∧
    decodeWord 0x538B8284 = .instr (.cmpeqi (.p 3) (.q 2) 0x84) ∧
    decodeWord 0x547E8F30 = .instr (.cmplti (.v 126) (.p 7) 0x30) ∧
    decodeWord 0x5500877F = .instr (.vget (.v 0) .crew (.v 127)) ∧
    decodeWord 0x56C08093 = .instr (.vput (.g 0) (.q 0) (.gp 3)) ∧
    decodeWord 0x588BCA82 = .instr (.shfl (.p 3) (.g 10) (.q 2)) ∧
    decodeWord 0x597E848F = .instr (.shflx (.v 126) .zero (.p 7)) := by
  decide

/-- Words with the opcodes 0x5A to 0x66, put together from the fields of spec/opcode_table.json and the codes of 14 R343. -/
theorem test_decode_5A_to_66 :
    decodeWord 0x5A008687 = .instr (.shflup (.v 0) .plane .crew) ∧
    decodeWord 0x5BC0FF80 = .instr (.shfldn (.g 0) (.g 63) (.q 0)) ∧
    decodeWord 0x5C8B10CA = .instr (.bcast (.p 3) (.v 16) (.g 10)) ∧
    decodeWord 0x5D7E8584 = .instr (.vote (.v 126) .lane) ∧
    decodeWord 0x5EFF8F05 = .instr (.cred (.g 63) (.p 7) 0x5) ∧
    decodeWord 0x608F877F = .instr (.fadd (.p 7) .crew (.v 127)) ∧
    decodeWord 0x61048093 = .instr (.fsub (.v 4) (.q 0) (.gp 3)) ∧
    decodeWord 0x6292CA82 = .instr (.fmul (.gp 2) (.g 10) (.q 2)) ∧
    decodeWord 0x63FF848F = .instr (.fma (.g 63) .zero (.p 7)) ∧
    decodeWord 0x648F8687 = .instr (.fms (.p 7) .plane .crew) ∧
    decodeWord 0x6504FF80 = .instr (.fnma (.v 4) (.g 63) (.q 0)) ∧
    decodeWord 0x669210CA = .instr (.fmin (.gp 2) (.v 16) (.g 10)) := by
  decide

/-- Words with the opcodes 0x67 to 0x72, put together from the fields of spec/opcode_table.json and the codes of 14 R343. -/
theorem test_decode_67_to_72 :
    decodeWord 0x67FF8584 = .instr (.fmax (.g 63) .lane .zero) ∧
    decodeWord 0x688F9184 = .instr (.fabs (.p 7) (.gp 1)) ∧
    decodeWord 0x69D48784 = .instr (.fneg (.g 20) .crew) ∧
    decodeWord 0x6A8BFF80 = .instr (.fcps (.p 3) (.g 63) (.q 0)) ∧
    decodeWord 0x6B7E10CA = .instr (.fcmpeq (.v 126) (.v 16) (.g 10)) ∧
    decodeWord 0x6C008584 = .instr (.fcmplt (.v 0) .lane .zero) ∧
    decodeWord 0x6DC09186 = .instr (.fcmple (.g 0) (.gp 1) .plane) ∧
    decodeWord 0x6E8B7FFF = .instr (.fcmpun (.p 3) (.v 127) (.g 63)) ∧
    decodeWord 0x6F7E9384 = .instr (.fclass (.v 126) (.gp 3)) ∧
    decodeWord 0x70FFCA84 = .instr (.frnd (.g 63) (.g 10)) ∧
    decodeWord 0x71938584 = .instr (.fscale (.gp 3) .lane .zero) ∧
    decodeWord 0x72D49184 = .instr (.fgete (.g 20) (.gp 1)) := by
  decide

/-- Words with the opcodes 0x73 to 0x7E, put together from the fields of spec/opcode_table.json and the codes of 14 R343. -/
theorem test_decode_73_to_7E :
    decodeWord 0x738B879A = .instr (.fcvt (.p 3) .crew 0x13 0x2) ∧
    decodeWord 0x74A69375 = .instr (.fcvti (.acc 6) (.gp 3) 0xE 0x5) ∧
    decodeWord 0x758F854F = .instr (.icvtf (.p 7) .lane 0x9 0x7) ∧
    decodeWord 0x768B8687 = .instr (.fdiv (.p 3) .plane .crew) ∧
    decodeWord 0x777EFF84 = .instr (.fsqrt (.v 126) (.g 63)) ∧
    decodeWord 0x78FF9384 = .instr (.frcp (.g 63) (.gp 3)) ∧
    decodeWord 0x7993CA84 = .instr (.frsq (.gp 3) (.g 10)) ∧
    decodeWord 0x7AC08584 = .instr (.fexp2 (.g 0) .lane) ∧
    decodeWord 0x7B048F84 = .instr (.flog2 (.v 4) (.p 7)) ∧
    decodeWord 0x7C808684 = .instr (.fsin .none .plane) ∧
    decodeWord 0x7D7E7F84 = .instr (.fcos (.v 126) (.v 127)) ∧
    decodeWord 0x7EFF8084 = .instr (.ftanh (.g 63) (.q 0)) := by
  decide

/-- Words with the opcodes 0x7F to 0x8B, put together from the fields of spec/opcode_table.json and the codes of 14 R343. -/
theorem test_decode_7F_to_8B :
    decodeWord 0x7F9310CA = .instr (.fdot2 (.gp 3) (.v 16) (.g 10)) ∧
    decodeWord 0x80D48584 = .instr (.fdot4 (.g 20) .lane .zero) ∧
    decodeWord 0x81809110 = .instr (.packn .none (.gp 1) 0x2 0x0) ∧
    decodeWord 0x82FFFF00 = .instr (.unpkn (.g 63) (.g 63) 0x0) ∧
    decodeWord 0x838F10CA = .instr (.ternp (.p 7) (.v 16) (.g 10)) ∧
    decodeWord 0x84048584 = .instr (.ternu (.v 4) .lane .zero) ∧
    decodeWord 0x85929184 = .instr (.srseed (.gp 2) (.gp 1)) ∧
    decodeWord 0x86A68784 = .instr (.fflags (.acc 6) .crew) ∧
    decodeWord 0x8800FF6B = .instr (.ld (.v 0) (.g 63) 0x6B) ∧
    decodeWord 0x89931017 = .instr (.st (.gp 3) (.v 16) 0x17) ∧
    decodeWord 0x8A8B85C3 = .instr (.ldacq (.p 3) .lane 0xC3) ∧
    decodeWord 0x8B8F916F = .instr (.strel (.p 7) (.gp 1) 0x6F) := by
  decide

/-- Words with the opcodes 0x8C to 0x97, put together from the fields of spec/opcode_table.json and the codes of 14 R343. -/
theorem test_decode_8C_to_97 :
    decodeWord 0x8C007F1B = .instr (.ldl (.v 0) (.v 127) 0x1B) ∧
    decodeWord 0x8D8093C7 = .instr (.stl (.q 0) (.gp 3) 0xC7) ∧
    decodeWord 0x8E8B8273 = .instr (.ldx (.p 3) (.q 2) 0x73) ∧
    decodeWord 0x8F848F1F = .instr (.stx .zero (.p 7) 0x1F) ∧
    decodeWord 0x9000877F = .instr (.atadd (.v 0) .crew (.v 127)) ∧
    decodeWord 0x91C08093 = .instr (.atmin (.g 0) (.q 0) (.gp 3)) ∧
    decodeWord 0x928BCA82 = .instr (.atmax (.p 3) (.g 10) (.q 2)) ∧
    decodeWord 0x937E848F = .instr (.atand (.v 126) .zero (.p 7)) ∧
    decodeWord 0x94008687 = .instr (.ator (.v 0) .plane .crew) ∧
    decodeWord 0x95C0FF80 = .instr (.atxor (.g 0) (.g 63) (.q 0)) ∧
    decodeWord 0x968B10CA = .instr (.atxch (.p 3) (.v 16) (.g 10)) ∧
    decodeWord 0x977E8584 = .instr (.atcas (.v 126) .lane .zero) := by
  decide

/-- Words with the opcodes 0x98 to 0xA8, put together from the fields of spec/opcode_table.json and the codes of 14 R343. -/
theorem test_decode_98_to_A8 :
    decodeWord 0x9880840D = .instr (.fence 0xD) ∧
    decodeWord 0x9980912A = .instr (.pref (.gp 1) 0x2A) ∧
    decodeWord 0x9A808748 = .instr (.resid .crew 0x48) ∧
    decodeWord 0xA0048093 = .instr (.lmint (.v 4) (.q 0) (.gp 3)) ∧
    decodeWord 0xA192CA82 = .instr (.lmintc (.gp 2) (.g 10) (.q 2)) ∧
    decodeWord 0xA2FF848F = .instr (.lmintg (.g 63) .zero (.p 7)) ∧
    decodeWord 0xA3809186 = .instr (.lsto (.gp 1) .plane) ∧
    decodeWord 0xA480877F = .instr (.lreq .crew (.v 127)) ∧
    decodeWord 0xA580FF84 = .instr (.ldrop (.g 63)) ∧
    decodeWord 0xA6809384 = .instr (.lstat .none (.gp 3)) ∧
    decodeWord 0xA7801084 = .instr (.lwait (.v 16)) ∧
    decodeWord 0xA880CA82 = .instr (.cpy (.g 10) (.q 2)) := by
  decide

/-- Words with the opcodes 0xA9 to 0xBB, put together from the fields of spec/opcode_table.json and the codes of 14 R343. -/
theorem test_decode_A9_to_BB :
    decodeWord 0xA9808584 = .instr (.cpyt .lane .zero) ∧
    decodeWord 0xAA8F9184 = .instr (.shopen (.p 7) (.gp 1)) ∧
    decodeWord 0xAB808687 = .instr (.publ .plane .crew) ∧
    decodeWord 0xAC8BFF84 = .instr (.shdisc (.p 3) (.g 63)) ∧
    decodeWord 0xAD808093 = .instr (.cpyres (.q 0) (.gp 3)) ∧
    decodeWord 0xAEA6CA84 = .instr (.halo (.acc 6) (.g 10)) ∧
    decodeWord 0xAF808484 = .instr .halop ∧
    decodeWord 0xB0808284 = .instr (.replh (.q 2)) ∧
    decodeWord 0xB8808584 = .instr (.fmtb .lane) ∧
    decodeWord 0xB98F8F91 = .instr (.mma (.p 7) (.p 7) (.gp 1)) ∧
    decodeWord 0xBA04877F = .instr (.mmas (.v 4) .crew (.v 127)) ∧
    decodeWord 0xBB928484 = .instr (.acz (.gp 2)) := by
  decide

/-- Words with the opcodes 0xBC to 0xD3, put together from the fields of spec/opcode_table.json and the codes of 14 R343. -/
theorem test_decode_BC_to_D3 :
    decodeWord 0xBC7E9384 = .instr (.acld (.v 126) (.gp 3)) ∧
    decodeWord 0xBDFFCA82 = .instr (.acst (.g 63) (.g 10) (.q 2)) ∧
    decodeWord 0xBE8F848F = .instr (.accvt (.p 7) .zero (.p 7)) ∧
    decodeWord 0xBF048684 = .instr (.acchk (.v 4) .plane) ∧
    decodeWord 0xC0808784 = .instr (.mill .crew) ∧
    decodeWord 0xC8807FFF = .instr (.fork (.v 127) (.g 63)) ∧
    decodeWord 0xC9800F84 = .instr (.rdv 0xF) ∧
    decodeWord 0xCAFF1084 = .instr (.spawn (.g 63) (.v 16)) ∧
    decodeWord 0xD0939A84 = .instr (.srd (.gp 3) 0x9A) ∧
    decodeWord 0xD18085B7 = .instr (.swr .lane 0xB7) ∧
    decodeWord 0xD2808406 = .instr (.trap 0x6) ∧
    decodeWord 0xD3808484 = .instr .tret := by
  decide

/-- Words with the opcodes 0xD4 to 0xD9, put together from the fields of spec/opcode_table.json and the codes of 14 R343. -/
theorem test_decode_D4_to_D9 :
    decodeWord 0xD48084D4 = .instr (.bkpt 0xD4) ∧
    decodeWord 0xD5808484 = .instr (.rdtim .none) ∧
    decodeWord 0xD6928484 = .instr (.rdlc (.gp 2)) ∧
    decodeWord 0xD7808484 = .instr .lpinv ∧
    decodeWord 0xD87EFF84 = .instr (.scrub (.v 126) (.g 63)) ∧
    decodeWord 0xD9FF9310 = .instr (.finj (.g 63) (.gp 3) (.v 16)) := by
  decide

/-- Words that the listings of the spec write out beside their mnemonics. -/
theorem test_listing_words :
    decodeWord 0xA1D410CA = .instr (.lmintc (.g 20) (.v 16) (.g 10)) ∧
    decodeWord 0xA380D408 = .instr (.lsto (.g 20) (.v 8)) ∧
    decodeWord 0xA7801084 = .instr (.lwait (.v 16)) ∧
    decodeWord 0x280402C0 = .instr (.add (.v 4) (.v 2) (.g 0)) ∧
    decodeWord 0x2AF8FAF8 = .instr (.subw (.g 56) (.g 58) (.g 56)) ∧
    decodeWord 0x208C8C8D = .instr (.pand (.p 4) (.p 4) (.p 5)) ∧
    decodeWord 0x238D8984 = .instr (.pnot (.p 5) (.p 1)) ∧
    decodeWord 0x2592C784 = .instr (.psetg (.gp 2) (.g 7)) ∧
    decodeWord 0x26C38484 = .instr (.pgetg (.g 3)) ∧
    decodeWord 0x49018584 = .instr (.mov (.v 1) .lane) ∧
    decodeWord 0x43F8F684 = .instr (.clz (.g 56) (.g 54)) ∧
    decodeWord 0x3D020203 = .instr (.shli (.v 2) (.v 2) 3) ∧
    decodeWord 0x4C04040A = .instr (.lea (.v 4) (.v 4) (.v 10)) ∧
    decodeWord 0x54898508 = .instr (.cmplti (.p 1) .lane 8) ∧
    decodeWord 0x4F8A0CD8 = .instr (.cmpeq (.p 2) (.v 12) (.g 24)) ∧
    decodeWord 0x4A035678 = .instr (.li (.v 3) 0x5678) ∧
    decodeWord 0x4B031234 = .instr (.lih (.v 3) 0x1234) ∧
    decodeWord 0x460403C5 = .instr (.bfx (.v 4) (.v 3) (.g 5)) ∧
    decodeWord 0x470304C6 = .instr (.bfi (.v 3) (.v 4) (.g 6)) ∧
    decodeWord 0x85800184 = .instr (.srseed .none (.v 1)) := by decide

/-- More words of the listings: lanes, modes, conversions and control flow. -/
theorem test_listing_words_2 :
    decodeWord 0x55D410E8 = .instr (.vget (.g 20) (.v 16) (.g 40)) ∧
    decodeWord 0x5608DEE8 = .instr (.vput (.v 8) (.g 30) (.g 40)) ∧
    decodeWord 0x5DC68A84 = .instr (.vote (.g 6) (.p 2)) ∧
    decodeWord 0x5EC68500 = .instr (.cred (.g 6) .lane 0) ∧
    decodeWord 0x5B8001C8 = .instr (.shfldn .none (.v 1) (.g 8)) ∧
    decodeWord 0x14807800 = .instr (.modea 0x7800) ∧
    decodeWord 0x81060100 = .instr (.packn (.v 6) (.v 1) 0 0) ∧
    decodeWord 0x80070606 = .instr (.fdot4 (.v 7) (.v 6) (.v 6)) ∧
    decodeWord 0x82080618 = .instr (.unpkn (.v 8) (.v 6) 3) ∧
    decodeWord 0x86C28484 = .instr (.fflags (.g 2) .zero) ∧
    decodeWord 0x0B808484 = .instr .exit ∧
    decodeWord 0x0980FF84 = .instr (.ret (.g 63)) ∧
    decodeWord 0x0AFECA84 = .instr (.jmpg (.g 62) (.g 10)) ∧
    decodeWord 0 = .instr (.ill 0) ∧
    decodeWord 0xFFFFFFFF = .reservedOpcode ∧
    decodeWord 0x01000000 = .fixedField := by decide

/-! ## Ill-formed terms, one for each check, refused -/

theorem test_wf_refuses_codes :
    ([.mov (.v 1) (.reserved 0x93), .mov (.v 1) (.reserved 0xC0), .mov (.reserved 0x80) (.v 1), .mov (.reserved 0x88) (.v 1),
      .mov (.reserved 0xA0) (.v 1), .mov (.reserved 0xC0) (.v 1), .bany (.reserved 11) 0] : List Instr).all (fun i => !i.wf) = true := by
  decide +kernel

/-- The same codes on the reserved side of each bound are well formed, as terms; they fault when they run (14 R356). -/
theorem test_wf_admits_codes :
    ([.mov (.v 1) (.reserved 0x94), .mov (.v 1) (.reserved 0xBF), .mov (.reserved 0x81) (.v 1), .mov (.reserved 0x87) (.v 1),
      .mov (.reserved 0xA8) (.v 1), .mov (.reserved 0xBF) (.v 1), .bany (.reserved 12) 0] : List Instr).all Instr.wf = true := by
  decide +kernel

theorem test_wf_refuses_places :
    ([.patrolScrubRead (2 ^ 45) .clean, .channelNotice 0 16, .channelNotice 128 0, .ackTimer 0 8, .recoveryEngineStart 64,
      .hostLinkDown 2, .coxCommandIssue 320, .fltHalt 0 3, .drainDie 4, .stkDrain 8, .qSkip 64, .trapEntry 0 0x48,
      .hostMemWrite 0 0 [], .hostBinvAck 0 0 (some []), .loadDataReturn ⟨0, 0x48, 0⟩] : List Instr).all (fun i => !i.wf) = true := by
  decide +kernel

theorem test_wf_refuses_messages :
    ([.rds { line := 2 ^ 45, src := 0, req := 0, data := none, own := false, poison := false, page := false },
      .rds { line := 0, src := 128, req := 0, data := none, own := false, poison := false, page := false },
      .rds { line := 0, src := 0, req := 128, data := none, own := false, poison := false, page := false },
      .data { line := 0, src := 0, req := 0, data := some [], own := false, poison := false, page := false },
      .drds { line := 0, src := .die 4, req := .die 0, toHome := false, pts := 0, wts := 0, rts := 0, grant := .s, data := none,
              poison := false, lastGrant := 0 },
      .drds { line := 0, src := .die 0, req := .mate 128, toHome := false, pts := 0, wts := 0, rts := 0, grant := .s, data := none,
              poison := false, lastGrant := 0 },
      .ddata { line := 0, src := .die 0, req := .die 0, toHome := false, pts := 0, wts := 0, rts := 0, grant := .s, data := some [],
               poison := false, lastGrant := 0 },
      .landingStore { name := 0, data := [0, 0], width := 0, cls := 0, clock := none, origin := .peer 0 0 },
      .landingStore { name := 0, data := [], width := 6, cls := 0, clock := none, origin := .peer 0 0 },
      .lreqRead { pa := 0, size := 257, name := 0, cls := 0, origin := .peer 0 0 },
      .lreqRead { pa := 2 ^ 52, size := 4, name := 0, cls := 0, origin := .peer 0 0 },
      .homeAtomic { pa := 2 ^ 52, op := .add, ty := 0, operand := 0, compare := 0, src := 0, tid := 0 },
      .homeAtomic { pa := 0, op := .add, ty := 28, operand := 0, compare := 0, src := 0, tid := 0 },
      .homeAtomic { pa := 0, op := .add, ty := 0, operand := 0, compare := 0, src := 128, tid := 0 },
      .hbarArrival { asid := 0, level := .cell, scope := 0, id := 16, count := 1, home := 0, ep := 0, cell := 0, core := 0, ctx := 0,
                     ferry := 0, clock := 0, kind := .now },
      .hbarArrival { asid := 0, level := .cell, scope := 0, id := 0, count := 1, home := 0, ep := 0, cell := 64, core := 0, ctx := 0,
                     ferry := 0, clock := 0, kind := .now },
      .spdmMessage 0 (.request 65536 0), .spdmMessage 0 (.accept 0 64), .spdmMessage 0 (.tagRefused 65536),
      .fabPacketReceive 0 0 { pseq := 0, pctr := 0, src := 128, dst := 0, ndata := 0, stream := 0, kslot := false, stag := 0, tag := 0,
                              payload := .sessionEnd },
      .fabPacketReceive 0 0 { pseq := 0, pctr := 0, src := 0, dst := 0, ndata := 0, stream := 8, kslot := false, stag := 0, tag := 0,
                              payload := .sessionEnd }] : List Instr).all (fun i => !i.wf) = true := by
  decide +kernel

theorem test_wf_refuses_numbers :
    ([.linkTransferError 11, .registerWrite 0x10000 0, .retiredTagExpiry 65536, .extRevokeComplete 0 32, .cwEnq 0 64 0 [],
      .cwEnq 0 0 4096 [], .cwEnq 0 0 0 (List.replicate 65 0), .cwBindWrite 0 64 0, .audAppend 16, .replicaArmDone 4096,
      .landingOutcome ⟨0, 0, 0⟩ 33 none, .lreqDeferredFault ⟨0, 0, 0⟩ 33 .page 0, .nameDeadline 0 256 0, .nameReclaimCellLost 0 256,
      .publComplete 65536, .bootMeasurementExtend 8 0] : List Instr).all (fun i => !i.wf) = true := by
  decide +kernel

/-- The greatest numbers that the same checks admit. -/
theorem test_wf_admits_numbers :
    ([.linkTransferError 10, .registerWrite 0xFFFF 0, .retiredTagExpiry 65535, .extRevokeComplete 1 31, .cwEnq 1 63 4095 [],
      .cwEnq 0 0 0 (List.replicate 64 0), .cwBindWrite 1 63 0, .audAppend 15, .replicaArmDone 4095,
      .landingOutcome ⟨0, 0, 0⟩ 32 none, .nameDeadline 319 255 0, .nameReclaimCellLost 0 255, .publComplete 65535,
      .channelNotice 127 15, .ackTimer 127 7, .fltHalt 319 2, .drainDie 3, .stkDrain 7, .qSkip 63] : List Instr).all Instr.wf = true := by
  decide +kernel

/-! ## One step each, with the values that the spec's own examples give -/

/-- Register g n after one word. -/
def gAfter (n : Nat) (i : Instr) (s : State) : Option Word := shows (exec i s) fun t => mgetD (curUnit t).g n 0
/-- Register v n of lane l after one word. -/
def vAfter (n l : Nat) (i : Instr) (s : State) : Option Word := shows (exec i s) fun t => mgetD (curUnit t).v (32 * n + l) 0
/-- A crew with the mode word m and the registers of g. -/
def G (m : Word) (g : Map Word) : State := W 0 (crew m g [])

/-- R409's lines: BFX sign-extends the field 0x8 and BFI writes it into bits 31 to 28. -/
theorem test_bfx_bfi :
    gAfter 4 (.bfx (.g 4) (.g 3) (.g 5)) (G 0x1000 [(3, 0x12345678), (5, 0x400)]) = some 0xFFFFFFF8 ∧
    gAfter 3 (.bfi (.g 3) (.g 4) (.g 6)) (G 0x1000 [(3, 0x12345678), (4, 0xFFFFFFF8), (6, 0x41C)]) = some 0x82345678 ∧
    gAfter 3 (.lih (.g 3) 0x1234) (G 0x1000 [(3, 0x5678)]) = some 0x12345678 := by decide +kernel

/-- Chapter 17: under i32, DIV of -7 by 2 gives -3 and REM gives -1; SUB g56, g58, g56 writes g58 - g56. -/
theorem test_div_rem_sub :
    gAfter 1 (.div (.g 1) (.g 2) (.g 3)) (G 0x1000 [(2, 0xFFFFFFF9), (3, 2)]) = some 0xFFFFFFFD ∧
    gAfter 1 (.rem (.g 1) (.g 2) (.g 3)) (G 0x1000 [(2, 0xFFFFFFF9), (3, 2)]) = some 0xFFFFFFFF ∧
    gAfter 56 (.subw (.g 56) (.g 58) (.g 56)) (G 0x1000 [(56, 3), (58, 10)]) = some 7 := by decide +kernel

/-- Chapter 17: with every lane active, CRED g6, $lane, 0 writes 496. -/
theorem test_cred_lanes : gAfter 6 (.cred (.g 6) .lane 0) (G 0x1000 []) = some 496 := by decide +kernel

/-- Chapter 17: CMPLTI p1, $lane, 8 sets p1 in lanes 0 to 7. -/
theorem test_cmplti_lane :
    shows (exec (.cmplti (.p 1) .lane 8) (G 0x1000 [])) (fun t => mgetD (curUnit t).p 1 0) = some 0xFF := by decide +kernel

/-- Chapter 17: LEA under i32 adds 4 times the index to the pair, sign-extending it. -/
theorem test_lea :
    (gAfter 4 (.lea (.g 4) (.g 4) (.g 10)) (G 0x1000 [(4, 0xFFFFFFF8), (5, 1), (10, 3)]) = some 4) ∧
    (gAfter 5 (.lea (.g 4) (.g 4) (.g 10)) (G 0x1000 [(4, 0xFFFFFFF8), (5, 1), (10, 3)]) = some 2) := by decide +kernel

/-- Chapter 17: VGET reads the lane that B numbers. -/
theorem test_vget :
    gAfter 20 (.vget (.g 20) (.v 16) (.g 40)) (W 0 (crew 0x1000 [(40, 8)] [(32 * 16 + 8, 77)])) = some 77 := by decide +kernel

/-- Chapter 18: under f32, FCLASS of 0x00000001 writes 0x20. -/
theorem test_fclass : gAfter 1 (.fclass (.g 1) (.g 2)) (G 0x5000 [(2, 1)]) = some 0x20 := by decide +kernel

/-- Chapter 18: FCVTI of -2.5 writes -2 under RNE and -3 under RNA. -/
theorem test_fcvti :
    (gAfter 2 (.fcvti (.g 2) (.g 1) 0 0) (G 0x5000 [(1, 0xC0200000)])).map (·.extractLsb' 0 8) = some 0xFE ∧
    (gAfter 2 (.fcvti (.g 2) (.g 1) 0 4) (G 0x5000 [(1, 0xC0200000)])).map (·.extractLsb' 0 8) = some 0xFD := by decide +kernel

/-- 15 R365: rows of the table of values into b8p4. INF is bit 26 of the mode word and SAT bit 7. -/
theorem test_into_b8p4 :
    ([(0x5000, 0xBF800000, 0xC0), (0x5000, 0x40400000, 0x4C), (0x5000, 0x3E800000, 0x30), (0x5000, 0x3F880000, 0x40),
      (0x5000, 0x43680000, 0x7E), (0x4005000, 0x436C0000, 0x7F), (0x4005080, 0x436C0000, 0x7E), (0x5000, 0x43960000, 0x80),
      (0x5080, 0x43960000, 0x7F), (0x5000, 0x80000000, 0x00)] : List (Word × Word × Byte)).all
      (fun (m, a, r) => decide ((gAfter 2 (.fcvt (.g 2) (.g 1) 15 0) (G m [(1, a)])).map (·.extractLsb' 0 8) = some r)) = true := by
  decide +kernel

/-- Chapter 15: the elements +1, -1, 0, 0, +1 pack to 0x58; the last TERNP adds 81 for the trit of element 4. -/
theorem test_ternp :
    gAfter 1 (.ternp (.g 1) (.g 2) (.g 3)) (G 0x5000 [(1, 7), (2, 0x3F800000), (3, 4)]) = some 0x58 := by decide +kernel

/-- Chapter 16: BRA with DISP 2 at offset 0x40 goes to 0x48, CALL links the next offset, RET ignores the low bits of g63. -/
theorem test_branches :
    shows (exec (.bra 2) (W 0 thread)) (fun t => (curUnit t).s0.off) = some 0x48 ∧
    shows (exec (.bra 0xFFFFE) (W 0 thread)) (fun t => (curUnit t).s0.off) = some 0x38 ∧
    gAfter 63 (.call 2) (W 0 thread) = some 0x44 ∧
    shows (exec (.ret (.g 63)) (G 0x1000 [(63, 0x103)])) (fun t => (curUnit t).s0.off) = some 0x100 := by decide +kernel

/-- Chapter 14: MODEA 0x1844 selects i64 and guard p1; MODEB 0x4100 fills the high half. -/
theorem test_modes :
    shows (exec (.modea 0x1844) (W 0 thread)) (fun t => (curUnit t).mode) = some 0x1844 ∧
    shows (exec (.modeb 0x4100) (W 0 thread)) (fun t => (curUnit t).mode) = some 0x41001000 := by decide +kernel

/-- R391, R356: ILL faults ILLEGAL; the word has no other effect than the fault that it leaves on the unit. -/
theorem test_ill :
    shows (exec (.ill 0) (W 0 thread)) (fun t => (curUnit t).g) = some [] ∧
    (wordFault (W 0 thread) (.ill 0)).map (·.cause) = some Cause.illegal := by
  decide +kernel

end Sys2Proof.Tests
end

section
/-! PROOFS. Branches, calls and returns (07 R183; 17 R391 to R394). -/

namespace Sys2Proof.Machine
open Sys2Proof.Safety

/-! ## Where a word goes -/

/-- A word with no effect leaves its slot at the next offset. -/
theorem moves_next {i : Instr} {s : State} {e : State → State} (he : exec i s = runWord i s e)
    (hid : e (noteOps s i) = noteOps s i) : Moves i s (s.cur.off + 4) := by
  intro h
  have hgoto : s.cur.goto = none := by
    obtain ⟨-, -, -, -, -, -, -, -, -, hgoto, -⟩ := h
    exact hgoto
  refine answers_word he h ?_
  rw [hid]
  exact commit_goes h.2 rfl _ rfl (congrArg (·.getD (s.cur.off + 4)) hgoto) rfl

/-- A word whose one effect is a new offset leaves its slot there. -/
theorem moves_goTo {i : Instr} {s : State} {e : State → State} {o : Word} (he : exec i s = runWord i s e)
    (hgo : e (noteOps s i) = goTo (noteOps s i) o) : Moves i s o := by
  intro h
  refine answers_word he h ?_
  rw [hgo]
  exact commit_goes h.2 rfl o rfl rfl rfl

/-- A branch on a condition that the noting of operands does not touch goes to its target or to the next offset. -/
theorem moves_branch {i : Instr} {s : State} {c : State → Bool} {t : BitVec 20}
    (he : exec i s = runWord i s fun s => if c s then branchTo s t else s) (hc : c (noteOps s i) = c s) :
    Moves i s (if c s then s.cur.off + 4 * t.signExtend 32 else s.cur.off + 4) := by
  cases h : c s with
  | true => exact moves_goTo he (by rw [hc, h]; rfl)
  | false => exact moves_next he (by rw [hc, h]; rfl)

theorem bany_moves (s : State) (p : PredField) (t : BitVec 20) :
    Moves (.bany p t) s (if takenAny s p then s.cur.off + 4 * t.signExtend 32 else s.cur.off + 4) :=
  moves_branch (c := fun s => takenAny s p) (exec_bany s p t) rfl

theorem ball_moves (s : State) (p : PredField) (t : BitVec 20) :
    Moves (.ball p t) s (if takenAll s p then s.cur.off + 4 * t.signExtend 32 else s.cur.off + 4) :=
  moves_branch (c := fun s => takenAll s p) (exec_ball s p t) rfl

theorem bnone_moves (s : State) (p : PredField) (t : BitVec 20) :
    Moves (.bnone p t) s (if takenNone s p then s.cur.off + 4 * t.signExtend 32 else s.cur.off + 4) :=
  moves_branch (c := fun s => takenNone s p) (exec_bnone s p t) rfl

/-! ## Which branches are taken -/

/-- Predicate k holds in lane l, and the lane is one of Exec(slot). -/
def predHolds (s : State) (k : Fin 8) (l : Nat) : Bool := decide (l ∈ execLanes s) && (rdP (curUnit s) k.val).getLsbD l

theorem mem_execLanes {s : State} {l : Nat} : l ∈ execLanes s ↔ l < 32 ∧ (execMask s).getLsbD l = true := by
  simp [execLanes, lanesOf]

theorem predMask_getLsbD (s : State) (k : Fin 8) {l : Nat} (hl : l < 32) :
    (predMask s (.p k)).getLsbD l = predHolds s k l := by
  simp [predMask, predHolds, mem_execLanes, hl]

/-- No lane of the predicate mask is set where no lane of Exec(slot) holds the predicate. -/
theorem predMask_eq_zero_iff (s : State) (k : Fin 8) :
    predMask s (.p k) = 0 ↔ ∀ l, l < 32 → predHolds s k l = false := by
  constructor
  · intro h l hl
    rw [← predMask_getLsbD s k hl, h]
    exact BitVec.getLsbD_zero
  · intro h
    refine BitVec.eq_of_getLsbD_eq fun l hl => ?_
    rw [predMask_getLsbD s k hl, h l hl]
    exact BitVec.getLsbD_zero.symm

theorem predMask_eq_execMask_iff (s : State) (k : Fin 8) :
    predMask s (.p k) = execMask s ↔ ∀ l ∈ execLanes s, predHolds s k l = true := by
  constructor
  · intro h l hmem
    obtain ⟨hl, hset⟩ := mem_execLanes.mp hmem
    rw [← predMask_getLsbD s k hl, h, hset]
  · intro h
    refine BitVec.eq_of_getLsbD_eq fun l hl => ?_
    rw [predMask_getLsbD s k hl]
    by_cases hmem : l ∈ execLanes s
    · rw [h l hmem, (mem_execLanes.mp hmem).2]
    · have hclear : (execMask s).getLsbD l = false := by simpa [mem_execLanes, hl] using hmem
      simp [predHolds, hmem, hclear]

theorem takenNone_p_iff (s : State) (k : Fin 8) :
    takenNone s (.p k) = true ↔ ∀ l, l < 32 → predHolds s k l = false := by
  simp only [takenNone, decide_eq_true_eq, predMask_eq_zero_iff]

theorem takenNone_p_eq_false_iff (s : State) (k : Fin 8) :
    takenNone s (.p k) = false ↔ ∃ l, l < 32 ∧ predHolds s k l = true := by
  rw [← Bool.not_eq_true, takenNone_p_iff]
  simp only [Classical.not_forall, Bool.not_eq_false, exists_prop]

/-- BANY is taken exactly where BNONE on the same predicate is not. -/
theorem takenAny_p (s : State) (k : Fin 8) : takenAny s (.p k) = !takenNone s (.p k) := decide_not

theorem takenAll_p_iff (s : State) (k : Fin 8) :
    takenAll s (.p k) = true ↔ ∀ l ∈ execLanes s, predHolds s k l = true := by
  simp only [takenAll, decide_eq_true_eq, predMask_eq_execMask_iff]

theorem takenAll_p_eq_false_iff (s : State) (k : Fin 8) :
    takenAll s (.p k) = false ↔ ∃ l ∈ execLanes s, predHolds s k l = false := by
  rw [← Bool.not_eq_true, takenAll_p_iff]
  simp only [Classical.not_forall, Bool.not_eq_true, exists_prop]

section
variable {s : State} {k : Fin 8} (t : BitVec 20)

theorem bany_taken (h : ∃ l, l < 32 ∧ predHolds s k l = true) :
    Moves (.bany (.p k) t) s (s.cur.off + 4 * t.signExtend 32) := by
  simpa [takenAny_p, (takenNone_p_eq_false_iff s k).mpr h] using bany_moves s (.p k) t

theorem bany_passed (h : ∀ l, l < 32 → predHolds s k l = false) : Moves (.bany (.p k) t) s (s.cur.off + 4) := by
  simpa [takenAny_p, (takenNone_p_iff s k).mpr h] using bany_moves s (.p k) t

theorem ball_taken (h : ∀ l ∈ execLanes s, predHolds s k l = true) :
    Moves (.ball (.p k) t) s (s.cur.off + 4 * t.signExtend 32) := by
  simpa [(takenAll_p_iff s k).mpr h] using ball_moves s (.p k) t

theorem ball_passed (h : ∃ l ∈ execLanes s, predHolds s k l = false) : Moves (.ball (.p k) t) s (s.cur.off + 4) := by
  simpa [(takenAll_p_eq_false_iff s k).mpr h] using ball_moves s (.p k) t

theorem bnone_taken (h : ∀ l, l < 32 → predHolds s k l = false) :
    Moves (.bnone (.p k) t) s (s.cur.off + 4 * t.signExtend 32) := by
  simpa [(takenNone_p_iff s k).mpr h] using bnone_moves s (.p k) t

theorem bnone_passed (h : ∃ l, l < 32 ∧ predHolds s k l = true) : Moves (.bnone (.p k) t) s (s.cur.off + 4) := by
  simpa [(takenNone_p_eq_false_iff s k).mpr h] using bnone_moves s (.p k) t

theorem bnone_gp_moves (s : State) (j : Fin 4) : Moves (.bnone (.gp j) t) s
    (if rdGp (curUnit s) j.val then s.cur.off + 4 else s.cur.off + 4 * t.signExtend 32) := by
  have h := bnone_moves s (.gp j) t
  cases hgp : rdGp (curUnit s) j.val <;> simpa [takenNone, hgp] using h

end

/-! ## Linking -/

theorem outsideKept_trans {s t u : State} (hst : OutsideKept s t) (htu : OutsideKept t u) : OutsideKept s u := by
  obtain ⟨hall, hmem, hctxs, hctx, hunits, hc, hu, hs⟩ := hst
  obtain ⟨hall', hmem', hctxs', hctx', hunits', hc', hu', hs'⟩ := htu
  rw [hc] at hctxs' hctx' hunits' hc'
  rw [hu] at hunits' hu'
  refine ⟨?_, fun a => (hmem' a).trans (hmem a), fun c h => (hctxs' c h).trans (hctxs c h), ?_,
    fun w h => (hunits' w h).trans (hunits w h), hc', hu', hs'.trans hs⟩
  · rw [hall', hall]
  · have hcur : curCtx t = getCtx t s.cur.ctx := by unfold curCtx; rw [hc]
    rw [hctx', hcur, hctx]

/-- Two changes of the unit that issues leave the same machine outside it. -/
theorem outsideKept_modCurUnit_modCurUnit (s : State) (f g : Thread → Thread) :
    OutsideKept (modCurUnit s f) (modCurUnit s g) := by
  refine ⟨rfl, fun _ => rfl, fun c hc => ?_, ?_, fun u hu => ?_, rfl, rfl, rfl⟩
  · have hne : c ≠ s.cur.ctx := hc
    simp only [modCurUnit, modUnit, getCtx_putUnit, if_neg hne]
  · simp only [curCtx, modCurUnit, modUnit, putUnit, putCtx_cur, getCtx_putCtx_same]
  · have hne : ¬ (s.cur.ctx = s.cur.ctx ∧ u = s.cur.unit) := fun h => hu h.2
    exact (getUnit_modCurUnit_other s g hne).trans (getUnit_modCurUnit_other s f hne).symm

/-- A write of a linked offset clears the register's RCL mark too; the statement's frame lets those marks differ, so a slot
that goes on from a unit with other marks goes on. -/
theorem goesTo_of_grcl {s z : State} {f : Thread → Thread} {m : Thread → Map Bool} {o : Word}
    (h : GoesTo (modCurUnit s fun t => { f t with grcl := m t }) z o) : GoesTo (modCurUnit s f) z o := by
  have hout := outsideKept_modCurUnit_modCurUnit s f fun t => { f t with grcl := m t }
  have hunit : curUnit (modCurUnit s fun t => { f t with grcl := m t }) =
      { curUnit (modCurUnit s f) with grcl := m (curUnit s) } := by
    rw [curUnit_modCurUnit, curUnit_modCurUnit]
  have hslot (t : Thread) (r : Map Bool) (b : Bool) : slotOf { t with grcl := r } b = slotOf t b := by cases b <;> rfl
  unfold GoesTo Rests PlanesKept SlotIs curSlot at h ⊢
  rw [hunit, hslot, hslot] at h
  obtain ⟨hv, hg, hp, hgp, hq, hplane, ⟨hcur, hother⟩, hkept, hflight, heq⟩ := h
  exact ⟨hv, hg, hp, hgp, hq, hplane, ⟨hcur, hother⟩, outsideKept_trans hout hkept, hflight, heq⟩

/-- A word that writes a g register and names its next offset leaves the slot there, and nothing else but the register. -/
theorem answers_putG_goTo {i : Instr} {s : State} {e : State → State} {n : Nat} {x o : Word}
    (he : exec i s = runWord i s e) (hlink : e (noteOps s i) = goTo (putG (noteOps s i) n x) o) (h : Runs i s) :
    Answers i s fun z => GoesTo (modCurUnit s fun t => wrG t n x) z o := by
  refine answers_word he h ?_
  rw [hlink]
  exact goesTo_of_grcl (commit_goes (u := putG s n x) h.2 rfl o rfl rfl rfl)

/-- A g register as the target of a jump. -/
theorem gOf_g (s : State) (n : Fin 64) : gOf s (.g n) = rdG (curUnit s) n.val := by
  show (zext64 (rdG (curUnit s) n.val)).setWidth 32 = _
  simp [zext64]

theorem ret_moves (s : State) (n : Fin 64) : Moves (.ret (.g n)) s (rdG (curUnit s) n.val &&& 0xFFFFFFFC) :=
  moves_goTo (exec_ret s (.g n)) (by rw [gOf_g]; rfl)

theorem jmpg_none_moves (s : State) (n : Fin 64) :
    Moves (.jmpg .none (.g n)) s (rdG (curUnit s) n.val &&& 0xFFFFFFFC) :=
  moves_goTo (exec_jmpg s .none (.g n)) (by rw [gOf_g]; rfl)

theorem call_links {s : State} {t : BitVec 20} (h : Runs (.call t) s) : Answers (.call t) s fun z =>
    GoesTo (modCurUnit s fun u => wrG u 63 (s.cur.off + 4)) z (s.cur.off + 4 * t.signExtend 32) :=
  answers_putG_goTo (exec_call s t) rfl h

theorem jmpg_links {s : State} {n' n : Fin 64} (h : Runs (.jmpg (.g n') (.g n)) s) :
    Answers (.jmpg (.g n') (.g n)) s fun z =>
      GoesTo (modCurUnit s fun u => wrG u n'.val (s.cur.off + 4)) z (rdG (curUnit s) n.val &&& 0xFFFFFFFC) :=
  answers_putG_goTo (exec_jmpg s (.g n') (.g n)) (by rw [gOf_g]; rfl) h

end Sys2Proof.Machine

namespace Sys2Proof
open Sys2Proof.Machine Sys2Proof.Safety

/-- Settles O21: each word's effect is an offset for its slot, with a linked register for CALL and JMPG; a conditional
branch on pN is taken as the lanes of Exec(slot) in which pN holds say. -/
theorem branches : Obligations.Branches := by
  intro s k j n n' t
  exact ⟨moves_next (exec_nop s) rfl, moves_next (exec_yield s) rfl, moves_goTo (exec_bra s t) rfl, bany_taken t,
    bany_passed t, ball_taken t, ball_passed t, bnone_taken t, bnone_passed t, bany_moves s (.gp j) t,
    ball_moves s (.gp j) t, bnone_gp_moves t s j, ret_moves s n, jmpg_none_moves s n, call_links, jmpg_links⟩

end Sys2Proof

end
section
/-! PROOFS. Integer arithmetic, constants and addresses (17 R399, R400, R402, R403, R407, R408). -/

namespace Sys2Proof.Machine
open Sys2Proof.Safety

/-! ## What the shared integer operations complete with -/

@[simp] theorem ictx_noteOps (s : State) (i : Instr) : ictx (noteOps s i) = ictx s := rfl

/-- A word whose effect is to compute values completes with them. -/
theorem answers_valueWord {i : Instr} {s : State} {e : State → State} {d : Dst} {wide : Bool} {f : Bool → Nat → Res}
    (he : exec i s = runWord i s e) (hval : e (noteOps s i) = valueWord (noteOps s i) d wide f) (h : Runs i s) :
    Answers i s fun t => Computes s t d wide f := by
  refine answers_word he h ?_
  rw [hval]
  exact valueWord_computes i d wide f h.2

/-- A word on two sources at TYPE completes with what its operation makes of them in each scope. -/
theorem intOp3_gives {i : Instr} {s : State} {d : Dst} {a b : Src} {op : ICtx → Nat → Nat → Nat} {f : Bool → Nat → Nat}
    (he : exec i s = runWord i s fun s => intOp3 s d a b op)
    (hop : ∀ g l, op (ictx s) (srcTy s g l a (ictx s).ty) (srcTy s g l b (ictx s).ty) = f g l) : GivesBits i s d f :=
  answers_valueWord he (by simp only [intOp3, ictx_noteOps, srcTy_noteOps, hop])

/-- A word on one source at TYPE completes with what its operation makes of it in each scope. -/
theorem intOp2_gives {i : Instr} {s : State} {d : Dst} {a : Src} {op : ICtx → Nat → Nat} {f : Bool → Nat → Nat}
    (he : exec i s = runWord i s fun s => intOp2 s d a op)
    (hop : ∀ g l, op (ictx s) (srcTy s g l a (ictx s).ty) = f g l) : GivesBits i s d f :=
  answers_valueWord he (by simp only [intOp2, ictx_noteOps, srcTy_noteOps, hop])

/-! ## Values -/

/-- MIN as R400 words it: B where it is the lesser. -/
theorem int_min_eq_ite_lt (x y : Int) : min x y = if y < x then y else x := by
  split <;> omega

/-- MAX as R400 words it: B where it is the greater. -/
theorem int_max_eq_ite_lt (x y : Int) : max x y = if x < y then y else x := by
  split <;> omega

/-- The magnitude of R403, case by sign. -/
theorem natAbs_eq_ite_neg (x : Int) : (x.natAbs : Int) = if x < 0 then -x else x := by
  split <;> omega

/-- An integer modulo 2^w is its word of w bits. -/
theorem ofNat_wrapN (z : Int) (w : Nat) : BitVec.ofNat w (wrapN z w) = BitVec.ofInt w z := by
  have hpos : (0 : Int) < (2 ^ w : Nat) := Int.natCast_pos.mpr (Nat.two_pow_pos w)
  have hlt : wrapN z w < 2 ^ w := (Int.toNat_lt (Int.emod_nonneg z (Int.ne_of_gt hpos))).mpr (Int.emod_lt_of_pos z hpos)
  exact BitVec.eq_of_toNat_eq (by rw [BitVec.toNat_ofNat, Nat.mod_eq_of_lt hlt, BitVec.toNat_ofInt, wrapN])

/-- An address is one sum modulo 2^64, whatever the sign of the scaled index (17 R408). -/
theorem ofNat_wrapN_toNat_add (x : Dword) (k : Int) :
    BitVec.ofNat 64 (wrapN (x.toNat + k) 64) = x + BitVec.ofInt 64 k := by
  rw [ofNat_wrapN, BitVec.ofInt_add, BitVec.ofInt_natCast, BitVec.ofNat_toNat, BitVec.setWidth_eq]

/-- LEA completes with base plus scaled index, in a register pair at every type (17 R408). -/
theorem lea_computes {s : State} {d : Dst} {a b : Src} (h : Runs (.lea d a b) s) :
    Answers (.lea d a b) s fun t => Computes s t d true fun g l =>
      resOf (srcIn s g l a true +
        BitVec.ofInt 64 ((ictx s).val (srcTy s g l b (ictx s).ty) * (tySize (ictx s).ty : Nat))) := by
  simp only [← ofNat_wrapN_toNat_add]
  exact answers_valueWord (exec_lea s d a b) rfl h

/-! ## Types that arithmetic refuses -/

/-- An illegal form is a fault of decode. -/
theorem wordFault_ne_none_of_form {s : State} {i : Instr}
    (h : (shape (curUnit s).mode (isCrew s.cur.unit) i).ok = false) : wordFault s i ≠ none := by
  intro hnone
  rw [ok_of_wordFault hnone] at h
  cases h

/-- Codes above 7 are no integer types (14 R350). -/
theorem isInt_eq_false {ty : Nat} (h : 7 < ty) : isInt ty = false := decide_eq_false (by omega)

/-- An arithmetic form on two sources is illegal where TYPE is no integer type (17 R399). -/
theorem shInt3_arith_not_ok {m : Word} (d : Dst) (a b : Src) (h : 7 < mTy m) : (shInt3 m true d a b).ok = false := by
  simp [shInt3, shape3, isInt_eq_false h]

theorem div_faults {s : State} (d : Dst) (a b : Src) (h : 7 < (ictx s).ty) : wordFault s (.div d a b) ≠ none :=
  wordFault_ne_none_of_form (shInt3_arith_not_ok d a b h)

theorem rem_faults {s : State} (d : Dst) (a b : Src) (h : 7 < (ictx s).ty) : wordFault s (.rem d a b) ≠ none :=
  wordFault_ne_none_of_form (shInt3_arith_not_ok d a b h)

theorem lea_faults {s : State} (d : Dst) (a b : Src) (h : 7 < (ictx s).ty) : wordFault s (.lea d a b) ≠ none := by
  refine wordFault_ne_none_of_form ?_
  have hty : isInt (mTy (curUnit s).mode) = false := isInt_eq_false h
  simp [shape3, hty]

end Sys2Proof.Machine

namespace Sys2Proof
open Sys2Proof.Machine Sys2Proof.Safety

/-- Settles O1: each word is one of the two shared integer operations, whose result the statement writes out; MIN and MAX
go by which source is the lesser, ABS by the sign. -/
theorem integerArithmetic : Obligations.IntegerArithmetic := by
  intro s d a b imm
  exact ⟨intOp3_gives (exec_add s d a b) fun _ _ => rfl,
    intOp2_gives (exec_addi s d a imm) fun _ _ => rfl,
    intOp3_gives (exec_subw s d a b) fun _ _ => rfl,
    intOp3_gives (exec_mul s d a b) fun _ _ => rfl,
    intOp3_gives (exec_mulh s d a b) fun _ _ => rfl,
    intOp3_gives (exec_minw s d a b) fun _ _ => congrArg (wrapN · _) (int_min_eq_ite_lt _ _),
    intOp3_gives (exec_maxw s d a b) fun _ _ => congrArg (wrapN · _) (int_max_eq_ite_lt _ _),
    intOp3_gives (exec_addc s d a b) fun _ _ => rfl,
    intOp3_gives (exec_div s d a b) fun _ _ => rfl,
    intOp3_gives (exec_rem s d a b) fun _ _ => rfl,
    intOp2_gives (exec_abs s d a) fun _ _ => congrArg (ictx s).fit (natAbs_eq_ite_neg _),
    intOp2_gives (exec_neg s d a) fun _ _ => rfl,
    fun hty => ⟨div_faults d a b hty, rem_faults d a b hty⟩⟩

/-- Settles O6: LI is an integer operation that ignores its source; LEA wraps its sum once, modulo 2^64, and no check of
the word looks at the address. -/
theorem constantsAndAddresses : Obligations.ConstantsAndAddresses := by
  intro s d a b imm
  exact ⟨intOp2_gives (exec_li s d imm) fun _ _ => rfl, lea_computes, lea_faults d a b⟩

end Sys2Proof

end
section
/-! PROOFS. Rounding state and flags (18 R433, R434; 15 R372, R374). -/

namespace Sys2Proof.Machine
open Sys2Proof.Safety

/-! ## Words that exchange rounding state -/

/-- A change of a unit that reaches only its sticky flags and generators. -/
def RoundingOnly (t u : Thread) : Prop := u = { t with sticky := u.sticky, sr := u.sr, sg := u.sg }

/-- A word that changes the unit's rounding state and then writes results, once in group scope or in each lane of
Exec(slot), completes with them and with the unit so changed. -/
theorem answers_exchange {i : Instr} {s : State} {e : State → State} {upd : Thread → Thread} {d : Dst}
    {r : Bool → Nat → Res} (he : exec i s = runWord i s e)
    (heff : e (noteOps s i) =
      if d.isGroup then writeGroup (modCurUnit (noteOps s i) upd) d false (r true 0)
      else writeLanes (modCurUnit (noteOps s i) upd) d false ((execLanes s).map fun l => (l, r false l)))
    (hupd : RoundingOnly (curUnit s) (upd (curUnit s))) (h : Runs i s) :
    Answers i s fun t => ComputesIn s t (upd (curUnit s)) d false r :=
  answers_word he h (write_results (n := modCurUnit (noteOps s i) upd) d false r h.2 rfl
    (outsideKept_modCurUnit (outsideKept_noteOps s i) upd) (curUnit_modCurUnit _ _) hupd _ heff)

/-! ## Seeds -/

/-- A control operand has 32 bits, so as a word it is 0 only where it is 0. -/
theorem ofNat_srcCtl_eq_zero_iff (s : State) (g : Bool) (l : Nat) (a : Src) :
    BitVec.ofNat 32 (srcCtl s g l a) = 0 ↔ srcCtl s g l a = 0 := by
  have hlt : srcCtl s g l a < 2 ^ 32 := Nat.mod_lt _ (Nat.two_pow_pos 32)
  rw [← BitVec.toNat_inj, BitVec.toNat_ofNat, Nat.mod_eq_of_lt hlt]
  rfl

/-- The state that a source seeds, as SRSEED finds it: its word, or the launch value z where the word is 0 (18 R433). -/
def seedOf (s : State) (g : Bool) (l : Nat) (a : Src) (z : Word) : Word :=
  let n := BitVec.ofNat 32 (srcCtl s g l a)
  if n = 0 then z else n

/-- The launch value stands for a source of 0 and for no other. -/
theorem seedOf_eq (s : State) (g : Bool) (l : Nat) (a : Src) (z : Word) :
    seedOf s g l a z = if srcCtl s g l a = 0 then z else BitVec.ofNat 32 (srcCtl s g l a) := by
  have hiff := ofNat_srcCtl_eq_zero_iff s g l a
  by_cases hzero : srcCtl s g l a = 0
  · exact (if_pos (hiff.mpr hzero)).trans (if_pos hzero).symm
  · exact (if_neg fun h => hzero (hiff.mp h)).trans (if_neg hzero).symm

/-! ## The generators of lanes -/

/-- Entries set at some keys, each to a value of its key. -/
theorem mgetD_foldl_mset {V : Type} (g : Nat → V) (ls : List Nat) (m : Map V) (q : Nat) (d : V) :
    mgetD (ls.foldl (fun m l => mset m l (g l)) m) q d = if q ∈ ls then g q else mgetD m q d := by
  induction ls generalizing m with
  | nil => rfl
  | cons a rest ih =>
    rw [List.foldl_cons, ih, mgetD_mset]
    by_cases hrest : q ∈ rest
    · rw [if_pos hrest, if_pos (List.mem_cons_of_mem _ hrest)]
    · by_cases ha : q = a
      · rw [if_neg hrest, if_pos ha, if_pos (ha ▸ List.mem_cons_self), ha]
      · rw [if_neg hrest, if_neg ha, if_neg (by simp [ha, hrest])]

/-- A unit after the generators of some lanes took the states g. -/
def reseedLanes (t : Thread) (ls : List Nat) (g : Nat → Word) : Thread :=
  { t with sr := (ls.map fun l => (l, g l)).foldl (fun m e => mset m e.1 e.2) t.sr }

theorem laneSr_reseedLanes (t : Thread) (ls : List Nat) (g : Nat → Word) (l : Nat) :
    laneSr (reseedLanes t ls g) l = if l ∈ ls then g l else laneSr t l := by
  unfold laneSr reseedLanes
  rw [List.foldl_map, mgetD_foldl_mset]
  rfl

/-- The frame of a word keeps the lanes' generators. -/
theorem unitKept_sr {a b : Thread} (h : UnitKept a b) : b.sr = a.sr := by
  obtain ⟨-, heq⟩ := h
  rw [heq]

theorem unitKept_laneSr {a b : Thread} (h : UnitKept a b) (l : Nat) : laneSr b l = laneSr a l := by
  obtain ⟨-, heq⟩ := h
  rw [heq]
  rfl

/-! ## The words -/

/-- SRSEED in group scope exchanges SG (18 R433). -/
theorem srseed_group {s : State} {d : Dst} {a : Src} (hd : d.isGroup = true) (h : Runs (.srseed d a) s) :
    Answers (.srseed d a) s fun t =>
      ComputesIn s t
        { curUnit s with
          sg := if srcCtl s true 0 a = 0 then launchSg s.cur.unit (curUnit s).num
            else BitVec.ofNat 32 (srcCtl s true 0 a) } d false
        fun _ _ => res32 (curUnit s).sg.toNat := by
  rw [← seedOf_eq]
  exact answers_exchange (upd := fun t => { t with sg := seedOf s true 0 a (launchSg s.cur.unit t.num) })
    (exec_srseed s d a) ((if_pos hd).trans (if_pos hd).symm) rfl h

/-- SRSEED in lanes exchanges the generators of the lanes of Exec(slot) (18 R433). -/
theorem srseed_lanes {s : State} {d : Dst} {a : Src} (hd : d.isGroup = false) (h : Runs (.srseed d a) s) :
    Answers (.srseed d a) s fun t =>
      ComputesIn s t (reseedLanes (curUnit s) (execLanes s) fun l =>
        seedOf s false l a (BitVec.ofNat 32 (32 * laneCrew (curUnit s) l + l + 1))) d false
        fun _ l => res32 (laneSr (curUnit s) l).toNat :=
  have hlanes : ¬ d.isGroup = true := by simp [hd]
  answers_exchange
    (upd := fun t => reseedLanes t (execLanes s) fun l =>
      seedOf s false l a (BitVec.ofNat 32 (32 * laneCrew (curUnit s) l + l + 1)))
    (exec_srseed s d a) ((if_neg hlanes).trans (if_neg hlanes).symm) rfl h

/-- FFLAGS answers the flags before it clears those that A selects (18 R434). -/
theorem fflags_computes {s : State} {d : Dst} {a : Src} (hd : d.isGroup = true) (h : Runs (.fflags d a) s) :
    Answers (.fflags d a) s fun t =>
      ComputesIn s t
        { curUnit s with sticky := (curUnit s).sticky &&& ~~~ BitVec.ofNat 6 (srcCtl s true 0 a) } d false
        fun _ _ => res32 (curUnit s).sticky.toNat :=
  answers_exchange
    (upd := fun t => { t with sticky := (curUnit s).sticky &&& ~~~ BitVec.ofNat 6 (srcCtl s true 0 a) })
    (exec_fflags s d a) (if_pos hd).symm rfl h

end Sys2Proof.Machine

namespace Sys2Proof
open Sys2Proof.Machine Sys2Proof.Safety

/-- Settles O19: each word is one change of the unit's rounding state followed by a write of the state before it; the
frame of the write carries the lanes' new generators to the end of the offset. -/
theorem roundingState : Obligations.RoundingState := by
  intro s n d a
  refine ⟨srseed_group rfl, fun hvn h => ?_, fflags_computes rfl⟩
  obtain ⟨t, hexec, hcomp⟩ := srseed_lanes (notGroup_of_vn hvn) h
  have ⟨_, _, _, _, _, _, hkept⟩ := hcomp
  refine ⟨t, hexec, ?_, fun l => ?_⟩
  · rw [unitKept_sr hkept]
    exact hcomp
  · rw [unitKept_laneSr hkept, laneSr_reseedLanes, seedOf_eq]

end Sys2Proof

end
